-- ==== Sys2Proof/Word.lean ====
section
/-! DEFINITION. The words of the ADSP-21065L: instruction words, data-register words, bus words, addresses.
Widths are those of 00_scope.md and 10_state.md; arithmetic is that of `BitVec`. -/

namespace Sys2Proof

/-- An instruction word (30_encoding.md R280: one length only, bits 47 to 0). -/
abbrev Word48 := BitVec 48

/-- A data register, and the image of any transfer on the 40-bit DM data bus (10_state.md R23, R25). -/
abbrev Word40 := BitVec 40

/-- A 32-bit register, a 32-bit memory word, an IOP register, a DM-bus address. -/
abbrev Word32 := BitVec 32

/-- A program address or a PM-bus address (10_state.md R37). -/
abbrev Addr24 := BitVec 24

/-- A multiplier accumulator MR2 ++ MR1 ++ MR0 (10_state.md R30). -/
abbrev Word80 := BitVec 80

end Sys2Proof
end

