-- ==== Sys2Proof/Config.lean ====
section
/-! DEFINITION. What an implementation or its surroundings fix and the spec does not print (92_eei_decisions.md section
3, 93_implementation_defined.md 'parameter'), and the free values: constants without a body, of which nothing can be
proved but that they exist. -/

namespace Sys2Proof.Config

/-- Bits 38:0 of the IDLE16 word, which no source prints (`IDLE16_WORD`, 30_encoding.md R333). -/
opaque idle16Low : BitVec 39

/-- The low bits of IDLE16 as the decoder uses them: different from those of IDLE, which are all zero (R333). -/
def idle16Field : BitVec 39 := if idle16Low = 0#39 then 1#39 else idle16Low

/-- A free value of the width of a memory or bus word: the n-th one drawn (treatment 'any value'). -/
opaque freeWord : Nat → BitVec 80

/-- A free choice between two behaviours that are each defined: the n-th one drawn (treatment 'draw'). -/
opaque freeChoice : Nat → Bool

/-- How many SDRAM clock cycles there are between two refreshes at the longest (tREF * fSDCLK over the number of rows,
61_dma_extport.md R810), a property of the SDRAM device and the clock. -/
opaque refreshCycles : Nat

/-- The seed ROM of RECIPS (`RECIPS_ROM`, 45_alu_float.md R522): the seven high fraction bits of the operand to the
fraction of the seed. The width of an entry is not stated; it is the 23 fraction bits of a 32-bit number (DESIGN CHOICE,
assumption log 16). Only `recipsRom` below, which holds the ROM to its stated accuracy, is used. -/
opaque recipsRomRaw : BitVec 7 → BitVec 23

/-- The seed ROM of RSQRTS (`RSQRTS_ROM`, 45_alu_float.md R523), indexed by the low bit of the biased exponent and the
six high fraction bits; entries of 23 bits as for RECIPS (DESIGN CHOICE, assumption log 16). Only `rsqrtsRom` below is used. -/
opaque rsqrtsRomRaw : BitVec 7 → BitVec 23

/-- Whether a seed fraction `f` for index `m` is 8-bit accurate: for every operand significand x in
[1 + m/128, 1 + (m+1)/128], the seed (1 + f)/2 is within a relative error of 2^-8 of 1/x (R522). The products are
scaled by 2^24 * 128. -/
def recipsAccurate (m f : Nat) : Bool :=
  255 * 2 ^ 23 ≤ (2 ^ 23 + f) * (128 + m) && (2 ^ 23 + f) * (129 + m) ≤ 257 * 2 ^ 23

/-- The seed ROM of RECIPS: any table with the stated accuracy. Where the unknown constant is not accurate the entry is
the rounded midpoint value, so that the accuracy holds whatever the constant is. -/
def recipsRom (m : BitVec 7) : BitVec 23 :=
  if recipsAccurate m.toNat (recipsRomRaw m).toNat then recipsRomRaw m
  else BitVec.ofNat 23 (2 ^ 32 / (257 + 2 * m.toNat) - 2 ^ 23)

/-- Lower end, times 64, of the interval of operand values X in [1, 4) that an RSQRTS index stands for: a clear low
bit of the biased exponent (an odd exponent) doubles the significand. -/
def rsqrtsLow (k : BitVec 7) : Nat :=
  (64 + (k.extractLsb' 0 6).toNat) * (if k.getLsbD 6 then 1 else 2)

/-- Upper end of the same interval, times 64. -/
def rsqrtsHigh (k : BitVec 7) : Nat := rsqrtsLow k + (if k.getLsbD 6 then 1 else 2)

/-- Whether a seed fraction is 4-bit accurate for an index: for every operand X in the interval of the index, the seed
(1 + f)/2 is within a relative error of 2^-4 of 1/sqrt X (R523). Squares are compared, scaled by 2^54. -/
def rsqrtsAccurate (k : BitVec 7) (f : Nat) : Bool :=
  225 * 2 ^ 46 ≤ (2 ^ 23 + f) ^ 2 * rsqrtsLow k && (2 ^ 23 + f) ^ 2 * rsqrtsHigh k ≤ 289 * 2 ^ 46

/-- The seed ROM of RSQRTS: any table with the stated accuracy, the midpoint value where the unknown constant is not
accurate. -/
def rsqrtsRom (k : BitVec 7) : BitVec 23 :=
  if rsqrtsAccurate k (rsqrtsRomRaw k).toNat then rsqrtsRomRaw k
  else BitVec.ofNat 23 (min (2 ^ 24 - 1) (Nat.sqrt (2 ^ 55 / (rsqrtsLow k + rsqrtsHigh k))) - 2 ^ 23)

/-- G.711 compression of a sample to eight bits (`G711_COMPRESS`, 62_serial_ports.md R850); the flag is true for A-law,
false for mu-law. -/
opaque g711Compress : Bool → BitVec 16 → BitVec 8

/-- G.711 expansion of eight bits to a sample (`G711_EXPAND`, 62_serial_ports.md R850). -/
opaque g711Expand : Bool → BitVec 8 → BitVec 16

end Sys2Proof.Config
end

