-- ==== Sys2Proof/Fields.lean ====
section
/-! DEFINITION. The operand fields of the instruction set as types: universal registers, system registers, the
compute operations of the 23-bit COMPUTE field with their options. The codes they have in a word are in Decode. -/

namespace Sys2Proof

/-- A universal register (10_state.md R21, R22). The number of an I, M, L or B register runs from 0 to 15; 0 to 7
are DAG1's, 8 to 15 DAG2's. -/
inductive Ureg where
  | r (n : BitVec 4) | i (n : BitVec 4) | m (n : BitVec 4) | l (n : BitVec 4) | b (n : BitVec 4)
  | faddr | daddr | pc | pcstk | pcstkp | laddr | curlcntr | lcntr
  | ustat1 | ustat2 | irptl | mode2 | mode1 | astat | imask | stky | imaskp
  | px | px1 | px2
  deriving DecidableEq, Repr

/-- A system register as the SREG field of the bit-manipulation instruction names it (30_encoding.md R293). -/
inductive Sreg where
  | ustat1 | ustat2 | irptl | mode2 | mode1 | astat | imask | stky | imaskp
  deriving DecidableEq, Repr

/-- The fixed-point ALU operations (44_alu_fixed.md R475 to R494). -/
inductive AluOp where
  | add | sub | addCi | subCi | avg | comp | incCi | decCi | inc | dec | neg | abs | pass
  | and | or | xor | not | min | max | clip
  deriving DecidableEq, Repr

/-- The floating-point ALU operations (45_alu_float.md R506 to R528). -/
inductive FltOp where
  | add | sub | absAdd | absSub | avg | comp | neg | abs | pass | rnd | scalb | mant | logb
  | fix | fixBy | trunc | truncBy | float | floatBy | recips | rsqrts | copysign | min | max | clip
  deriving DecidableEq, Repr

/-- The options (mod2) of a fixed-point multiply: signedness of the inputs, fraction or integer, rounding
(46_multiplier.md R547). -/
structure Mod2 where
  ySigned : Bool
  xSigned : Bool
  frac : Bool
  round : Bool
  deriving DecidableEq, Repr

/-- The options (mod1) of a saturation: fraction or integer, signed or unsigned (46_multiplier.md R547). -/
structure Mod1 where
  frac : Bool
  signed : Bool
  deriving DecidableEq, Repr

/-- The multiplier operations other than the MR transfers (46_multiplier.md R548 to R568, R570). A RND operation
is always fractional, so its only option is the sign. -/
inductive MulOp where
  | rn (m : Mod2) | mrf (m : Mod2) | mrb (m : Mod2)
  | rnMrfAdd (m : Mod2) | rnMrbAdd (m : Mod2) | mrfAdd (m : Mod2) | mrbAdd (m : Mod2)
  | rnMrfSub (m : Mod2) | rnMrbSub (m : Mod2) | mrfSub (m : Mod2) | mrbSub (m : Mod2)
  | rnSatMrf (m : Mod1) | rnSatMrb (m : Mod1) | mrfSat (m : Mod1) | mrbSat (m : Mod1)
  | rnRndMrf (signed : Bool) | rnRndMrb (signed : Bool) | mrfRnd (signed : Bool) | mrbRnd (signed : Bool)
  | mrfZero | mrbZero | fmul
  deriving DecidableEq, Repr

/-- The shifter operations (47_shifter.md R583 to R604). -/
inductive ShiftOp where
  | lshift | orLshift | ashift | orAshift | rot | bclr | bset | btgl | btst
  | fdep | orFdep | fdepSe | orFdepSe | fext | fextSe | exp | expEx | leftz | lefto | fpack | funpack
  deriving DecidableEq, Repr

/-- The shifter operations that have an immediate form in Type 6 (40_compute_move.md R362). -/
inductive ShiftImmOp where
  | lshift | orLshift | ashift | orAshift | rot | bclr | bset | btgl | btst
  | fdep | orFdep | fdepSe | orFdepSe | fext | fextSe
  deriving DecidableEq, Repr

/-- The operation of the register form behind an immediate form. -/
def ShiftImmOp.toShiftOp : ShiftImmOp → ShiftOp
  | .lshift => .lshift | .orLshift => .orLshift | .ashift => .ashift | .orAshift => .orAshift | .rot => .rot
  | .bclr => .bclr | .bset => .bset | .btgl => .btgl | .btst => .btst | .fdep => .fdep | .orFdep => .orFdep
  | .fdepSe => .fdepSe | .orFdepSe => .orFdepSe | .fext => .fext | .fextSe => .fextSe

/-- The multiplier result registers an MR transfer names (46_multiplier.md R569). -/
inductive MrReg where
  | mr0f | mr1f | mr2f | mr0b | mr1b | mr2b
  deriving DecidableEq, Repr

/-- The multiplier half of a fixed-point multiplier-and-ALU operation (48_multifunction.md R626). -/
inductive ParMul where
  | rm | mrfAdd | rmMrfAdd | mrfSub | rmMrfSub
  deriving DecidableEq, Repr

/-- The ALU half of a fixed-point multiplier-and-ALU operation (48_multifunction.md R626). -/
inductive ParAlu where
  | add | sub | avg
  deriving DecidableEq, Repr

/-- The ALU half of a floating-point multiplier-and-ALU operation (48_multifunction.md R627). -/
inductive ParFlt where
  | add | sub | floatBy | fixBy | avg | abs | max | min
  deriving DecidableEq, Repr

/-- The content of the COMPUTE field (30_encoding.md R300). Register fields that an operation does not use are kept
as they stand in the word and have no effect (R290). `ra`, `rs`, `rm` are results; `rxm`, `rym`, `rxa`, `rya` name
registers of the groups R0-3, R4-7, R8-11, R12-15. -/
inductive Compute where
  | none
  | alu (op : AluOp) (rn rx ry : BitVec 4)
  | dualAlu (rs ra rx ry : BitVec 4)
  | flt (op : FltOp) (rn rx ry : BitVec 4)
  | dualFlt (rs ra rx ry : BitVec 4)
  | mul (op : MulOp) (rn rx ry : BitVec 4)
  | shift (op : ShiftOp) (rn rx ry : BitVec 4)
  | mrRead (mr : MrReg) (rk : BitVec 4)
  | mrWrite (mr : MrReg) (rk : BitVec 4)
  | mulAlu (mop : ParMul) (aop : ParAlu) (rm ra : BitVec 4) (rxm rym rxa rya : BitVec 2)
  | mulFlt (aop : ParFlt) (rm ra : BitVec 4) (rxm rym rxa rya : BitVec 2)
  | mulDualAlu (rs rm ra : BitVec 4) (rxm rym rxa rya : BitVec 2)
  | mulDualFlt (rs rm ra : BitVec 4) (rxm rym rxa rya : BitVec 2)
  deriving DecidableEq, Repr

end Sys2Proof
end

