-- ==== Sys2Proof/Syntax.lean ====
section
/-! DEFINITION. The instruction set: one constructor for each row of spec/opcode_table.json (30_encoding.md, 40 to 48).
The rows of the 23-bit COMPUTE field (from `aluAdd` on) stand for that compute operation alone, the unconditional
Type 2 instruction that carries it (30_encoding.md R311, R341); the same operation inside another instruction is the
`Compute` argument of that instruction. -/

namespace Sys2Proof

/-- The instructions. A constructor carries the fields its row gives the word, from the high bit down; bits that no
field uses are not kept (30_encoding.md R284). A Type 20 word is named after its highest set bit and carries the bits
below it; `flushCache false` is the Type 20 word with no bit set (43_misc.md R445). -/
inductive Instr where
  /-- Type 1, R355 of 40_compute_move.md: `compute, DM(Ia,Mb) = dreg1 | dreg1 = DM(Ia,Mb), PM(Ic,Md) = dreg2 | dreg2 = PM(Ic,Md);` -/
  | dmPmDualMove (dmd : Bool) (dmi dmm : BitVec 3) (pmd : Bool) (dmDreg : BitVec 4) (pmi pmm : BitVec 3) (pmDreg : BitVec 4) (c : Compute)
  /-- Type 2, R356 of 40_compute_move.md: `IF COND compute;` -/
  | compute (cond : BitVec 5) (c : Compute)
  /-- Type 3, R357 of 40_compute_move.md: `IF COND compute, DM|PM(Ia,Mb) | DM|PM(Mb,Ia) = ureg | ureg = ...;` -/
  | uregMemMoveM (u : Bool) (i m : BitVec 3) (cond : BitVec 5) (g d : Bool) (ureg : Ureg) (c : Compute)
  /-- Type 4, R358 of 40_compute_move.md: `IF COND compute, DM|PM(Ia,<data6>) | DM|PM(<data6>,Ia) = dreg | dreg = ...;` -/
  | dregMemMoveImm6 (i : BitVec 3) (g d u : Bool) (cond : BitVec 5) (data : BitVec 6) (dreg : BitVec 4) (c : Compute)
  /-- Type 5, R359 of 40_compute_move.md: `IF COND compute, ureg1 = ureg2;` -/
  | uregUregMove (src : Ureg) (cond : BitVec 5) (dst : Ureg) (c : Compute)
  /-- Type 6 (no memory transfer), R362 of 40_compute_move.md: `LSHIFT_imm` -/
  | lshiftImm (cond : BitVec 5) (dataex : BitVec 4) (data : BitVec 8) (rn rx : BitVec 4)
  /-- Type 6 (with memory transfer), R362 of 40_compute_move.md: `LSHIFT_imm_with_move` -/
  | lshiftImmMove (i m : BitVec 3) (cond : BitVec 5) (g d : Bool) (dataex dreg : BitVec 4) (data : BitVec 8) (rn rx : BitVec 4)
  /-- Type 6 (no memory transfer), R362 of 40_compute_move.md: `OR_LSHIFT_imm` -/
  | orLshiftImm (cond : BitVec 5) (dataex : BitVec 4) (data : BitVec 8) (rn rx : BitVec 4)
  /-- Type 6 (with memory transfer), R362 of 40_compute_move.md: `OR_LSHIFT_imm_with_move` -/
  | orLshiftImmMove (i m : BitVec 3) (cond : BitVec 5) (g d : Bool) (dataex dreg : BitVec 4) (data : BitVec 8) (rn rx : BitVec 4)
  /-- Type 6 (no memory transfer), R362 of 40_compute_move.md: `ASHIFT_imm` -/
  | ashiftImm (cond : BitVec 5) (dataex : BitVec 4) (data : BitVec 8) (rn rx : BitVec 4)
  /-- Type 6 (with memory transfer), R362 of 40_compute_move.md: `ASHIFT_imm_with_move` -/
  | ashiftImmMove (i m : BitVec 3) (cond : BitVec 5) (g d : Bool) (dataex dreg : BitVec 4) (data : BitVec 8) (rn rx : BitVec 4)
  /-- Type 6 (no memory transfer), R362 of 40_compute_move.md: `OR_ASHIFT_imm` -/
  | orAshiftImm (cond : BitVec 5) (dataex : BitVec 4) (data : BitVec 8) (rn rx : BitVec 4)
  /-- Type 6 (with memory transfer), R362 of 40_compute_move.md: `OR_ASHIFT_imm_with_move` -/
  | orAshiftImmMove (i m : BitVec 3) (cond : BitVec 5) (g d : Bool) (dataex dreg : BitVec 4) (data : BitVec 8) (rn rx : BitVec 4)
  /-- Type 6 (no memory transfer), R362 of 40_compute_move.md: `ROT_imm` -/
  | rotImm (cond : BitVec 5) (dataex : BitVec 4) (data : BitVec 8) (rn rx : BitVec 4)
  /-- Type 6 (with memory transfer), R362 of 40_compute_move.md: `ROT_imm_with_move` -/
  | rotImmMove (i m : BitVec 3) (cond : BitVec 5) (g d : Bool) (dataex dreg : BitVec 4) (data : BitVec 8) (rn rx : BitVec 4)
  /-- Type 6 (no memory transfer), R362 of 40_compute_move.md: `BCLR_imm` -/
  | bclrImm (cond : BitVec 5) (dataex : BitVec 4) (data : BitVec 8) (rn rx : BitVec 4)
  /-- Type 6 (with memory transfer), R362 of 40_compute_move.md: `BCLR_imm_with_move` -/
  | bclrImmMove (i m : BitVec 3) (cond : BitVec 5) (g d : Bool) (dataex dreg : BitVec 4) (data : BitVec 8) (rn rx : BitVec 4)
  /-- Type 6 (no memory transfer), R362 of 40_compute_move.md: `BSET_imm` -/
  | bsetImm (cond : BitVec 5) (dataex : BitVec 4) (data : BitVec 8) (rn rx : BitVec 4)
  /-- Type 6 (with memory transfer), R362 of 40_compute_move.md: `BSET_imm_with_move` -/
  | bsetImmMove (i m : BitVec 3) (cond : BitVec 5) (g d : Bool) (dataex dreg : BitVec 4) (data : BitVec 8) (rn rx : BitVec 4)
  /-- Type 6 (no memory transfer), R362 of 40_compute_move.md: `BTGL_imm` -/
  | btglImm (cond : BitVec 5) (dataex : BitVec 4) (data : BitVec 8) (rn rx : BitVec 4)
  /-- Type 6 (with memory transfer), R362 of 40_compute_move.md: `BTGL_imm_with_move` -/
  | btglImmMove (i m : BitVec 3) (cond : BitVec 5) (g d : Bool) (dataex dreg : BitVec 4) (data : BitVec 8) (rn rx : BitVec 4)
  /-- Type 6 (no memory transfer), R362 of 40_compute_move.md: `BTST_imm` -/
  | btstImm (cond : BitVec 5) (dataex : BitVec 4) (data : BitVec 8) (rn rx : BitVec 4)
  /-- Type 6 (with memory transfer), R362 of 40_compute_move.md: `BTST_imm_with_move` -/
  | btstImmMove (i m : BitVec 3) (cond : BitVec 5) (g d : Bool) (dataex dreg : BitVec 4) (data : BitVec 8) (rn rx : BitVec 4)
  /-- Type 6 (no memory transfer), R362 of 40_compute_move.md: `FDEP_imm` -/
  | fdepImm (cond : BitVec 5) (dataex : BitVec 4) (data : BitVec 8) (rn rx : BitVec 4)
  /-- Type 6 (with memory transfer), R362 of 40_compute_move.md: `FDEP_imm_with_move` -/
  | fdepImmMove (i m : BitVec 3) (cond : BitVec 5) (g d : Bool) (dataex dreg : BitVec 4) (data : BitVec 8) (rn rx : BitVec 4)
  /-- Type 6 (no memory transfer), R362 of 40_compute_move.md: `OR_FDEP_imm` -/
  | orFdepImm (cond : BitVec 5) (dataex : BitVec 4) (data : BitVec 8) (rn rx : BitVec 4)
  /-- Type 6 (with memory transfer), R362 of 40_compute_move.md: `OR_FDEP_imm_with_move` -/
  | orFdepImmMove (i m : BitVec 3) (cond : BitVec 5) (g d : Bool) (dataex dreg : BitVec 4) (data : BitVec 8) (rn rx : BitVec 4)
  /-- Type 6 (no memory transfer), R362 of 40_compute_move.md: `FDEP_SE_imm` -/
  | fdepSeImm (cond : BitVec 5) (dataex : BitVec 4) (data : BitVec 8) (rn rx : BitVec 4)
  /-- Type 6 (with memory transfer), R362 of 40_compute_move.md: `FDEP_SE_imm_with_move` -/
  | fdepSeImmMove (i m : BitVec 3) (cond : BitVec 5) (g d : Bool) (dataex dreg : BitVec 4) (data : BitVec 8) (rn rx : BitVec 4)
  /-- Type 6 (no memory transfer), R362 of 40_compute_move.md: `OR_FDEP_SE_imm` -/
  | orFdepSeImm (cond : BitVec 5) (dataex : BitVec 4) (data : BitVec 8) (rn rx : BitVec 4)
  /-- Type 6 (with memory transfer), R362 of 40_compute_move.md: `OR_FDEP_SE_imm_with_move` -/
  | orFdepSeImmMove (i m : BitVec 3) (cond : BitVec 5) (g d : Bool) (dataex dreg : BitVec 4) (data : BitVec 8) (rn rx : BitVec 4)
  /-- Type 6 (no memory transfer), R362 of 40_compute_move.md: `FEXT_imm` -/
  | fextImm (cond : BitVec 5) (dataex : BitVec 4) (data : BitVec 8) (rn rx : BitVec 4)
  /-- Type 6 (with memory transfer), R362 of 40_compute_move.md: `FEXT_imm_with_move` -/
  | fextImmMove (i m : BitVec 3) (cond : BitVec 5) (g d : Bool) (dataex dreg : BitVec 4) (data : BitVec 8) (rn rx : BitVec 4)
  /-- Type 6 (no memory transfer), R362 of 40_compute_move.md: `FEXT_SE_imm` -/
  | fextSeImm (cond : BitVec 5) (dataex : BitVec 4) (data : BitVec 8) (rn rx : BitVec 4)
  /-- Type 6 (with memory transfer), R362 of 40_compute_move.md: `FEXT_SE_imm_with_move` -/
  | fextSeImmMove (i m : BitVec 3) (cond : BitVec 5) (g d : Bool) (dataex dreg : BitVec 4) (data : BitVec 8) (rn rx : BitVec 4)
  /-- Type 7, R364 of 40_compute_move.md: `IF COND compute, MODIFY(Ia,Mb);` -/
  | modify (g : Bool) (cond : BitVec 5) (i m : BitVec 3) (c : Compute)
  /-- Type 8, R386 of 41_program_flow.md: `IF COND JUMP <addr24> (DB)(LA)(CI);` -/
  | jumpDirect (a : Bool) (cond : BitVec 5) (j ci : Bool) (addr : BitVec 24)
  /-- Type 8, R386 of 41_program_flow.md: `IF COND JUMP (PC,<reladdr24>) (DB)(LA)(CI);` -/
  | jumpPcrel (a : Bool) (cond : BitVec 5) (j ci : Bool) (reladdr : BitVec 24)
  /-- Type 9, R387 of 41_program_flow.md: `IF COND JUMP (Md,Ic) (DB)(LA)(CI), compute | ELSE compute;` -/
  | jumpIndirect (a : Bool) (cond : BitVec 5) (pmi pmm : BitVec 3) (j e ci : Bool) (c : Compute)
  /-- Type 9, R387 of 41_program_flow.md: `IF COND JUMP (PC,<reladdr6>) (DB)(LA)(CI), compute | ELSE compute;` -/
  | jumpPcrel6 (a : Bool) (cond : BitVec 5) (reladdr : BitVec 6) (j e ci : Bool) (c : Compute)
  /-- Type 8, R386 of 41_program_flow.md: `IF COND CALL <addr24> (DB)(LA)(CI);` -/
  | callDirect (a : Bool) (cond : BitVec 5) (j ci : Bool) (addr : BitVec 24)
  /-- Type 8, R386 of 41_program_flow.md: `IF COND CALL (PC,<reladdr24>) (DB)(LA)(CI);` -/
  | callPcrel (a : Bool) (cond : BitVec 5) (j ci : Bool) (reladdr : BitVec 24)
  /-- Type 9, R387 of 41_program_flow.md: `IF COND CALL (Md,Ic) (DB)(LA)(CI), compute | ELSE compute;` -/
  | callIndirect (a : Bool) (cond : BitVec 5) (pmi pmm : BitVec 3) (j e ci : Bool) (c : Compute)
  /-- Type 9, R387 of 41_program_flow.md: `IF COND CALL (PC,<reladdr6>) (DB)(LA)(CI), compute | ELSE compute;` -/
  | callPcrel6 (a : Bool) (cond : BitVec 5) (reladdr : BitVec 6) (j e ci : Bool) (c : Compute)
  /-- Type 10, R388 of 41_program_flow.md: `IF COND JUMP (Md,Ic), ELSE compute, DM(Ia,Mb) = dreg | dreg = DM(Ia,Mb);` -/
  | jumpIndirectElseMove (d : Bool) (dmi dmm : BitVec 3) (cond : BitVec 5) (pmi pmm : BitVec 3) (dreg : BitVec 4) (c : Compute)
  /-- Type 10, R388 of 41_program_flow.md: `IF COND JUMP (PC,<reladdr6>), ELSE compute, DM(Ia,Mb) = dreg | dreg = DM(Ia,Mb);` -/
  | jumpPcrel6ElseMove (d : Bool) (dmi dmm : BitVec 3) (cond : BitVec 5) (reladdr : BitVec 6) (dreg : BitVec 4) (c : Compute)
  /-- Type 11, R389 of 41_program_flow.md: `IF COND RTS (DB)(LR), compute | ELSE compute;` -/
  | rts (cond : BitVec 5) (j e lr : Bool) (c : Compute)
  /-- Type 11, R390 of 41_program_flow.md: `IF COND RTI (DB), compute | ELSE compute;` -/
  | rti (cond : BitVec 5) (j e : Bool) (c : Compute)
  /-- Type 12, R394 of 41_program_flow.md: `LCNTR = <data16>, DO <addr24>|(PC,<reladdr24>) UNTIL LCE;` -/
  | lcntrImmDo (data : BitVec 16) (reladdr : BitVec 24)
  /-- Type 12, R394 of 41_program_flow.md: `LCNTR = ureg, DO <addr24>|(PC,<reladdr24>) UNTIL LCE;` -/
  | lcntrUregDo (ureg : Ureg) (reladdr : BitVec 24)
  /-- Type 13, R395 of 41_program_flow.md: `DO <addr24>|(PC,<reladdr24>) UNTIL termination;` -/
  | doUntil (term : BitVec 5) (reladdr : BitVec 24)
  /-- Type 14, R421 of 42_immediate_move.md: `DM|PM(<addr32>) = ureg | ureg = DM|PM(<addr32>);` -/
  | uregMemDirect (g d : Bool) (ureg : Ureg) (addr : BitVec 32)
  /-- Type 15, R422 of 42_immediate_move.md: `DM|PM(<data32>,Ia) = ureg | ureg = DM|PM(<data32>,Ia);` -/
  | uregMemImm32 (g : Bool) (i : BitVec 3) (d : Bool) (ureg : Ureg) (data : BitVec 32)
  /-- Type 16, R423 of 42_immediate_move.md: `DM|PM(Ia,Mb) = <data32>;` -/
  | memImm32Store (i m : BitVec 3) (g : Bool) (data : BitVec 32)
  /-- Type 17, R424 of 42_immediate_move.md: `ureg = <data32>;` -/
  | uregImm32 (ureg : Ureg) (data : BitVec 32)
  /-- Type 18, R440 of 43_misc.md: `BIT SET sreg <data32>;` -/
  | bitSet (sreg : Sreg) (data : BitVec 32)
  /-- Type 18, R440 of 43_misc.md: `BIT CLR sreg <data32>;` -/
  | bitClr (sreg : Sreg) (data : BitVec 32)
  /-- Type 18, R440 of 43_misc.md: `BIT TGL sreg <data32>;` -/
  | bitTgl (sreg : Sreg) (data : BitVec 32)
  /-- Type 18, R440 of 43_misc.md: `BIT TST sreg <data32>;` -/
  | bitTst (sreg : Sreg) (data : BitVec 32)
  /-- Type 18, R440 of 43_misc.md: `BIT XOR sreg <data32>;` -/
  | bitXor (sreg : Sreg) (data : BitVec 32)
  /-- Type 19, R441 of 43_misc.md: `MODIFY(Ia,<data32>);` -/
  | modifyImm (g : Bool) (i : BitVec 3) (data : BitVec 32)
  /-- Type 19, R442 of 43_misc.md: `BITREV(Ia,<data32>);` -/
  | bitrevImm (g : Bool) (i : BitVec 3) (data : BitVec 32)
  /-- Type 20, R447 of 43_misc.md: `PUSH_LOOP` -/
  | pushLoop (lpo spu spo ppu ppo fc : Bool)
  /-- Type 20, R447 of 43_misc.md: `POP_LOOP` -/
  | popLoop (spu spo ppu ppo fc : Bool)
  /-- Type 20, R448 of 43_misc.md: `PUSH_STS` -/
  | pushSts (spo ppu ppo fc : Bool)
  /-- Type 20, R448 of 43_misc.md: `POP_STS` -/
  | popSts (ppu ppo fc : Bool)
  /-- Type 20, R446 of 43_misc.md: `PUSH_PCSTK` -/
  | pushPcstk (ppo fc : Bool)
  /-- Type 20, R446 of 43_misc.md: `POP_PCSTK` -/
  | popPcstk (fc : Bool)
  /-- Type 20, R449 of 43_misc.md: `FLUSH_CACHE` -/
  | flushCache (fc : Bool)
  /-- Type 21, R450 of 43_misc.md: `NOP` -/
  | nop
  /-- Type 22, R451 of 43_misc.md: `IDLE` -/
  | idle
  /-- Type 23, R452 of 43_misc.md: `IDLE16` -/
  | idle16
  /-- Type 24, R453 of 43_misc.md: `CJUMP <addr24> (DB);` -/
  | cjumpDirect (addr : BitVec 24)
  /-- Type 24, R453 of 43_misc.md: `CJUMP (PC,<reladdr24>) (DB);` -/
  | cjumpPcrel (reladdr : BitVec 24)
  /-- Type 24, R454 of 43_misc.md: `RFRAME` -/
  | rframe
  /-- compute ALU, R475 of 44_alu_fixed.md: `Rn = Rx + Ry` -/
  | aluAdd (rn rx ry : BitVec 4)
  /-- compute ALU, R476 of 44_alu_fixed.md: `Rn = Rx - Ry` -/
  | aluSub (rn rx ry : BitVec 4)
  /-- compute ALU, R477 of 44_alu_fixed.md: `Rn = Rx + Ry + CI` -/
  | aluAddCi (rn rx ry : BitVec 4)
  /-- compute ALU, R478 of 44_alu_fixed.md: `Rn = Rx - Ry + CI - 1` -/
  | aluSubCi (rn rx ry : BitVec 4)
  /-- compute ALU, R479 of 44_alu_fixed.md: `Rn = (Rx + Ry)/2` -/
  | aluAvg (rn rx ry : BitVec 4)
  /-- compute ALU, R480 of 44_alu_fixed.md: `COMP(Rx, Ry)` -/
  | aluComp (rn rx ry : BitVec 4)
  /-- compute ALU, R481 of 44_alu_fixed.md: `Rn = Rx + CI` -/
  | aluIncCi (rn rx ry : BitVec 4)
  /-- compute ALU, R482 of 44_alu_fixed.md: `Rn = Rx + CI - 1` -/
  | aluDecCi (rn rx ry : BitVec 4)
  /-- compute ALU, R483 of 44_alu_fixed.md: `Rn = Rx + 1` -/
  | aluInc (rn rx ry : BitVec 4)
  /-- compute ALU, R484 of 44_alu_fixed.md: `Rn = Rx - 1` -/
  | aluDec (rn rx ry : BitVec 4)
  /-- compute ALU, R485 of 44_alu_fixed.md: `Rn = -Rx` -/
  | aluNeg (rn rx ry : BitVec 4)
  /-- compute ALU, R486 of 44_alu_fixed.md: `Rn = ABS Rx` -/
  | aluAbs (rn rx ry : BitVec 4)
  /-- compute ALU, R487 of 44_alu_fixed.md: `Rn = PASS Rx` -/
  | aluPass (rn rx ry : BitVec 4)
  /-- compute ALU, R488 of 44_alu_fixed.md: `Rn = Rx AND Ry` -/
  | aluAnd (rn rx ry : BitVec 4)
  /-- compute ALU, R489 of 44_alu_fixed.md: `Rn = Rx OR Ry` -/
  | aluOr (rn rx ry : BitVec 4)
  /-- compute ALU, R490 of 44_alu_fixed.md: `Rn = Rx XOR Ry` -/
  | aluXor (rn rx ry : BitVec 4)
  /-- compute ALU, R491 of 44_alu_fixed.md: `Rn = NOT Rx` -/
  | aluNot (rn rx ry : BitVec 4)
  /-- compute ALU, R492 of 44_alu_fixed.md: `Rn = MIN(Rx, Ry)` -/
  | aluMin (rn rx ry : BitVec 4)
  /-- compute ALU, R493 of 44_alu_fixed.md: `Rn = MAX(Rx, Ry)` -/
  | aluMax (rn rx ry : BitVec 4)
  /-- compute ALU, R494 of 44_alu_fixed.md: `Rn = CLIP Rx BY Ry` -/
  | aluClip (rn rx ry : BitVec 4)
  /-- compute dual add/subtract, R623 of 48_multifunction.md: `Ra = Rx + Ry, Rs = Rx - Ry` -/
  | aluDual (rs ra rx ry : BitVec 4)
  /-- compute ALU, R506 of 45_alu_float.md: `Fn = Fx + Fy` -/
  | fltAdd (rn rx ry : BitVec 4)
  /-- compute ALU, R507 of 45_alu_float.md: `Fn = Fx - Fy` -/
  | fltSub (rn rx ry : BitVec 4)
  /-- compute ALU, R508 of 45_alu_float.md: `Fn = ABS(Fx + Fy)` -/
  | fltAbsAdd (rn rx ry : BitVec 4)
  /-- compute ALU, R509 of 45_alu_float.md: `Fn = ABS(Fx - Fy)` -/
  | fltAbsSub (rn rx ry : BitVec 4)
  /-- compute ALU, R510 of 45_alu_float.md: `Fn = (Fx + Fy)/2` -/
  | fltAvg (rn rx ry : BitVec 4)
  /-- compute ALU, R511 of 45_alu_float.md: `COMP(Fx, Fy)` -/
  | fltComp (rn rx ry : BitVec 4)
  /-- compute ALU, R512 of 45_alu_float.md: `Fn = -Fx` -/
  | fltNeg (rn rx ry : BitVec 4)
  /-- compute ALU, R513 of 45_alu_float.md: `Fn = ABS Fx` -/
  | fltAbs (rn rx ry : BitVec 4)
  /-- compute ALU, R514 of 45_alu_float.md: `Fn = PASS Fx` -/
  | fltPass (rn rx ry : BitVec 4)
  /-- compute ALU, R515 of 45_alu_float.md: `Fn = RND Fx` -/
  | fltRnd (rn rx ry : BitVec 4)
  /-- compute ALU, R516 of 45_alu_float.md: `Fn = SCALB Fx BY Ry` -/
  | fltScalb (rn rx ry : BitVec 4)
  /-- compute ALU, R517 of 45_alu_float.md: `Rn = MANT Fx` -/
  | fltMant (rn rx ry : BitVec 4)
  /-- compute ALU, R518 of 45_alu_float.md: `Rn = LOGB Fx` -/
  | fltLogb (rn rx ry : BitVec 4)
  /-- compute ALU, R519 of 45_alu_float.md: `Rn = FIX Fx` -/
  | fltFix (rn rx ry : BitVec 4)
  /-- compute ALU, R519 of 45_alu_float.md: `Rn = FIX Fx BY Ry` -/
  | fltFixBy (rn rx ry : BitVec 4)
  /-- compute ALU, R520 of 45_alu_float.md: `Rn = TRUNC Fx` -/
  | fltTrunc (rn rx ry : BitVec 4)
  /-- compute ALU, R520 of 45_alu_float.md: `Rn = TRUNC Fx BY Ry` -/
  | fltTruncBy (rn rx ry : BitVec 4)
  /-- compute ALU, R521 of 45_alu_float.md: `Fn = FLOAT Rx` -/
  | fltFloat (rn rx ry : BitVec 4)
  /-- compute ALU, R521 of 45_alu_float.md: `Fn = FLOAT Rx BY Ry` -/
  | fltFloatBy (rn rx ry : BitVec 4)
  /-- compute ALU, R522 of 45_alu_float.md: `Fn = RECIPS Fx` -/
  | fltRecips (rn rx ry : BitVec 4)
  /-- compute ALU, R523 of 45_alu_float.md: `Fn = RSQRTS Fx` -/
  | fltRsqrts (rn rx ry : BitVec 4)
  /-- compute ALU, R525 of 45_alu_float.md: `Fn = Fx COPYSIGN Fy` -/
  | fltCopysign (rn rx ry : BitVec 4)
  /-- compute ALU, R526 of 45_alu_float.md: `Fn = MIN(Fx, Fy)` -/
  | fltMin (rn rx ry : BitVec 4)
  /-- compute ALU, R527 of 45_alu_float.md: `Fn = MAX(Fx, Fy)` -/
  | fltMax (rn rx ry : BitVec 4)
  /-- compute ALU, R528 of 45_alu_float.md: `Fn = CLIP Fx BY Fy` -/
  | fltClip (rn rx ry : BitVec 4)
  /-- compute dual add/subtract, R624 of 48_multifunction.md: `Fa = Fx + Fy, Fs = Fx - Fy` -/
  | fltDual (rs ra rx ry : BitVec 4)
  /-- compute multiplier, R548 of 46_multiplier.md: `Rn = Rx * Ry (mod2)` -/
  | mulRn (mod : Mod2) (rn rx ry : BitVec 4)
  /-- compute multiplier, R549 of 46_multiplier.md: `MRF = Rx * Ry (mod2)` -/
  | mulMrf (mod : Mod2) (rn rx ry : BitVec 4)
  /-- compute multiplier, R550 of 46_multiplier.md: `MRB = Rx * Ry (mod2)` -/
  | mulMrb (mod : Mod2) (rn rx ry : BitVec 4)
  /-- compute multiplier, R551 of 46_multiplier.md: `Rn = MRF + Rx * Ry (mod2)` -/
  | mulRnMrfAdd (mod : Mod2) (rn rx ry : BitVec 4)
  /-- compute multiplier, R552 of 46_multiplier.md: `Rn = MRB + Rx * Ry (mod2)` -/
  | mulRnMrbAdd (mod : Mod2) (rn rx ry : BitVec 4)
  /-- compute multiplier, R553 of 46_multiplier.md: `MRF = MRF + Rx * Ry (mod2)` -/
  | mulMrfAdd (mod : Mod2) (rn rx ry : BitVec 4)
  /-- compute multiplier, R554 of 46_multiplier.md: `MRB = MRB + Rx * Ry (mod2)` -/
  | mulMrbAdd (mod : Mod2) (rn rx ry : BitVec 4)
  /-- compute multiplier, R555 of 46_multiplier.md: `Rn = MRF - Rx * Ry (mod2)` -/
  | mulRnMrfSub (mod : Mod2) (rn rx ry : BitVec 4)
  /-- compute multiplier, R556 of 46_multiplier.md: `Rn = MRB - Rx * Ry (mod2)` -/
  | mulRnMrbSub (mod : Mod2) (rn rx ry : BitVec 4)
  /-- compute multiplier, R557 of 46_multiplier.md: `MRF = MRF - Rx * Ry (mod2)` -/
  | mulMrfSub (mod : Mod2) (rn rx ry : BitVec 4)
  /-- compute multiplier, R558 of 46_multiplier.md: `MRB = MRB - Rx * Ry (mod2)` -/
  | mulMrbSub (mod : Mod2) (rn rx ry : BitVec 4)
  /-- compute multiplier, R560 of 46_multiplier.md: `Rn = SAT MRF (mod1)` -/
  | mulRnSatMrf (mod : Mod1) (rn rx ry : BitVec 4)
  /-- compute multiplier, R561 of 46_multiplier.md: `Rn = SAT MRB (mod1)` -/
  | mulRnSatMrb (mod : Mod1) (rn rx ry : BitVec 4)
  /-- compute multiplier, R562 of 46_multiplier.md: `MRF = SAT MRF (mod1)` -/
  | mulMrfSat (mod : Mod1) (rn rx ry : BitVec 4)
  /-- compute multiplier, R563 of 46_multiplier.md: `MRB = SAT MRB (mod1)` -/
  | mulMrbSat (mod : Mod1) (rn rx ry : BitVec 4)
  /-- compute multiplier, R564 of 46_multiplier.md: `Rn = RND MRF (mod1)` -/
  | mulRnRndMrf (signed : Bool) (rn rx ry : BitVec 4)
  /-- compute multiplier, R565 of 46_multiplier.md: `Rn = RND MRB (mod1)` -/
  | mulRnRndMrb (signed : Bool) (rn rx ry : BitVec 4)
  /-- compute multiplier, R566 of 46_multiplier.md: `MRF = RND MRF (mod1)` -/
  | mulMrfRnd (signed : Bool) (rn rx ry : BitVec 4)
  /-- compute multiplier, R567 of 46_multiplier.md: `MRB = RND MRB (mod1)` -/
  | mulMrbRnd (signed : Bool) (rn rx ry : BitVec 4)
  /-- compute multiplier, R568 of 46_multiplier.md: `MRF = 0` -/
  | mulMrfZero (rn rx ry : BitVec 4)
  /-- compute multiplier, R568 of 46_multiplier.md: `MRB = 0` -/
  | mulMrbZero (rn rx ry : BitVec 4)
  /-- compute multiplier, R570 of 46_multiplier.md: `Fn = Fx * Fy` -/
  | mulFloat (rn rx ry : BitVec 4)
  /-- compute shifter, R583 of 47_shifter.md: `Rn = LSHIFT Rx BY Ry` -/
  | shLshift (rn rx ry : BitVec 4)
  /-- compute shifter, R584 of 47_shifter.md: `Rn = Rn OR LSHIFT Rx BY Ry` -/
  | shOrLshift (rn rx ry : BitVec 4)
  /-- compute shifter, R585 of 47_shifter.md: `Rn = ASHIFT Rx BY Ry` -/
  | shAshift (rn rx ry : BitVec 4)
  /-- compute shifter, R586 of 47_shifter.md: `Rn = Rn OR ASHIFT Rx BY Ry` -/
  | shOrAshift (rn rx ry : BitVec 4)
  /-- compute shifter, R587 of 47_shifter.md: `Rn = ROT Rx BY Ry` -/
  | shRot (rn rx ry : BitVec 4)
  /-- compute shifter, R588 of 47_shifter.md: `Rn = BCLR Rx BY Ry` -/
  | shBclr (rn rx ry : BitVec 4)
  /-- compute shifter, R589 of 47_shifter.md: `Rn = BSET Rx BY Ry` -/
  | shBset (rn rx ry : BitVec 4)
  /-- compute shifter, R590 of 47_shifter.md: `Rn = BTGL Rx BY Ry` -/
  | shBtgl (rn rx ry : BitVec 4)
  /-- compute shifter, R591 of 47_shifter.md: `BTST Rx BY Ry` -/
  | shBtst (rn rx ry : BitVec 4)
  /-- compute shifter, R592 of 47_shifter.md: `Rn = FDEP Rx BY Ry` -/
  | shFdep (rn rx ry : BitVec 4)
  /-- compute shifter, R593 of 47_shifter.md: `Rn = Rn OR FDEP Rx BY Ry` -/
  | shOrFdep (rn rx ry : BitVec 4)
  /-- compute shifter, R594 of 47_shifter.md: `Rn = FDEP Rx BY Ry (SE)` -/
  | shFdepSe (rn rx ry : BitVec 4)
  /-- compute shifter, R595 of 47_shifter.md: `Rn = Rn OR FDEP Rx BY Ry (SE)` -/
  | shOrFdepSe (rn rx ry : BitVec 4)
  /-- compute shifter, R596 of 47_shifter.md: `Rn = FEXT Rx BY Ry` -/
  | shFext (rn rx ry : BitVec 4)
  /-- compute shifter, R597 of 47_shifter.md: `Rn = FEXT Rx BY Ry (SE)` -/
  | shFextSe (rn rx ry : BitVec 4)
  /-- compute shifter, R598 of 47_shifter.md: `Rn = EXP Rx` -/
  | shExp (rn rx ry : BitVec 4)
  /-- compute shifter, R599 of 47_shifter.md: `Rn = EXP Rx (EX)` -/
  | shExpEx (rn rx ry : BitVec 4)
  /-- compute shifter, R600 of 47_shifter.md: `Rn = LEFTZ Rx` -/
  | shLeftz (rn rx ry : BitVec 4)
  /-- compute shifter, R601 of 47_shifter.md: `Rn = LEFTO Rx` -/
  | shLefto (rn rx ry : BitVec 4)
  /-- compute shifter, R603 of 47_shifter.md: `Rn = FPACK Fx` -/
  | shFpack (rn rx ry : BitVec 4)
  /-- compute shifter, R604 of 47_shifter.md: `Fn = FUNPACK Rx` -/
  | shFunpack (rn rx ry : BitVec 4)
  /-- compute MR transfer, R569 of 46_multiplier.md: `Rk = MR0F` -/
  | mr0fRead (rk : BitVec 4)
  /-- compute MR transfer, R569 of 46_multiplier.md: `MR0F = Rk` -/
  | mr0fWrite (rk : BitVec 4)
  /-- compute MR transfer, R569 of 46_multiplier.md: `Rk = MR1F` -/
  | mr1fRead (rk : BitVec 4)
  /-- compute MR transfer, R569 of 46_multiplier.md: `MR1F = Rk` -/
  | mr1fWrite (rk : BitVec 4)
  /-- compute MR transfer, R569 of 46_multiplier.md: `Rk = MR2F` -/
  | mr2fRead (rk : BitVec 4)
  /-- compute MR transfer, R569 of 46_multiplier.md: `MR2F = Rk` -/
  | mr2fWrite (rk : BitVec 4)
  /-- compute MR transfer, R569 of 46_multiplier.md: `Rk = MR0B` -/
  | mr0bRead (rk : BitVec 4)
  /-- compute MR transfer, R569 of 46_multiplier.md: `MR0B = Rk` -/
  | mr0bWrite (rk : BitVec 4)
  /-- compute MR transfer, R569 of 46_multiplier.md: `Rk = MR1B` -/
  | mr1bRead (rk : BitVec 4)
  /-- compute MR transfer, R569 of 46_multiplier.md: `MR1B = Rk` -/
  | mr1bWrite (rk : BitVec 4)
  /-- compute MR transfer, R569 of 46_multiplier.md: `Rk = MR2B` -/
  | mr2bRead (rk : BitVec 4)
  /-- compute MR transfer, R569 of 46_multiplier.md: `MR2B = Rk` -/
  | mr2bWrite (rk : BitVec 4)
  /-- compute multiplier and ALU, R626 of 48_multifunction.md: `Rm = R3-0 * R7-4 (SSFR), Ra = R11-8 + R15-12` -/
  | parRmAdd (rm ra : BitVec 4) (rxm rym rxa rya : BitVec 2)
  /-- compute multiplier and ALU, R626 of 48_multifunction.md: `Rm = R3-0 * R7-4 (SSFR), Ra = R11-8 - R15-12` -/
  | parRmSub (rm ra : BitVec 4) (rxm rym rxa rya : BitVec 2)
  /-- compute multiplier and ALU, R626 of 48_multifunction.md: `Rm = R3-0 * R7-4 (SSFR), Ra = (R11-8 + R15-12)/2` -/
  | parRmAvg (rm ra : BitVec 4) (rxm rym rxa rya : BitVec 2)
  /-- compute multiplier and ALU, R626 of 48_multifunction.md: `MRF = MRF + R3-0 * R7-4 (SSF), Ra = R11-8 + R15-12` -/
  | parMrfAddAdd (rm ra : BitVec 4) (rxm rym rxa rya : BitVec 2)
  /-- compute multiplier and ALU, R626 of 48_multifunction.md: `MRF = MRF + R3-0 * R7-4 (SSF), Ra = R11-8 - R15-12` -/
  | parMrfAddSub (rm ra : BitVec 4) (rxm rym rxa rya : BitVec 2)
  /-- compute multiplier and ALU, R626 of 48_multifunction.md: `MRF = MRF + R3-0 * R7-4 (SSF), Ra = (R11-8 + R15-12)/2` -/
  | parMrfAddAvg (rm ra : BitVec 4) (rxm rym rxa rya : BitVec 2)
  /-- compute multiplier and ALU, R626 of 48_multifunction.md: `Rm = MRF + R3-0 * R7-4 (SSFR), Ra = R11-8 + R15-12` -/
  | parRmMrfAddAdd (rm ra : BitVec 4) (rxm rym rxa rya : BitVec 2)
  /-- compute multiplier and ALU, R626 of 48_multifunction.md: `Rm = MRF + R3-0 * R7-4 (SSFR), Ra = R11-8 - R15-12` -/
  | parRmMrfAddSub (rm ra : BitVec 4) (rxm rym rxa rya : BitVec 2)
  /-- compute multiplier and ALU, R626 of 48_multifunction.md: `Rm = MRF + R3-0 * R7-4 (SSFR), Ra = (R11-8 + R15-12)/2` -/
  | parRmMrfAddAvg (rm ra : BitVec 4) (rxm rym rxa rya : BitVec 2)
  /-- compute multiplier and ALU, R626 of 48_multifunction.md: `MRF = MRF - R3-0 * R7-4 (SSF), Ra = R11-8 + R15-12` -/
  | parMrfSubAdd (rm ra : BitVec 4) (rxm rym rxa rya : BitVec 2)
  /-- compute multiplier and ALU, R626 of 48_multifunction.md: `MRF = MRF - R3-0 * R7-4 (SSF), Ra = R11-8 - R15-12` -/
  | parMrfSubSub (rm ra : BitVec 4) (rxm rym rxa rya : BitVec 2)
  /-- compute multiplier and ALU, R626 of 48_multifunction.md: `MRF = MRF - R3-0 * R7-4 (SSF), Ra = (R11-8 + R15-12)/2` -/
  | parMrfSubAvg (rm ra : BitVec 4) (rxm rym rxa rya : BitVec 2)
  /-- compute multiplier and ALU, R626 of 48_multifunction.md: `Rm = MRF - R3-0 * R7-4 (SSFR), Ra = R11-8 + R15-12` -/
  | parRmMrfSubAdd (rm ra : BitVec 4) (rxm rym rxa rya : BitVec 2)
  /-- compute multiplier and ALU, R626 of 48_multifunction.md: `Rm = MRF - R3-0 * R7-4 (SSFR), Ra = R11-8 - R15-12` -/
  | parRmMrfSubSub (rm ra : BitVec 4) (rxm rym rxa rya : BitVec 2)
  /-- compute multiplier and ALU, R626 of 48_multifunction.md: `Rm = MRF - R3-0 * R7-4 (SSFR), Ra = (R11-8 + R15-12)/2` -/
  | parRmMrfSubAvg (rm ra : BitVec 4) (rxm rym rxa rya : BitVec 2)
  /-- compute multiplier and ALU, R627 of 48_multifunction.md: `Fm = F3-0 * F7-4, Fa = F11-8 + F15-12` -/
  | parFltAdd (rm ra : BitVec 4) (rxm rym rxa rya : BitVec 2)
  /-- compute multiplier and ALU, R627 of 48_multifunction.md: `Fm = F3-0 * F7-4, Fa = F11-8 - F15-12` -/
  | parFltSub (rm ra : BitVec 4) (rxm rym rxa rya : BitVec 2)
  /-- compute multiplier and ALU, R627 of 48_multifunction.md: `Fm = F3-0 * F7-4, Fa = FLOAT R11-8 BY R15-12` -/
  | parFltFloatBy (rm ra : BitVec 4) (rxm rym rxa rya : BitVec 2)
  /-- compute multiplier and ALU, R627 of 48_multifunction.md: `Fm = F3-0 * F7-4, Ra = FIX F11-8 BY R15-12` -/
  | parFltFixBy (rm ra : BitVec 4) (rxm rym rxa rya : BitVec 2)
  /-- compute multiplier and ALU, R627 of 48_multifunction.md: `Fm = F3-0 * F7-4, Fa = (F11-8 + F15-12)/2` -/
  | parFltAvg (rm ra : BitVec 4) (rxm rym rxa rya : BitVec 2)
  /-- compute multiplier and ALU, R627 of 48_multifunction.md: `Fm = F3-0 * F7-4, Fa = ABS F11-8` -/
  | parFltAbs (rm ra : BitVec 4) (rxm rym rxa rya : BitVec 2)
  /-- compute multiplier and ALU, R627 of 48_multifunction.md: `Fm = F3-0 * F7-4, Fa = MAX(F11-8, F15-12)` -/
  | parFltMax (rm ra : BitVec 4) (rxm rym rxa rya : BitVec 2)
  /-- compute multiplier and ALU, R627 of 48_multifunction.md: `Fm = F3-0 * F7-4, Fa = MIN(F11-8, F15-12)` -/
  | parFltMin (rm ra : BitVec 4) (rxm rym rxa rya : BitVec 2)
  /-- compute multiplier and dual add/subtract, R629 of 48_multifunction.md: `Rm = R3-0 * R7-4 (SSFR), Ra = R11-8 + R15-12, Rs = R11-8 - R15-12` -/
  | parMulDual (rs rm ra : BitVec 4) (rxm rym rxa rya : BitVec 2)
  /-- compute multiplier and dual add/subtract, R628 of 48_multifunction.md: `Fm = F3-0 * F7-4, Fa = F11-8 + F15-12, Fs = F11-8 - F15-12` -/
  | parFltDual (rs rm ra : BitVec 4) (rxm rym rxa rya : BitVec 2)
  deriving DecidableEq, Repr

end Sys2Proof
end

