-- ==== Sys2Proof/WellFormed.lean ====
section
/-! DEFINITION. Which terms of `Instr` are instructions: those whose operands have an encoding of their own. -/

namespace Sys2Proof

/-- The option pattern 'integer, rounded' is not a listed option of the multiplier (46_multiplier.md R547;
93_implementation_defined.md U2). -/
def Mod2.wf (m : Mod2) : Bool := m.frac || !m.round

/-- Every multiply carries a listed option pattern. -/
def MulOp.wf : MulOp → Bool
  | .rn m | .mrf m | .mrb m | .rnMrfAdd m | .rnMrbAdd m | .mrfAdd m | .mrbAdd m
  | .rnMrfSub m | .rnMrbSub m | .mrfSub m | .mrbSub m => m.wf
  | _ => true

/-- A compute field is well formed when its multiplier options are. -/
def Compute.wf : Compute → Bool
  | .mul op _ _ _ => op.wf
  | _ => true

/-- The COMPUTE argument of an instruction that has one. -/
def Instr.computeArg : Instr → Compute
  | .dmPmDualMove _ _ _ _ _ _ _ _ c | .compute _ c | .uregMemMoveM _ _ _ _ _ _ _ c
  | .dregMemMoveImm6 _ _ _ _ _ _ _ c | .uregUregMove _ _ _ c | .modify _ _ _ _ c
  | .jumpIndirect _ _ _ _ _ _ _ c | .jumpPcrel6 _ _ _ _ _ _ c
  | .callIndirect _ _ _ _ _ _ _ c | .callPcrel6 _ _ _ _ _ _ c
  | .jumpIndirectElseMove _ _ _ _ _ _ _ c | .jumpPcrel6ElseMove _ _ _ _ _ _ c
  | .rts _ _ _ _ c | .rti _ _ _ c => c
  | .mulRn m rn rx ry => .mul (.rn m) rn rx ry
  | .mulMrf m rn rx ry => .mul (.mrf m) rn rx ry
  | .mulMrb m rn rx ry => .mul (.mrb m) rn rx ry
  | .mulRnMrfAdd m rn rx ry => .mul (.rnMrfAdd m) rn rx ry
  | .mulRnMrbAdd m rn rx ry => .mul (.rnMrbAdd m) rn rx ry
  | .mulMrfAdd m rn rx ry => .mul (.mrfAdd m) rn rx ry
  | .mulMrbAdd m rn rx ry => .mul (.mrbAdd m) rn rx ry
  | .mulRnMrfSub m rn rx ry => .mul (.rnMrfSub m) rn rx ry
  | .mulRnMrbSub m rn rx ry => .mul (.rnMrbSub m) rn rx ry
  | .mulMrfSub m rn rx ry => .mul (.mrfSub m) rn rx ry
  | .mulMrbSub m rn rx ry => .mul (.mrbSub m) rn rx ry
  | _ => .none

/-- An unconditional Type 2 word with a compute operation is the instruction of that operation's own row. -/
def Instr.ownForm : Instr → Bool
  | .compute cond c => decide (cond ≠ 31#5) || decide (c = .none)
  | _ => true

/-- The well-formed instructions: the options of a multiply are listed ones, and an unconditional compute operation
stands as its own row. -/
def Instr.wf (i : Instr) : Bool := i.computeArg.wf && i.ownForm

end Sys2Proof
end

