-- ==== Sys2Proof/Decode.lean ====
section
/-! DEFINITION. From instruction words to instructions and back (30_encoding.md R280 to R334, R300, R301; the compute
codes are those of files 44 to 48). One table of codes per group of operations serves the decoder, which searches it,
and the encoder, which reads it. -/

namespace Sys2Proof

/-- Why a word is no instruction. -/
inductive DecodeError where
  /-- bits 47:40 belong to no row of the opcode map (R283, R284; U16) -/
  | undefinedWord
  /-- the COMPUTE field selects no operation (R300, R284; U1, U2) -/
  | undefinedCompute
  /-- a universal register code that names no register (10_state.md R22; U3) -/
  | reservedUreg
  /-- a reserved BOP, SREG or SHIFTOP code (R293, R329, R315; U4) -/
  | reservedField
  /-- the IDLE prefix with bits that are neither IDLE's nor IDLE16's (R333) -/
  | undefinedIdle
  deriving DecidableEq, Repr

/-- Bits `lo + n - 1` down to `lo` of a word. -/
abbrev fld (w : Word48) (lo n : Nat) : BitVec n := w.extractLsb' lo n

/-- One bit as a field. -/
abbrev bit (b : Bool) : BitVec 1 := BitVec.ofBool b

/-! ### Universal and system register codes (10_state.md R22, 30_encoding.md R293) -/

/-- The universal registers that are not numbered, with their codes. -/
def uregNamed : List (BitVec 8 × Ureg) :=
  [(0x60, .faddr), (0x61, .daddr), (0x63, .pc), (0x64, .pcstk), (0x65, .pcstkp), (0x66, .laddr), (0x67, .curlcntr),
   (0x68, .lcntr), (0x70, .ustat1), (0x71, .ustat2), (0x79, .irptl), (0x7A, .mode2), (0x7B, .mode1), (0x7C, .astat),
   (0x7D, .imask), (0x7E, .stky), (0x7F, .imaskp), (0xDB, .px), (0xDC, .px1), (0xDD, .px2)]

/-- The register an 8-bit UREG code names. -/
def decodeUreg (c : BitVec 8) : Option Ureg :=
  let hi := c.extractLsb' 4 4
  let lo := c.extractLsb' 0 4
  if hi = 0#4 then some (.r lo) else if hi = 1#4 then some (.i lo) else if hi = 2#4 then some (.m lo)
  else if hi = 3#4 then some (.l lo) else if hi = 4#4 then some (.b lo)
  else (uregNamed.find? (fun p => p.1 == c)).map Prod.snd

/-- The 8-bit code of a universal register. -/
def encodeUreg : Ureg → BitVec 8
  | .r n => 0#4 ++ n | .i n => 1#4 ++ n | .m n => 2#4 ++ n | .l n => 3#4 ++ n | .b n => 4#4 ++ n
  | .faddr => 0x60 | .daddr => 0x61 | .pc => 0x63 | .pcstk => 0x64 | .pcstkp => 0x65 | .laddr => 0x66
  | .curlcntr => 0x67 | .lcntr => 0x68 | .ustat1 => 0x70 | .ustat2 => 0x71 | .irptl => 0x79 | .mode2 => 0x7A
  | .mode1 => 0x7B | .astat => 0x7C | .imask => 0x7D | .stky => 0x7E | .imaskp => 0x7F
  | .px => 0xDB | .px1 => 0xDC | .px2 => 0xDD

/-- The 4-bit code of a system register: the low nibble of its universal register code. -/
def encodeSreg : Sreg → BitVec 4
  | .ustat1 => 0 | .ustat2 => 1 | .irptl => 9 | .mode2 => 10 | .mode1 => 11 | .astat => 12 | .imask => 13
  | .stky => 14 | .imaskp => 15

/-- Every system register. -/
def allSregs : List Sreg := [.ustat1, .ustat2, .irptl, .mode2, .mode1, .astat, .imask, .stky, .imaskp]

/-- The system register a 4-bit SREG code names. -/
def decodeSreg (c : BitVec 4) : Option Sreg := allSregs.find? (fun r => encodeSreg r == c)

/-! ### Compute operation codes (30_encoding.md R301) -/

/-- The opcodes of the fixed-point ALU operations (44_alu_fixed.md). -/
def AluOp.code : AluOp → BitVec 8
  | .add => 0x01 | .sub => 0x02 | .addCi => 0x05 | .subCi => 0x06 | .avg => 0x09 | .comp => 0x0A
  | .incCi => 0x25 | .decCi => 0x26 | .inc => 0x29 | .dec => 0x2A | .neg => 0x22 | .abs => 0x30
  | .pass => 0x21 | .and => 0x40 | .or => 0x41 | .xor => 0x42 | .not => 0x43 | .min => 0x61 | .max => 0x62
  | .clip => 0x63

/-- Every operation of the group. -/
def allAluOps : List AluOp :=
  [.add, .sub, .addCi, .subCi, .avg, .comp, .incCi, .decCi, .inc, .dec, .neg, .abs, .pass, .and, .or, .xor,
   .not, .min, .max, .clip]

/-- The opcodes of the floating-point ALU operations (45_alu_float.md). -/
def FltOp.code : FltOp → BitVec 8
  | .add => 0x81 | .sub => 0x82 | .absAdd => 0x91 | .absSub => 0x92 | .avg => 0x89 | .comp => 0x8A
  | .neg => 0xA2 | .abs => 0xB0 | .pass => 0xA1 | .rnd => 0xA5 | .scalb => 0xBD | .mant => 0xAD
  | .logb => 0xC1 | .fix => 0xC9 | .fixBy => 0xD9 | .trunc => 0xCD | .truncBy => 0xDD | .float => 0xCA
  | .floatBy => 0xDA | .recips => 0xC4 | .rsqrts => 0xC5 | .copysign => 0xE0 | .min => 0xE1 | .max => 0xE2
  | .clip => 0xE3

/-- Every operation of the group. -/
def allFltOps : List FltOp :=
  [.add, .sub, .absAdd, .absSub, .avg, .comp, .neg, .abs, .pass, .rnd, .scalb, .mant, .logb, .fix, .fixBy,
   .trunc, .truncBy, .float, .floatBy, .recips, .rsqrts, .copysign, .min, .max, .clip]

/-- The opcodes of the shifter operations (47_shifter.md). -/
def ShiftOp.code : ShiftOp → BitVec 8
  | .lshift => 0x00 | .orLshift => 0x20 | .ashift => 0x04 | .orAshift => 0x24 | .rot => 0x08 | .bclr => 0xC4
  | .bset => 0xC0 | .btgl => 0xC8 | .btst => 0xCC | .fdep => 0x44 | .orFdep => 0x64 | .fdepSe => 0x4C
  | .orFdepSe => 0x6C | .fext => 0x40 | .fextSe => 0x48 | .exp => 0x80 | .expEx => 0x84 | .leftz => 0x88
  | .lefto => 0x8C | .fpack => 0x90 | .funpack => 0x94

/-- Every operation of the group. -/
def allShiftOps : List ShiftOp :=
  [.lshift, .orLshift, .ashift, .orAshift, .rot, .bclr, .bset, .btgl, .btst, .fdep, .orFdep, .fdepSe,
   .orFdepSe, .fext, .fextSe, .exp, .expEx, .leftz, .lefto, .fpack, .funpack]

/-- The shifter operations that have an immediate form. -/
def allShiftImmOps : List ShiftImmOp :=
  [.lshift, .orLshift, .ashift, .orAshift, .rot, .bclr, .bset, .btgl, .btst, .fdep, .orFdep, .fdepSe,
   .orFdepSe, .fext, .fextSe]

/-- The 6-bit SHIFTOP of an immediate shift: the upper six bits of the register form's opcode (R315). -/
def ShiftImmOp.code (op : ShiftImmOp) : BitVec 6 := op.toShiftOp.code.extractLsb' 2 6

/-- The codes of the MR registers in the AI field (46_multiplier.md R569). -/
def MrReg.code : MrReg → BitVec 4
  | .mr0f => 0 | .mr1f => 1 | .mr2f => 2 | .mr0b => 4 | .mr1b => 5 | .mr2b => 6

/-- Every MR register. -/
def allMrRegs : List MrReg := [.mr0f, .mr1f, .mr2f, .mr0b, .mr1b, .mr2b]

/-- The opcode of a multiply: operation select `a`, option bits y, x, f, destination select `b`, option bit r
(46_multiplier.md R547). -/
def Mod2.code (m : Mod2) (a b : BitVec 2) : BitVec 8 := a ++ bit m.ySigned ++ bit m.xSigned ++ bit m.frac ++ b ++ bit m.round

/-- The opcode of a saturation (46_multiplier.md R560 to R563). -/
def Mod1.code (m : Mod1) (b : BitVec 2) : BitVec 8 := 0#4 ++ bit m.frac ++ b ++ bit m.signed

/-- The opcodes of the multiplier operations (46_multiplier.md R548 to R570). -/
def MulOp.code : MulOp → BitVec 8
  | .rn m => m.code 1 0 | .mrf m => m.code 1 2 | .mrb m => m.code 1 3
  | .rnMrfAdd m => m.code 2 0 | .rnMrbAdd m => m.code 2 1 | .mrfAdd m => m.code 2 2 | .mrbAdd m => m.code 2 3
  | .rnMrfSub m => m.code 3 0 | .rnMrbSub m => m.code 3 1 | .mrfSub m => m.code 3 2 | .mrbSub m => m.code 3 3
  | .rnSatMrf m => m.code 0 | .rnSatMrb m => m.code 1 | .mrfSat m => m.code 2 | .mrbSat m => m.code 3
  | .rnRndMrf s => 0b0001100#7 ++ bit s | .rnRndMrb s => 0b0001101#7 ++ bit s
  | .mrfRnd s => 0b0001110#7 ++ bit s | .mrbRnd s => 0b0001111#7 ++ bit s
  | .mrfZero => 0x14 | .mrbZero => 0x16 | .fmul => 0x30

/-- The multiplier operation of an 8-bit opcode; `none` for the opcodes of no rule and for the option pattern
'integer, rounded' (U1, U2). -/
def decodeMulOp (c : BitVec 8) : Option MulOp :=
  let b := c.extractLsb' 1 2
  let m2 : Mod2 := ⟨c.getLsbD 5, c.getLsbD 4, c.getLsbD 3, c.getLsbD 0⟩
  let m1 : Mod1 := ⟨c.getLsbD 3, c.getLsbD 0⟩
  let pick (op : BitVec 2 → Option MulOp) : Option MulOp := if m2.wf then op b else none
  let hi := c.extractLsb' 6 2
  if hi = 1#2 then
    pick fun b => if b = 0#2 then some (.rn m2) else if b = 2#2 then some (.mrf m2)
      else if b = 3#2 then some (.mrb m2) else none
  else if hi = 2#2 then
    pick fun b => if b = 0#2 then some (.rnMrfAdd m2) else if b = 1#2 then some (.rnMrbAdd m2)
      else if b = 2#2 then some (.mrfAdd m2) else some (.mrbAdd m2)
  else if hi = 3#2 then
    pick fun b => if b = 0#2 then some (.rnMrfSub m2) else if b = 1#2 then some (.rnMrbSub m2)
      else if b = 2#2 then some (.mrfSub m2) else some (.mrbSub m2)
  else if c.extractLsb' 4 2 = 0#2 then
    if b = 0#2 then some (.rnSatMrf m1) else if b = 1#2 then some (.rnSatMrb m1)
      else if b = 2#2 then some (.mrfSat m1) else some (.mrbSat m1)
  else if c.extractLsb' 3 3 = 0b011#3 then
    if b = 0#2 then some (.rnRndMrf m1.signed) else if b = 1#2 then some (.rnRndMrb m1.signed)
      else if b = 2#2 then some (.mrfRnd m1.signed) else some (.mrbRnd m1.signed)
  else if c = 0x14#8 then some .mrfZero else if c = 0x16#8 then some .mrbZero
  else if c = 0x30#8 then some .fmul else none

/-- Bits 21:18 of the multiplier half of a parallel operation (48_multifunction.md R626). -/
def ParMul.code : ParMul → BitVec 4
  | .rm => 1 | .mrfAdd => 2 | .rmMrfAdd => 3 | .mrfSub => 4 | .rmMrfSub => 5

/-- Bits 17:16 of the ALU half of a parallel fixed-point operation (48_multifunction.md R626). -/
def ParAlu.code : ParAlu → BitVec 2
  | .add => 0 | .sub => 1 | .avg => 2

/-- Bits 18:16 of the ALU half of a parallel floating-point operation (48_multifunction.md R627). -/
def ParFlt.code : ParFlt → BitVec 3
  | .add => 0 | .sub => 1 | .floatBy => 2 | .fixBy => 3 | .avg => 4 | .abs => 5 | .max => 6 | .min => 7

/-- Every multiplier half. -/
def allParMuls : List ParMul := [.rm, .mrfAdd, .rmMrfAdd, .mrfSub, .rmMrfSub]

/-- Every fixed-point ALU half. -/
def allParAlus : List ParAlu := [.add, .sub, .avg]

/-- Every floating-point ALU half. -/
def allParFlts : List ParFlt := [.add, .sub, .floatBy, .fixBy, .avg, .abs, .max, .min]

/-! ### The COMPUTE field (30_encoding.md R300) -/

/-- The compute field of an operation. -/
def encodeCompute : Compute → BitVec 23
  | .none => 0
  | .alu op rn rx ry => 0b000#3 ++ op.code ++ rn ++ rx ++ ry
  | .dualAlu rs ra rx ry => 0b0000111#7 ++ rs ++ ra ++ rx ++ ry
  | .flt op rn rx ry => 0b000#3 ++ op.code ++ rn ++ rx ++ ry
  | .dualFlt rs ra rx ry => 0b0001111#7 ++ rs ++ ra ++ rx ++ ry
  | .mul op rn rx ry => 0b001#3 ++ op.code ++ rn ++ rx ++ ry
  | .shift op rn rx ry => 0b010#3 ++ op.code ++ rn ++ rx ++ ry
  | .mrRead mr rk => 0b1000000#7 ++ mr.code ++ rk ++ 0#8
  | .mrWrite mr rk => 0b1000001#7 ++ mr.code ++ rk ++ 0#8
  | .mulAlu mop aop rm ra rxm rym rxa rya => 1#1 ++ mop.code ++ aop.code ++ rm ++ ra ++ rxm ++ rym ++ rxa ++ rya
  | .mulFlt aop rm ra rxm rym rxa rya => 0b1011#4 ++ aop.code ++ rm ++ ra ++ rxm ++ rym ++ rxa ++ rya
  | .mulDualAlu rs rm ra rxm rym rxa rya => 0b110#3 ++ rs ++ rm ++ ra ++ rxm ++ rym ++ rxa ++ rya
  | .mulDualFlt rs rm ra rxm rym rxa rya => 0b111#3 ++ rs ++ rm ++ ra ++ rxm ++ rym ++ rxa ++ rya

/-- A single-function field (bit 22 = 0): the unit CU, then the opcode of the unit. -/
def decodeSingle (f : BitVec 23) : Option Compute :=
  let cu := f.extractLsb' 20 2
  let op := f.extractLsb' 12 8
  let rn := f.extractLsb' 8 4
  let rx := f.extractLsb' 4 4
  let ry := f.extractLsb' 0 4
  if cu = 0#2 then
    if op.getLsbD 7 then (allFltOps.find? (fun o => o.code == op)).map (fun o => .flt o rn rx ry)
    else (allAluOps.find? (fun o => o.code == op)).map (fun o => .alu o rn rx ry)
  else if cu = 1#2 then (decodeMulOp op).map (fun o => .mul o rn rx ry)
  else if cu = 2#2 then (allShiftOps.find? (fun o => o.code == op)).map (fun o => .shift o rn rx ry)
  else none

/-- A multifunction field or MR transfer (bit 22 = 1). The field of an MR transfer whose bits 7:0, which R300, R569 and
R625 print as 0, are not 0 is no operation: whether they are tested the decoding order does not say (DESIGN CHOICE,
assumption log 51). -/
def decodeMulti (f : BitVec 23) : Option Compute :=
  let rs := f.extractLsb' 16 4
  let rm := f.extractLsb' 12 4
  let ra := f.extractLsb' 8 4
  let rxm := f.extractLsb' 6 2
  let rym := f.extractLsb' 4 2
  let rxa := f.extractLsb' 2 2
  let rya := f.extractLsb' 0 2
  if f.extractLsb' 17 5 = 0#5 then
    if f.extractLsb' 0 8 = 0#8 then
      (allMrRegs.find? (fun r => r.code == rm)).map (fun r => if f.getLsbD 16 then .mrWrite r ra else .mrRead r ra)
    else none
  else if f.extractLsb' 20 2 = 2#2 then some (.mulDualAlu rs rm ra rxm rym rxa rya)
  else if f.extractLsb' 20 2 = 3#2 then some (.mulDualFlt rs rm ra rxm rym rxa rya)
  else if f.extractLsb' 19 3 = 3#3 then
    (allParFlts.find? (fun o => o.code == f.extractLsb' 16 3)).map (fun o => .mulFlt o rm ra rxm rym rxa rya)
  else
    (allParMuls.find? (fun o => o.code == f.extractLsb' 18 4)).bind fun mo =>
      (allParAlus.find? (fun o => o.code == f.extractLsb' 16 2)).map fun ao => .mulAlu mo ao rm ra rxm rym rxa rya

/-- The operation of a compute field, in the order of R300; `none` where no rule gives one. -/
def decodeCompute (f : BitVec 23) : Option Compute :=
  if f = 0#23 then some .none
  else if f.getLsbD 22 then decodeMulti f
  else if f.extractLsb' 16 6 = 0b000111#6 then
    some (.dualAlu (f.extractLsb' 12 4) (f.extractLsb' 8 4) (f.extractLsb' 4 4) (f.extractLsb' 0 4))
  else if f.extractLsb' 16 6 = 0b001111#6 then
    some (.dualFlt (f.extractLsb' 12 4) (f.extractLsb' 8 4) (f.extractLsb' 4 4) (f.extractLsb' 0 4))
  else decodeSingle f

/-! ### Compute operations as instructions of their own -/

/-- The instruction that is a compute operation alone: its row's constructor. -/
def Instr.ofCompute : Compute → Instr
  | .none => .compute 31 .none
  | .alu .add rn rx ry => .aluAdd rn rx ry
  | .alu .sub rn rx ry => .aluSub rn rx ry
  | .alu .addCi rn rx ry => .aluAddCi rn rx ry
  | .alu .subCi rn rx ry => .aluSubCi rn rx ry
  | .alu .avg rn rx ry => .aluAvg rn rx ry
  | .alu .comp rn rx ry => .aluComp rn rx ry
  | .alu .incCi rn rx ry => .aluIncCi rn rx ry
  | .alu .decCi rn rx ry => .aluDecCi rn rx ry
  | .alu .inc rn rx ry => .aluInc rn rx ry
  | .alu .dec rn rx ry => .aluDec rn rx ry
  | .alu .neg rn rx ry => .aluNeg rn rx ry
  | .alu .abs rn rx ry => .aluAbs rn rx ry
  | .alu .pass rn rx ry => .aluPass rn rx ry
  | .alu .and rn rx ry => .aluAnd rn rx ry
  | .alu .or rn rx ry => .aluOr rn rx ry
  | .alu .xor rn rx ry => .aluXor rn rx ry
  | .alu .not rn rx ry => .aluNot rn rx ry
  | .alu .min rn rx ry => .aluMin rn rx ry
  | .alu .max rn rx ry => .aluMax rn rx ry
  | .alu .clip rn rx ry => .aluClip rn rx ry
  | .dualAlu rs ra rx ry => .aluDual rs ra rx ry
  | .flt .add rn rx ry => .fltAdd rn rx ry
  | .flt .sub rn rx ry => .fltSub rn rx ry
  | .flt .absAdd rn rx ry => .fltAbsAdd rn rx ry
  | .flt .absSub rn rx ry => .fltAbsSub rn rx ry
  | .flt .avg rn rx ry => .fltAvg rn rx ry
  | .flt .comp rn rx ry => .fltComp rn rx ry
  | .flt .neg rn rx ry => .fltNeg rn rx ry
  | .flt .abs rn rx ry => .fltAbs rn rx ry
  | .flt .pass rn rx ry => .fltPass rn rx ry
  | .flt .rnd rn rx ry => .fltRnd rn rx ry
  | .flt .scalb rn rx ry => .fltScalb rn rx ry
  | .flt .mant rn rx ry => .fltMant rn rx ry
  | .flt .logb rn rx ry => .fltLogb rn rx ry
  | .flt .fix rn rx ry => .fltFix rn rx ry
  | .flt .fixBy rn rx ry => .fltFixBy rn rx ry
  | .flt .trunc rn rx ry => .fltTrunc rn rx ry
  | .flt .truncBy rn rx ry => .fltTruncBy rn rx ry
  | .flt .float rn rx ry => .fltFloat rn rx ry
  | .flt .floatBy rn rx ry => .fltFloatBy rn rx ry
  | .flt .recips rn rx ry => .fltRecips rn rx ry
  | .flt .rsqrts rn rx ry => .fltRsqrts rn rx ry
  | .flt .copysign rn rx ry => .fltCopysign rn rx ry
  | .flt .min rn rx ry => .fltMin rn rx ry
  | .flt .max rn rx ry => .fltMax rn rx ry
  | .flt .clip rn rx ry => .fltClip rn rx ry
  | .dualFlt rs ra rx ry => .fltDual rs ra rx ry
  | .mul (.rn mod) rn rx ry => .mulRn mod rn rx ry
  | .mul (.mrf mod) rn rx ry => .mulMrf mod rn rx ry
  | .mul (.mrb mod) rn rx ry => .mulMrb mod rn rx ry
  | .mul (.rnMrfAdd mod) rn rx ry => .mulRnMrfAdd mod rn rx ry
  | .mul (.rnMrbAdd mod) rn rx ry => .mulRnMrbAdd mod rn rx ry
  | .mul (.mrfAdd mod) rn rx ry => .mulMrfAdd mod rn rx ry
  | .mul (.mrbAdd mod) rn rx ry => .mulMrbAdd mod rn rx ry
  | .mul (.rnMrfSub mod) rn rx ry => .mulRnMrfSub mod rn rx ry
  | .mul (.rnMrbSub mod) rn rx ry => .mulRnMrbSub mod rn rx ry
  | .mul (.mrfSub mod) rn rx ry => .mulMrfSub mod rn rx ry
  | .mul (.mrbSub mod) rn rx ry => .mulMrbSub mod rn rx ry
  | .mul (.rnSatMrf mod) rn rx ry => .mulRnSatMrf mod rn rx ry
  | .mul (.rnSatMrb mod) rn rx ry => .mulRnSatMrb mod rn rx ry
  | .mul (.mrfSat mod) rn rx ry => .mulMrfSat mod rn rx ry
  | .mul (.mrbSat mod) rn rx ry => .mulMrbSat mod rn rx ry
  | .mul (.rnRndMrf signed) rn rx ry => .mulRnRndMrf signed rn rx ry
  | .mul (.rnRndMrb signed) rn rx ry => .mulRnRndMrb signed rn rx ry
  | .mul (.mrfRnd signed) rn rx ry => .mulMrfRnd signed rn rx ry
  | .mul (.mrbRnd signed) rn rx ry => .mulMrbRnd signed rn rx ry
  | .mul .mrfZero rn rx ry => .mulMrfZero rn rx ry
  | .mul .mrbZero rn rx ry => .mulMrbZero rn rx ry
  | .mul .fmul rn rx ry => .mulFloat rn rx ry
  | .shift .lshift rn rx ry => .shLshift rn rx ry
  | .shift .orLshift rn rx ry => .shOrLshift rn rx ry
  | .shift .ashift rn rx ry => .shAshift rn rx ry
  | .shift .orAshift rn rx ry => .shOrAshift rn rx ry
  | .shift .rot rn rx ry => .shRot rn rx ry
  | .shift .bclr rn rx ry => .shBclr rn rx ry
  | .shift .bset rn rx ry => .shBset rn rx ry
  | .shift .btgl rn rx ry => .shBtgl rn rx ry
  | .shift .btst rn rx ry => .shBtst rn rx ry
  | .shift .fdep rn rx ry => .shFdep rn rx ry
  | .shift .orFdep rn rx ry => .shOrFdep rn rx ry
  | .shift .fdepSe rn rx ry => .shFdepSe rn rx ry
  | .shift .orFdepSe rn rx ry => .shOrFdepSe rn rx ry
  | .shift .fext rn rx ry => .shFext rn rx ry
  | .shift .fextSe rn rx ry => .shFextSe rn rx ry
  | .shift .exp rn rx ry => .shExp rn rx ry
  | .shift .expEx rn rx ry => .shExpEx rn rx ry
  | .shift .leftz rn rx ry => .shLeftz rn rx ry
  | .shift .lefto rn rx ry => .shLefto rn rx ry
  | .shift .fpack rn rx ry => .shFpack rn rx ry
  | .shift .funpack rn rx ry => .shFunpack rn rx ry
  | .mrRead .mr0f rk => .mr0fRead rk
  | .mrWrite .mr0f rk => .mr0fWrite rk
  | .mrRead .mr1f rk => .mr1fRead rk
  | .mrWrite .mr1f rk => .mr1fWrite rk
  | .mrRead .mr2f rk => .mr2fRead rk
  | .mrWrite .mr2f rk => .mr2fWrite rk
  | .mrRead .mr0b rk => .mr0bRead rk
  | .mrWrite .mr0b rk => .mr0bWrite rk
  | .mrRead .mr1b rk => .mr1bRead rk
  | .mrWrite .mr1b rk => .mr1bWrite rk
  | .mrRead .mr2b rk => .mr2bRead rk
  | .mrWrite .mr2b rk => .mr2bWrite rk
  | .mulAlu .rm .add rm ra rxm rym rxa rya => .parRmAdd rm ra rxm rym rxa rya
  | .mulAlu .rm .sub rm ra rxm rym rxa rya => .parRmSub rm ra rxm rym rxa rya
  | .mulAlu .rm .avg rm ra rxm rym rxa rya => .parRmAvg rm ra rxm rym rxa rya
  | .mulAlu .mrfAdd .add rm ra rxm rym rxa rya => .parMrfAddAdd rm ra rxm rym rxa rya
  | .mulAlu .mrfAdd .sub rm ra rxm rym rxa rya => .parMrfAddSub rm ra rxm rym rxa rya
  | .mulAlu .mrfAdd .avg rm ra rxm rym rxa rya => .parMrfAddAvg rm ra rxm rym rxa rya
  | .mulAlu .rmMrfAdd .add rm ra rxm rym rxa rya => .parRmMrfAddAdd rm ra rxm rym rxa rya
  | .mulAlu .rmMrfAdd .sub rm ra rxm rym rxa rya => .parRmMrfAddSub rm ra rxm rym rxa rya
  | .mulAlu .rmMrfAdd .avg rm ra rxm rym rxa rya => .parRmMrfAddAvg rm ra rxm rym rxa rya
  | .mulAlu .mrfSub .add rm ra rxm rym rxa rya => .parMrfSubAdd rm ra rxm rym rxa rya
  | .mulAlu .mrfSub .sub rm ra rxm rym rxa rya => .parMrfSubSub rm ra rxm rym rxa rya
  | .mulAlu .mrfSub .avg rm ra rxm rym rxa rya => .parMrfSubAvg rm ra rxm rym rxa rya
  | .mulAlu .rmMrfSub .add rm ra rxm rym rxa rya => .parRmMrfSubAdd rm ra rxm rym rxa rya
  | .mulAlu .rmMrfSub .sub rm ra rxm rym rxa rya => .parRmMrfSubSub rm ra rxm rym rxa rya
  | .mulAlu .rmMrfSub .avg rm ra rxm rym rxa rya => .parRmMrfSubAvg rm ra rxm rym rxa rya
  | .mulFlt .add rm ra rxm rym rxa rya => .parFltAdd rm ra rxm rym rxa rya
  | .mulFlt .sub rm ra rxm rym rxa rya => .parFltSub rm ra rxm rym rxa rya
  | .mulFlt .floatBy rm ra rxm rym rxa rya => .parFltFloatBy rm ra rxm rym rxa rya
  | .mulFlt .fixBy rm ra rxm rym rxa rya => .parFltFixBy rm ra rxm rym rxa rya
  | .mulFlt .avg rm ra rxm rym rxa rya => .parFltAvg rm ra rxm rym rxa rya
  | .mulFlt .abs rm ra rxm rym rxa rya => .parFltAbs rm ra rxm rym rxa rya
  | .mulFlt .max rm ra rxm rym rxa rya => .parFltMax rm ra rxm rym rxa rya
  | .mulFlt .min rm ra rxm rym rxa rya => .parFltMin rm ra rxm rym rxa rya
  | .mulDualAlu rs rm ra rxm rym rxa rya => .parMulDual rs rm ra rxm rym rxa rya
  | .mulDualFlt rs rm ra rxm rym rxa rya => .parFltDual rs rm ra rxm rym rxa rya

/-- The compute operation of a compute row's constructor. -/
def Instr.toCompute : Instr → Option Compute
  | .aluAdd rn rx ry => some (.alu .add rn rx ry)
  | .aluSub rn rx ry => some (.alu .sub rn rx ry)
  | .aluAddCi rn rx ry => some (.alu .addCi rn rx ry)
  | .aluSubCi rn rx ry => some (.alu .subCi rn rx ry)
  | .aluAvg rn rx ry => some (.alu .avg rn rx ry)
  | .aluComp rn rx ry => some (.alu .comp rn rx ry)
  | .aluIncCi rn rx ry => some (.alu .incCi rn rx ry)
  | .aluDecCi rn rx ry => some (.alu .decCi rn rx ry)
  | .aluInc rn rx ry => some (.alu .inc rn rx ry)
  | .aluDec rn rx ry => some (.alu .dec rn rx ry)
  | .aluNeg rn rx ry => some (.alu .neg rn rx ry)
  | .aluAbs rn rx ry => some (.alu .abs rn rx ry)
  | .aluPass rn rx ry => some (.alu .pass rn rx ry)
  | .aluAnd rn rx ry => some (.alu .and rn rx ry)
  | .aluOr rn rx ry => some (.alu .or rn rx ry)
  | .aluXor rn rx ry => some (.alu .xor rn rx ry)
  | .aluNot rn rx ry => some (.alu .not rn rx ry)
  | .aluMin rn rx ry => some (.alu .min rn rx ry)
  | .aluMax rn rx ry => some (.alu .max rn rx ry)
  | .aluClip rn rx ry => some (.alu .clip rn rx ry)
  | .aluDual rs ra rx ry => some (.dualAlu rs ra rx ry)
  | .fltAdd rn rx ry => some (.flt .add rn rx ry)
  | .fltSub rn rx ry => some (.flt .sub rn rx ry)
  | .fltAbsAdd rn rx ry => some (.flt .absAdd rn rx ry)
  | .fltAbsSub rn rx ry => some (.flt .absSub rn rx ry)
  | .fltAvg rn rx ry => some (.flt .avg rn rx ry)
  | .fltComp rn rx ry => some (.flt .comp rn rx ry)
  | .fltNeg rn rx ry => some (.flt .neg rn rx ry)
  | .fltAbs rn rx ry => some (.flt .abs rn rx ry)
  | .fltPass rn rx ry => some (.flt .pass rn rx ry)
  | .fltRnd rn rx ry => some (.flt .rnd rn rx ry)
  | .fltScalb rn rx ry => some (.flt .scalb rn rx ry)
  | .fltMant rn rx ry => some (.flt .mant rn rx ry)
  | .fltLogb rn rx ry => some (.flt .logb rn rx ry)
  | .fltFix rn rx ry => some (.flt .fix rn rx ry)
  | .fltFixBy rn rx ry => some (.flt .fixBy rn rx ry)
  | .fltTrunc rn rx ry => some (.flt .trunc rn rx ry)
  | .fltTruncBy rn rx ry => some (.flt .truncBy rn rx ry)
  | .fltFloat rn rx ry => some (.flt .float rn rx ry)
  | .fltFloatBy rn rx ry => some (.flt .floatBy rn rx ry)
  | .fltRecips rn rx ry => some (.flt .recips rn rx ry)
  | .fltRsqrts rn rx ry => some (.flt .rsqrts rn rx ry)
  | .fltCopysign rn rx ry => some (.flt .copysign rn rx ry)
  | .fltMin rn rx ry => some (.flt .min rn rx ry)
  | .fltMax rn rx ry => some (.flt .max rn rx ry)
  | .fltClip rn rx ry => some (.flt .clip rn rx ry)
  | .fltDual rs ra rx ry => some (.dualFlt rs ra rx ry)
  | .mulRn mod rn rx ry => some (.mul (.rn mod) rn rx ry)
  | .mulMrf mod rn rx ry => some (.mul (.mrf mod) rn rx ry)
  | .mulMrb mod rn rx ry => some (.mul (.mrb mod) rn rx ry)
  | .mulRnMrfAdd mod rn rx ry => some (.mul (.rnMrfAdd mod) rn rx ry)
  | .mulRnMrbAdd mod rn rx ry => some (.mul (.rnMrbAdd mod) rn rx ry)
  | .mulMrfAdd mod rn rx ry => some (.mul (.mrfAdd mod) rn rx ry)
  | .mulMrbAdd mod rn rx ry => some (.mul (.mrbAdd mod) rn rx ry)
  | .mulRnMrfSub mod rn rx ry => some (.mul (.rnMrfSub mod) rn rx ry)
  | .mulRnMrbSub mod rn rx ry => some (.mul (.rnMrbSub mod) rn rx ry)
  | .mulMrfSub mod rn rx ry => some (.mul (.mrfSub mod) rn rx ry)
  | .mulMrbSub mod rn rx ry => some (.mul (.mrbSub mod) rn rx ry)
  | .mulRnSatMrf mod rn rx ry => some (.mul (.rnSatMrf mod) rn rx ry)
  | .mulRnSatMrb mod rn rx ry => some (.mul (.rnSatMrb mod) rn rx ry)
  | .mulMrfSat mod rn rx ry => some (.mul (.mrfSat mod) rn rx ry)
  | .mulMrbSat mod rn rx ry => some (.mul (.mrbSat mod) rn rx ry)
  | .mulRnRndMrf signed rn rx ry => some (.mul (.rnRndMrf signed) rn rx ry)
  | .mulRnRndMrb signed rn rx ry => some (.mul (.rnRndMrb signed) rn rx ry)
  | .mulMrfRnd signed rn rx ry => some (.mul (.mrfRnd signed) rn rx ry)
  | .mulMrbRnd signed rn rx ry => some (.mul (.mrbRnd signed) rn rx ry)
  | .mulMrfZero rn rx ry => some (.mul .mrfZero rn rx ry)
  | .mulMrbZero rn rx ry => some (.mul .mrbZero rn rx ry)
  | .mulFloat rn rx ry => some (.mul .fmul rn rx ry)
  | .shLshift rn rx ry => some (.shift .lshift rn rx ry)
  | .shOrLshift rn rx ry => some (.shift .orLshift rn rx ry)
  | .shAshift rn rx ry => some (.shift .ashift rn rx ry)
  | .shOrAshift rn rx ry => some (.shift .orAshift rn rx ry)
  | .shRot rn rx ry => some (.shift .rot rn rx ry)
  | .shBclr rn rx ry => some (.shift .bclr rn rx ry)
  | .shBset rn rx ry => some (.shift .bset rn rx ry)
  | .shBtgl rn rx ry => some (.shift .btgl rn rx ry)
  | .shBtst rn rx ry => some (.shift .btst rn rx ry)
  | .shFdep rn rx ry => some (.shift .fdep rn rx ry)
  | .shOrFdep rn rx ry => some (.shift .orFdep rn rx ry)
  | .shFdepSe rn rx ry => some (.shift .fdepSe rn rx ry)
  | .shOrFdepSe rn rx ry => some (.shift .orFdepSe rn rx ry)
  | .shFext rn rx ry => some (.shift .fext rn rx ry)
  | .shFextSe rn rx ry => some (.shift .fextSe rn rx ry)
  | .shExp rn rx ry => some (.shift .exp rn rx ry)
  | .shExpEx rn rx ry => some (.shift .expEx rn rx ry)
  | .shLeftz rn rx ry => some (.shift .leftz rn rx ry)
  | .shLefto rn rx ry => some (.shift .lefto rn rx ry)
  | .shFpack rn rx ry => some (.shift .fpack rn rx ry)
  | .shFunpack rn rx ry => some (.shift .funpack rn rx ry)
  | .mr0fRead rk => some (.mrRead .mr0f rk)
  | .mr0fWrite rk => some (.mrWrite .mr0f rk)
  | .mr1fRead rk => some (.mrRead .mr1f rk)
  | .mr1fWrite rk => some (.mrWrite .mr1f rk)
  | .mr2fRead rk => some (.mrRead .mr2f rk)
  | .mr2fWrite rk => some (.mrWrite .mr2f rk)
  | .mr0bRead rk => some (.mrRead .mr0b rk)
  | .mr0bWrite rk => some (.mrWrite .mr0b rk)
  | .mr1bRead rk => some (.mrRead .mr1b rk)
  | .mr1bWrite rk => some (.mrWrite .mr1b rk)
  | .mr2bRead rk => some (.mrRead .mr2b rk)
  | .mr2bWrite rk => some (.mrWrite .mr2b rk)
  | .parRmAdd rm ra rxm rym rxa rya => some (.mulAlu .rm .add rm ra rxm rym rxa rya)
  | .parRmSub rm ra rxm rym rxa rya => some (.mulAlu .rm .sub rm ra rxm rym rxa rya)
  | .parRmAvg rm ra rxm rym rxa rya => some (.mulAlu .rm .avg rm ra rxm rym rxa rya)
  | .parMrfAddAdd rm ra rxm rym rxa rya => some (.mulAlu .mrfAdd .add rm ra rxm rym rxa rya)
  | .parMrfAddSub rm ra rxm rym rxa rya => some (.mulAlu .mrfAdd .sub rm ra rxm rym rxa rya)
  | .parMrfAddAvg rm ra rxm rym rxa rya => some (.mulAlu .mrfAdd .avg rm ra rxm rym rxa rya)
  | .parRmMrfAddAdd rm ra rxm rym rxa rya => some (.mulAlu .rmMrfAdd .add rm ra rxm rym rxa rya)
  | .parRmMrfAddSub rm ra rxm rym rxa rya => some (.mulAlu .rmMrfAdd .sub rm ra rxm rym rxa rya)
  | .parRmMrfAddAvg rm ra rxm rym rxa rya => some (.mulAlu .rmMrfAdd .avg rm ra rxm rym rxa rya)
  | .parMrfSubAdd rm ra rxm rym rxa rya => some (.mulAlu .mrfSub .add rm ra rxm rym rxa rya)
  | .parMrfSubSub rm ra rxm rym rxa rya => some (.mulAlu .mrfSub .sub rm ra rxm rym rxa rya)
  | .parMrfSubAvg rm ra rxm rym rxa rya => some (.mulAlu .mrfSub .avg rm ra rxm rym rxa rya)
  | .parRmMrfSubAdd rm ra rxm rym rxa rya => some (.mulAlu .rmMrfSub .add rm ra rxm rym rxa rya)
  | .parRmMrfSubSub rm ra rxm rym rxa rya => some (.mulAlu .rmMrfSub .sub rm ra rxm rym rxa rya)
  | .parRmMrfSubAvg rm ra rxm rym rxa rya => some (.mulAlu .rmMrfSub .avg rm ra rxm rym rxa rya)
  | .parFltAdd rm ra rxm rym rxa rya => some (.mulFlt .add rm ra rxm rym rxa rya)
  | .parFltSub rm ra rxm rym rxa rya => some (.mulFlt .sub rm ra rxm rym rxa rya)
  | .parFltFloatBy rm ra rxm rym rxa rya => some (.mulFlt .floatBy rm ra rxm rym rxa rya)
  | .parFltFixBy rm ra rxm rym rxa rya => some (.mulFlt .fixBy rm ra rxm rym rxa rya)
  | .parFltAvg rm ra rxm rym rxa rya => some (.mulFlt .avg rm ra rxm rym rxa rya)
  | .parFltAbs rm ra rxm rym rxa rya => some (.mulFlt .abs rm ra rxm rym rxa rya)
  | .parFltMax rm ra rxm rym rxa rya => some (.mulFlt .max rm ra rxm rym rxa rya)
  | .parFltMin rm ra rxm rym rxa rya => some (.mulFlt .min rm ra rxm rym rxa rya)
  | .parMulDual rs rm ra rxm rym rxa rya => some (.mulDualAlu rs rm ra rxm rym rxa rya)
  | .parFltDual rs rm ra rxm rym rxa rya => some (.mulDualFlt rs rm ra rxm rym rxa rya)
  | _ => none

/-! ### Immediate shifts -/

/-- The Type 6 instruction without a memory transfer of an immediate shift. -/
def Instr.ofShiftImm (op : ShiftImmOp) (cond : BitVec 5) (dataex : BitVec 4) (data : BitVec 8) (rn rx : BitVec 4) : Instr :=
  match op with
  | .lshift => .lshiftImm cond dataex data rn rx
  | .orLshift => .orLshiftImm cond dataex data rn rx
  | .ashift => .ashiftImm cond dataex data rn rx
  | .orAshift => .orAshiftImm cond dataex data rn rx
  | .rot => .rotImm cond dataex data rn rx
  | .bclr => .bclrImm cond dataex data rn rx
  | .bset => .bsetImm cond dataex data rn rx
  | .btgl => .btglImm cond dataex data rn rx
  | .btst => .btstImm cond dataex data rn rx
  | .fdep => .fdepImm cond dataex data rn rx
  | .orFdep => .orFdepImm cond dataex data rn rx
  | .fdepSe => .fdepSeImm cond dataex data rn rx
  | .orFdepSe => .orFdepSeImm cond dataex data rn rx
  | .fext => .fextImm cond dataex data rn rx
  | .fextSe => .fextSeImm cond dataex data rn rx

/-- The Type 6 instruction with a memory transfer of an immediate shift. -/
def Instr.ofShiftImmMove (op : ShiftImmOp) (i m : BitVec 3) (cond : BitVec 5) (g d : Bool) (dataex dreg : BitVec 4)
    (data : BitVec 8) (rn rx : BitVec 4) : Instr :=
  match op with
  | .lshift => .lshiftImmMove i m cond g d dataex dreg data rn rx
  | .orLshift => .orLshiftImmMove i m cond g d dataex dreg data rn rx
  | .ashift => .ashiftImmMove i m cond g d dataex dreg data rn rx
  | .orAshift => .orAshiftImmMove i m cond g d dataex dreg data rn rx
  | .rot => .rotImmMove i m cond g d dataex dreg data rn rx
  | .bclr => .bclrImmMove i m cond g d dataex dreg data rn rx
  | .bset => .bsetImmMove i m cond g d dataex dreg data rn rx
  | .btgl => .btglImmMove i m cond g d dataex dreg data rn rx
  | .btst => .btstImmMove i m cond g d dataex dreg data rn rx
  | .fdep => .fdepImmMove i m cond g d dataex dreg data rn rx
  | .orFdep => .orFdepImmMove i m cond g d dataex dreg data rn rx
  | .fdepSe => .fdepSeImmMove i m cond g d dataex dreg data rn rx
  | .orFdepSe => .orFdepSeImmMove i m cond g d dataex dreg data rn rx
  | .fext => .fextImmMove i m cond g d dataex dreg data rn rx
  | .fextSe => .fextSeImmMove i m cond g d dataex dreg data rn rx

/-- The word of a Type 6 instruction without a memory transfer (R315). -/
def encodeShiftImm (op : ShiftImmOp) (cond : BitVec 5) (dataex : BitVec 4) (data : BitVec 8) (rn rx : BitVec 4) : Word48 :=
  0x02#8 ++ 0#2 ++ cond ++ 0#2 ++ dataex ++ 0#5 ++ op.code ++ data ++ rn ++ rx

/-- The word of a Type 6 instruction with a memory transfer (R315). -/
def encodeShiftImmMove (op : ShiftImmOp) (i m : BitVec 3) (cond : BitVec 5) (g d : Bool) (dataex dreg : BitVec 4)
    (data : BitVec 8) (rn rx : BitVec 4) : Word48 :=
  0x8#4 ++ i ++ m ++ cond ++ bit g ++ bit d ++ dataex ++ dreg ++ 0#1 ++ op.code ++ data ++ rn ++ rx

/-! ### Words to instructions -/

/-- A lookup that fails with a reason. -/
def orElse (o : Option α) (e : DecodeError) : Except DecodeError α :=
  match o with
  | some a => .ok a
  | none => .error e

/-- Continue with the compute operation of bits 22:0. -/
def withCompute (w : Word48) (k : Compute → Instr) : Except DecodeError Instr :=
  (orElse (decodeCompute (fld w 0 23)) .undefinedCompute).map k

/-- Continue with the universal register of a code. -/
def withUreg (c : BitVec 8) (k : Ureg → Except DecodeError Instr) : Except DecodeError Instr :=
  match decodeUreg c with
  | some u => k u
  | none => .error .reservedUreg

/-- Type 2 (R311): an unconditional compute operation is the instruction of its own row. -/
def decodeType2 (w : Word48) : Except DecodeError Instr :=
  withCompute w fun c => if fld w 33 5 = 31#5 then Instr.ofCompute c else .compute (fld w 33 5) c

/-- Type 6, both forms (R315). R315 prints bit 22 as 0 and R283 does not test it: a word with a 1 there is no instruction
(DESIGN CHOICE, assumption log 51). -/
def decodeType6 (w : Word48) (move : Bool) : Except DecodeError Instr :=
  if w.getLsbD 22 then .error .reservedField else
  (orElse (allShiftImmOps.find? (fun o => o.code == fld w 16 6)) .reservedField).map fun op =>
    if move then
      .ofShiftImmMove op (fld w 41 3) (fld w 38 3) (fld w 33 5) (w.getLsbD 32) (w.getLsbD 31) (fld w 27 4) (fld w 23 4)
        (fld w 8 8) (fld w 4 4) (fld w 0 4)
    else .ofShiftImm op (fld w 33 5) (fld w 27 4) (fld w 8 8) (fld w 4 4) (fld w 0 4)

/-- Type 18 (R329, R293). -/
def decodeType18 (w : Word48) : Except DecodeError Instr :=
  let bop := fld w 37 3
  (orElse (decodeSreg (fld w 32 4)) .reservedField).bind fun r =>
    if bop = 0#3 then .ok (.bitSet r (fld w 0 32)) else if bop = 1#3 then .ok (.bitClr r (fld w 0 32))
    else if bop = 2#3 then .ok (.bitTgl r (fld w 0 32)) else if bop = 4#3 then .ok (.bitTst r (fld w 0 32))
    else if bop = 5#3 then .ok (.bitXor r (fld w 0 32)) else .error .reservedField

/-- Type 20 (R331): the highest set bit names the instruction. -/
def decodeType20 (w : Word48) : Instr :=
  let lpo := w.getLsbD 38
  let spu := w.getLsbD 37
  let spo := w.getLsbD 36
  let ppu := w.getLsbD 35
  let ppo := w.getLsbD 34
  let fc := w.getLsbD 33
  if w.getLsbD 39 then .pushLoop lpo spu spo ppu ppo fc
  else if lpo then .popLoop spu spo ppu ppo fc
  else if spu then .pushSts spo ppu ppo fc
  else if spo then .popSts ppu ppo fc
  else if ppu then .pushPcstk ppo fc
  else if ppo then .popPcstk fc
  else .flushCache fc

/-- NOP, IDLE and IDLE16 (R332, R333). -/
def decodeIdle (w : Word48) : Except DecodeError Instr :=
  if !w.getLsbD 39 then .ok .nop
  else if fld w 0 39 = 0#39 then .ok .idle
  else if fld w 0 39 = Config.idle16Field then .ok .idle16
  else .error .undefinedIdle

/-- The words whose three high bits are 000, by bits 44:40 (R283). A word of the CJUMP and RFRAME row whose other bits are
not those that R334 prints is no instruction: whether they are tested R283 does not say (DESIGN CHOICE, assumption log
51). -/
def decodeGroup0 (w : Word48) : Except DecodeError Instr :=
  let op := fld w 40 5
  let cond := fld w 33 5
  let a := w.getLsbD 38
  let j := w.getLsbD 26
  let e := w.getLsbD 25
  let ci := w.getLsbD 24
  let call := w.getLsbD 39
  if op = 0b00000#5 then decodeIdle w
  else if op = 0b00001#5 then decodeType2 w
  else if op = 0b00010#5 then decodeType6 w false
  else if op = 0b00100#5 then withCompute w fun c => .modify a cond (fld w 30 3) (fld w 27 3) c
  else if op = 0b00110#5 then
    .ok (if call then .callDirect a cond j ci (fld w 0 24) else .jumpDirect a cond j ci (fld w 0 24))
  else if op = 0b00111#5 then
    .ok (if call then .callPcrel a cond j ci (fld w 0 24) else .jumpPcrel a cond j ci (fld w 0 24))
  else if op = 0b01000#5 then withCompute w fun c =>
    if call then .callIndirect a cond (fld w 30 3) (fld w 27 3) j e ci c
    else .jumpIndirect a cond (fld w 30 3) (fld w 27 3) j e ci c
  else if op = 0b01001#5 then withCompute w fun c =>
    if call then .callPcrel6 a cond (fld w 27 6) j e ci c else .jumpPcrel6 a cond (fld w 27 6) j e ci c
  else if op = 0b01010#5 then withCompute w fun c => .rts cond j e ci c
  else if op = 0b01011#5 then withCompute w fun c => .rti cond j e c
  else if op = 0b01100#5 then .ok (.lcntrImmDo (fld w 24 16) (fld w 0 24))
  else if op = 0b01101#5 then withUreg (fld w 32 8) fun u => .ok (.lcntrUregDo u (fld w 0 24))
  else if op = 0b01110#5 then .ok (.doUntil cond (fld w 0 24))
  else if op = 0b01111#5 then withUreg (fld w 32 8) fun u => .ok (.uregImm32 u (fld w 0 32))
  else if fld w 42 3 = 0b100#3 then
    withUreg (fld w 32 8) fun u => .ok (.uregMemDirect (w.getLsbD 41) (w.getLsbD 40) u (fld w 0 32))
  else if op = 0b10100#5 then decodeType18 w
  else if op = 0b10110#5 then
    .ok (if call then .bitrevImm a (fld w 32 3) (fld w 0 32) else .modifyImm a (fld w 32 3) (fld w 0 32))
  else if op = 0b10111#5 then .ok (decodeType20 w)
  else if fld w 24 24 = 0x180400#24 then .ok (.cjumpDirect (fld w 0 24))
  else if fld w 24 24 = 0x184400#24 then .ok (.cjumpPcrel (fld w 0 24))
  else if w = 0x190000000000#48 then .ok .rframe
  else .error .undefinedWord

/-- The instruction of a word (R283), or the reason there is none. -/
def decode (w : Word48) : Except DecodeError Instr :=
  let top := fld w 45 3
  let b44 := w.getLsbD 44
  if top = 0#3 then decodeGroup0 w
  else if top = 1#3 then withCompute w fun c =>
    .dmPmDualMove b44 (fld w 41 3) (fld w 38 3) (w.getLsbD 37) (fld w 33 4) (fld w 30 3) (fld w 27 3) (fld w 23 4) c
  else if top = 2#3 then withUreg (fld w 23 8) fun u => withCompute w fun c =>
    .uregMemMoveM b44 (fld w 41 3) (fld w 38 3) (fld w 33 5) (w.getLsbD 32) (w.getLsbD 31) u c
  else if top = 3#3 then
    if b44 then withUreg (fld w 36 8) fun src => withUreg (fld w 23 8) fun dst => withCompute w fun c =>
      .uregUregMove src (fld w 31 5) dst c
    else withCompute w fun c =>
      .dregMemMoveImm6 (fld w 41 3) (w.getLsbD 40) (w.getLsbD 39) (w.getLsbD 38) (fld w 33 5) (fld w 27 6) (fld w 23 4) c
  else if top = 4#3 then
    if b44 then .ok (.memImm32Store (fld w 41 3) (fld w 38 3) (w.getLsbD 37) (fld w 0 32))
    else decodeType6 w true
  else if top = 5#3 then withUreg (fld w 32 8) fun u =>
    .ok (.uregMemImm32 b44 (fld w 41 3) (w.getLsbD 40) u (fld w 0 32))
  else if top = 6#3 then withCompute w fun c =>
    .jumpIndirectElseMove b44 (fld w 41 3) (fld w 38 3) (fld w 33 5) (fld w 30 3) (fld w 27 3) (fld w 23 4) c
  else withCompute w fun c =>
    .jumpPcrel6ElseMove b44 (fld w 41 3) (fld w 38 3) (fld w 33 5) (fld w 27 6) (fld w 23 4) c

/-! ### Instructions to words -/

/-- The unconditional Type 2 word of a compute operation (R311, R341). -/
def encodeAlone (c : Compute) : Word48 := 0x01#8 ++ 0#2 ++ 31#5 ++ 0#10 ++ encodeCompute c

/-- The word of a Type 20 instruction: its seven operation bits in bits 39:33 (R331). -/
def encodeType20 (lpu lpo spu spo ppu ppo fc : Bool) : Word48 :=
  0x17#8 ++ bit lpu ++ bit lpo ++ bit spu ++ bit spo ++ bit ppu ++ bit ppo ++ bit fc ++ 0#33

/-- The word of an instruction; unused bits are 0. -/
def encode : Instr → Word48
  | .dmPmDualMove dmd dmi dmm pmd dmDreg pmi pmm pmDreg c =>
    1#3 ++ bit dmd ++ dmi ++ dmm ++ bit pmd ++ dmDreg ++ pmi ++ pmm ++ pmDreg ++ encodeCompute c
  | .compute cond c => 0x01#8 ++ 0#2 ++ cond ++ 0#10 ++ encodeCompute c
  | .uregMemMoveM u i m cond g d ureg c =>
    2#3 ++ bit u ++ i ++ m ++ cond ++ bit g ++ bit d ++ encodeUreg ureg ++ encodeCompute c
  | .dregMemMoveImm6 i g d u cond data dreg c =>
    6#4 ++ i ++ bit g ++ bit d ++ bit u ++ cond ++ data ++ dreg ++ encodeCompute c
  | .uregUregMove src cond dst c => 7#4 ++ encodeUreg src ++ cond ++ encodeUreg dst ++ encodeCompute c
  | .lshiftImm cond dataex data rn rx => encodeShiftImm .lshift cond dataex data rn rx
  | .lshiftImmMove i m cond g d dataex dreg data rn rx => encodeShiftImmMove .lshift i m cond g d dataex dreg data rn rx
  | .orLshiftImm cond dataex data rn rx => encodeShiftImm .orLshift cond dataex data rn rx
  | .orLshiftImmMove i m cond g d dataex dreg data rn rx => encodeShiftImmMove .orLshift i m cond g d dataex dreg data rn rx
  | .ashiftImm cond dataex data rn rx => encodeShiftImm .ashift cond dataex data rn rx
  | .ashiftImmMove i m cond g d dataex dreg data rn rx => encodeShiftImmMove .ashift i m cond g d dataex dreg data rn rx
  | .orAshiftImm cond dataex data rn rx => encodeShiftImm .orAshift cond dataex data rn rx
  | .orAshiftImmMove i m cond g d dataex dreg data rn rx => encodeShiftImmMove .orAshift i m cond g d dataex dreg data rn rx
  | .rotImm cond dataex data rn rx => encodeShiftImm .rot cond dataex data rn rx
  | .rotImmMove i m cond g d dataex dreg data rn rx => encodeShiftImmMove .rot i m cond g d dataex dreg data rn rx
  | .bclrImm cond dataex data rn rx => encodeShiftImm .bclr cond dataex data rn rx
  | .bclrImmMove i m cond g d dataex dreg data rn rx => encodeShiftImmMove .bclr i m cond g d dataex dreg data rn rx
  | .bsetImm cond dataex data rn rx => encodeShiftImm .bset cond dataex data rn rx
  | .bsetImmMove i m cond g d dataex dreg data rn rx => encodeShiftImmMove .bset i m cond g d dataex dreg data rn rx
  | .btglImm cond dataex data rn rx => encodeShiftImm .btgl cond dataex data rn rx
  | .btglImmMove i m cond g d dataex dreg data rn rx => encodeShiftImmMove .btgl i m cond g d dataex dreg data rn rx
  | .btstImm cond dataex data rn rx => encodeShiftImm .btst cond dataex data rn rx
  | .btstImmMove i m cond g d dataex dreg data rn rx => encodeShiftImmMove .btst i m cond g d dataex dreg data rn rx
  | .fdepImm cond dataex data rn rx => encodeShiftImm .fdep cond dataex data rn rx
  | .fdepImmMove i m cond g d dataex dreg data rn rx => encodeShiftImmMove .fdep i m cond g d dataex dreg data rn rx
  | .orFdepImm cond dataex data rn rx => encodeShiftImm .orFdep cond dataex data rn rx
  | .orFdepImmMove i m cond g d dataex dreg data rn rx => encodeShiftImmMove .orFdep i m cond g d dataex dreg data rn rx
  | .fdepSeImm cond dataex data rn rx => encodeShiftImm .fdepSe cond dataex data rn rx
  | .fdepSeImmMove i m cond g d dataex dreg data rn rx => encodeShiftImmMove .fdepSe i m cond g d dataex dreg data rn rx
  | .orFdepSeImm cond dataex data rn rx => encodeShiftImm .orFdepSe cond dataex data rn rx
  | .orFdepSeImmMove i m cond g d dataex dreg data rn rx => encodeShiftImmMove .orFdepSe i m cond g d dataex dreg data rn rx
  | .fextImm cond dataex data rn rx => encodeShiftImm .fext cond dataex data rn rx
  | .fextImmMove i m cond g d dataex dreg data rn rx => encodeShiftImmMove .fext i m cond g d dataex dreg data rn rx
  | .fextSeImm cond dataex data rn rx => encodeShiftImm .fextSe cond dataex data rn rx
  | .fextSeImmMove i m cond g d dataex dreg data rn rx => encodeShiftImmMove .fextSe i m cond g d dataex dreg data rn rx
  | .modify g cond i m c => 0x04#8 ++ 0#1 ++ bit g ++ cond ++ i ++ m ++ 0#4 ++ encodeCompute c
  | .jumpDirect a cond j ci addr => 0x06#8 ++ 0#1 ++ bit a ++ cond ++ 0#6 ++ bit j ++ 0#1 ++ bit ci ++ addr
  | .jumpPcrel a cond j ci reladdr => 0x07#8 ++ 0#1 ++ bit a ++ cond ++ 0#6 ++ bit j ++ 0#1 ++ bit ci ++ reladdr
  | .jumpIndirect a cond pmi pmm j e ci c =>
    0x08#8 ++ 0#1 ++ bit a ++ cond ++ pmi ++ pmm ++ bit j ++ bit e ++ bit ci ++ 0#1 ++ encodeCompute c
  | .jumpPcrel6 a cond reladdr j e ci c =>
    0x09#8 ++ 0#1 ++ bit a ++ cond ++ reladdr ++ bit j ++ bit e ++ bit ci ++ 0#1 ++ encodeCompute c
  | .callDirect a cond j ci addr => 0x06#8 ++ 1#1 ++ bit a ++ cond ++ 0#6 ++ bit j ++ 0#1 ++ bit ci ++ addr
  | .callPcrel a cond j ci reladdr => 0x07#8 ++ 1#1 ++ bit a ++ cond ++ 0#6 ++ bit j ++ 0#1 ++ bit ci ++ reladdr
  | .callIndirect a cond pmi pmm j e ci c =>
    0x08#8 ++ 1#1 ++ bit a ++ cond ++ pmi ++ pmm ++ bit j ++ bit e ++ bit ci ++ 0#1 ++ encodeCompute c
  | .callPcrel6 a cond reladdr j e ci c =>
    0x09#8 ++ 1#1 ++ bit a ++ cond ++ reladdr ++ bit j ++ bit e ++ bit ci ++ 0#1 ++ encodeCompute c
  | .jumpIndirectElseMove d dmi dmm cond pmi pmm dreg c =>
    6#3 ++ bit d ++ dmi ++ dmm ++ cond ++ pmi ++ pmm ++ dreg ++ encodeCompute c
  | .jumpPcrel6ElseMove d dmi dmm cond reladdr dreg c =>
    7#3 ++ bit d ++ dmi ++ dmm ++ cond ++ reladdr ++ dreg ++ encodeCompute c
  | .rts cond j e lr c => 0x0A#8 ++ 0#2 ++ cond ++ 0#6 ++ bit j ++ bit e ++ bit lr ++ 0#1 ++ encodeCompute c
  | .rti cond j e c => 0x0B#8 ++ 0#2 ++ cond ++ 0#6 ++ bit j ++ bit e ++ 0#2 ++ encodeCompute c
  | .lcntrImmDo data reladdr => 0x0C#8 ++ data ++ reladdr
  | .lcntrUregDo ureg reladdr => 0x0D#8 ++ encodeUreg ureg ++ 0#8 ++ reladdr
  | .doUntil term reladdr => 0x0E#8 ++ 0#2 ++ term ++ 0#9 ++ reladdr
  | .uregMemDirect g d ureg addr => 0b000100#6 ++ bit g ++ bit d ++ encodeUreg ureg ++ addr
  | .uregMemImm32 g i d ureg data => 5#3 ++ bit g ++ i ++ bit d ++ encodeUreg ureg ++ data
  | .memImm32Store i m g data => 9#4 ++ i ++ m ++ bit g ++ 0#5 ++ data
  | .uregImm32 ureg data => 0x0F#8 ++ encodeUreg ureg ++ data
  | .bitSet sreg data => 0x14#8 ++ 0#3 ++ 0#1 ++ encodeSreg sreg ++ data
  | .bitClr sreg data => 0x14#8 ++ 1#3 ++ 0#1 ++ encodeSreg sreg ++ data
  | .bitTgl sreg data => 0x14#8 ++ 2#3 ++ 0#1 ++ encodeSreg sreg ++ data
  | .bitTst sreg data => 0x14#8 ++ 4#3 ++ 0#1 ++ encodeSreg sreg ++ data
  | .bitXor sreg data => 0x14#8 ++ 5#3 ++ 0#1 ++ encodeSreg sreg ++ data
  | .modifyImm g i data => 0x16#8 ++ 0#1 ++ bit g ++ 0#3 ++ i ++ data
  | .bitrevImm g i data => 0x16#8 ++ 1#1 ++ bit g ++ 0#3 ++ i ++ data
  | .pushLoop lpo spu spo ppu ppo fc => encodeType20 true lpo spu spo ppu ppo fc
  | .popLoop spu spo ppu ppo fc => encodeType20 false true spu spo ppu ppo fc
  | .pushSts spo ppu ppo fc => encodeType20 false false true spo ppu ppo fc
  | .popSts ppu ppo fc => encodeType20 false false false true ppu ppo fc
  | .pushPcstk ppo fc => encodeType20 false false false false true ppo fc
  | .popPcstk fc => encodeType20 false false false false false true fc
  | .flushCache fc => encodeType20 false false false false false false fc
  | .nop => 0
  | .idle => 0x008000000000
  | .idle16 => 0x00#8 ++ 1#1 ++ Config.idle16Field
  | .cjumpDirect addr => 0x180400#24 ++ addr
  | .cjumpPcrel reladdr => 0x184400#24 ++ reladdr
  | .rframe => 0x190000000000
  | .aluAdd rn rx ry => encodeAlone (.alu .add rn rx ry)
  | .aluSub rn rx ry => encodeAlone (.alu .sub rn rx ry)
  | .aluAddCi rn rx ry => encodeAlone (.alu .addCi rn rx ry)
  | .aluSubCi rn rx ry => encodeAlone (.alu .subCi rn rx ry)
  | .aluAvg rn rx ry => encodeAlone (.alu .avg rn rx ry)
  | .aluComp rn rx ry => encodeAlone (.alu .comp rn rx ry)
  | .aluIncCi rn rx ry => encodeAlone (.alu .incCi rn rx ry)
  | .aluDecCi rn rx ry => encodeAlone (.alu .decCi rn rx ry)
  | .aluInc rn rx ry => encodeAlone (.alu .inc rn rx ry)
  | .aluDec rn rx ry => encodeAlone (.alu .dec rn rx ry)
  | .aluNeg rn rx ry => encodeAlone (.alu .neg rn rx ry)
  | .aluAbs rn rx ry => encodeAlone (.alu .abs rn rx ry)
  | .aluPass rn rx ry => encodeAlone (.alu .pass rn rx ry)
  | .aluAnd rn rx ry => encodeAlone (.alu .and rn rx ry)
  | .aluOr rn rx ry => encodeAlone (.alu .or rn rx ry)
  | .aluXor rn rx ry => encodeAlone (.alu .xor rn rx ry)
  | .aluNot rn rx ry => encodeAlone (.alu .not rn rx ry)
  | .aluMin rn rx ry => encodeAlone (.alu .min rn rx ry)
  | .aluMax rn rx ry => encodeAlone (.alu .max rn rx ry)
  | .aluClip rn rx ry => encodeAlone (.alu .clip rn rx ry)
  | .aluDual rs ra rx ry => encodeAlone (.dualAlu rs ra rx ry)
  | .fltAdd rn rx ry => encodeAlone (.flt .add rn rx ry)
  | .fltSub rn rx ry => encodeAlone (.flt .sub rn rx ry)
  | .fltAbsAdd rn rx ry => encodeAlone (.flt .absAdd rn rx ry)
  | .fltAbsSub rn rx ry => encodeAlone (.flt .absSub rn rx ry)
  | .fltAvg rn rx ry => encodeAlone (.flt .avg rn rx ry)
  | .fltComp rn rx ry => encodeAlone (.flt .comp rn rx ry)
  | .fltNeg rn rx ry => encodeAlone (.flt .neg rn rx ry)
  | .fltAbs rn rx ry => encodeAlone (.flt .abs rn rx ry)
  | .fltPass rn rx ry => encodeAlone (.flt .pass rn rx ry)
  | .fltRnd rn rx ry => encodeAlone (.flt .rnd rn rx ry)
  | .fltScalb rn rx ry => encodeAlone (.flt .scalb rn rx ry)
  | .fltMant rn rx ry => encodeAlone (.flt .mant rn rx ry)
  | .fltLogb rn rx ry => encodeAlone (.flt .logb rn rx ry)
  | .fltFix rn rx ry => encodeAlone (.flt .fix rn rx ry)
  | .fltFixBy rn rx ry => encodeAlone (.flt .fixBy rn rx ry)
  | .fltTrunc rn rx ry => encodeAlone (.flt .trunc rn rx ry)
  | .fltTruncBy rn rx ry => encodeAlone (.flt .truncBy rn rx ry)
  | .fltFloat rn rx ry => encodeAlone (.flt .float rn rx ry)
  | .fltFloatBy rn rx ry => encodeAlone (.flt .floatBy rn rx ry)
  | .fltRecips rn rx ry => encodeAlone (.flt .recips rn rx ry)
  | .fltRsqrts rn rx ry => encodeAlone (.flt .rsqrts rn rx ry)
  | .fltCopysign rn rx ry => encodeAlone (.flt .copysign rn rx ry)
  | .fltMin rn rx ry => encodeAlone (.flt .min rn rx ry)
  | .fltMax rn rx ry => encodeAlone (.flt .max rn rx ry)
  | .fltClip rn rx ry => encodeAlone (.flt .clip rn rx ry)
  | .fltDual rs ra rx ry => encodeAlone (.dualFlt rs ra rx ry)
  | .mulRn mod rn rx ry => encodeAlone (.mul (.rn mod) rn rx ry)
  | .mulMrf mod rn rx ry => encodeAlone (.mul (.mrf mod) rn rx ry)
  | .mulMrb mod rn rx ry => encodeAlone (.mul (.mrb mod) rn rx ry)
  | .mulRnMrfAdd mod rn rx ry => encodeAlone (.mul (.rnMrfAdd mod) rn rx ry)
  | .mulRnMrbAdd mod rn rx ry => encodeAlone (.mul (.rnMrbAdd mod) rn rx ry)
  | .mulMrfAdd mod rn rx ry => encodeAlone (.mul (.mrfAdd mod) rn rx ry)
  | .mulMrbAdd mod rn rx ry => encodeAlone (.mul (.mrbAdd mod) rn rx ry)
  | .mulRnMrfSub mod rn rx ry => encodeAlone (.mul (.rnMrfSub mod) rn rx ry)
  | .mulRnMrbSub mod rn rx ry => encodeAlone (.mul (.rnMrbSub mod) rn rx ry)
  | .mulMrfSub mod rn rx ry => encodeAlone (.mul (.mrfSub mod) rn rx ry)
  | .mulMrbSub mod rn rx ry => encodeAlone (.mul (.mrbSub mod) rn rx ry)
  | .mulRnSatMrf mod rn rx ry => encodeAlone (.mul (.rnSatMrf mod) rn rx ry)
  | .mulRnSatMrb mod rn rx ry => encodeAlone (.mul (.rnSatMrb mod) rn rx ry)
  | .mulMrfSat mod rn rx ry => encodeAlone (.mul (.mrfSat mod) rn rx ry)
  | .mulMrbSat mod rn rx ry => encodeAlone (.mul (.mrbSat mod) rn rx ry)
  | .mulRnRndMrf signed rn rx ry => encodeAlone (.mul (.rnRndMrf signed) rn rx ry)
  | .mulRnRndMrb signed rn rx ry => encodeAlone (.mul (.rnRndMrb signed) rn rx ry)
  | .mulMrfRnd signed rn rx ry => encodeAlone (.mul (.mrfRnd signed) rn rx ry)
  | .mulMrbRnd signed rn rx ry => encodeAlone (.mul (.mrbRnd signed) rn rx ry)
  | .mulMrfZero rn rx ry => encodeAlone (.mul .mrfZero rn rx ry)
  | .mulMrbZero rn rx ry => encodeAlone (.mul .mrbZero rn rx ry)
  | .mulFloat rn rx ry => encodeAlone (.mul .fmul rn rx ry)
  | .shLshift rn rx ry => encodeAlone (.shift .lshift rn rx ry)
  | .shOrLshift rn rx ry => encodeAlone (.shift .orLshift rn rx ry)
  | .shAshift rn rx ry => encodeAlone (.shift .ashift rn rx ry)
  | .shOrAshift rn rx ry => encodeAlone (.shift .orAshift rn rx ry)
  | .shRot rn rx ry => encodeAlone (.shift .rot rn rx ry)
  | .shBclr rn rx ry => encodeAlone (.shift .bclr rn rx ry)
  | .shBset rn rx ry => encodeAlone (.shift .bset rn rx ry)
  | .shBtgl rn rx ry => encodeAlone (.shift .btgl rn rx ry)
  | .shBtst rn rx ry => encodeAlone (.shift .btst rn rx ry)
  | .shFdep rn rx ry => encodeAlone (.shift .fdep rn rx ry)
  | .shOrFdep rn rx ry => encodeAlone (.shift .orFdep rn rx ry)
  | .shFdepSe rn rx ry => encodeAlone (.shift .fdepSe rn rx ry)
  | .shOrFdepSe rn rx ry => encodeAlone (.shift .orFdepSe rn rx ry)
  | .shFext rn rx ry => encodeAlone (.shift .fext rn rx ry)
  | .shFextSe rn rx ry => encodeAlone (.shift .fextSe rn rx ry)
  | .shExp rn rx ry => encodeAlone (.shift .exp rn rx ry)
  | .shExpEx rn rx ry => encodeAlone (.shift .expEx rn rx ry)
  | .shLeftz rn rx ry => encodeAlone (.shift .leftz rn rx ry)
  | .shLefto rn rx ry => encodeAlone (.shift .lefto rn rx ry)
  | .shFpack rn rx ry => encodeAlone (.shift .fpack rn rx ry)
  | .shFunpack rn rx ry => encodeAlone (.shift .funpack rn rx ry)
  | .mr0fRead rk => encodeAlone (.mrRead .mr0f rk)
  | .mr0fWrite rk => encodeAlone (.mrWrite .mr0f rk)
  | .mr1fRead rk => encodeAlone (.mrRead .mr1f rk)
  | .mr1fWrite rk => encodeAlone (.mrWrite .mr1f rk)
  | .mr2fRead rk => encodeAlone (.mrRead .mr2f rk)
  | .mr2fWrite rk => encodeAlone (.mrWrite .mr2f rk)
  | .mr0bRead rk => encodeAlone (.mrRead .mr0b rk)
  | .mr0bWrite rk => encodeAlone (.mrWrite .mr0b rk)
  | .mr1bRead rk => encodeAlone (.mrRead .mr1b rk)
  | .mr1bWrite rk => encodeAlone (.mrWrite .mr1b rk)
  | .mr2bRead rk => encodeAlone (.mrRead .mr2b rk)
  | .mr2bWrite rk => encodeAlone (.mrWrite .mr2b rk)
  | .parRmAdd rm ra rxm rym rxa rya => encodeAlone (.mulAlu .rm .add rm ra rxm rym rxa rya)
  | .parRmSub rm ra rxm rym rxa rya => encodeAlone (.mulAlu .rm .sub rm ra rxm rym rxa rya)
  | .parRmAvg rm ra rxm rym rxa rya => encodeAlone (.mulAlu .rm .avg rm ra rxm rym rxa rya)
  | .parMrfAddAdd rm ra rxm rym rxa rya => encodeAlone (.mulAlu .mrfAdd .add rm ra rxm rym rxa rya)
  | .parMrfAddSub rm ra rxm rym rxa rya => encodeAlone (.mulAlu .mrfAdd .sub rm ra rxm rym rxa rya)
  | .parMrfAddAvg rm ra rxm rym rxa rya => encodeAlone (.mulAlu .mrfAdd .avg rm ra rxm rym rxa rya)
  | .parRmMrfAddAdd rm ra rxm rym rxa rya => encodeAlone (.mulAlu .rmMrfAdd .add rm ra rxm rym rxa rya)
  | .parRmMrfAddSub rm ra rxm rym rxa rya => encodeAlone (.mulAlu .rmMrfAdd .sub rm ra rxm rym rxa rya)
  | .parRmMrfAddAvg rm ra rxm rym rxa rya => encodeAlone (.mulAlu .rmMrfAdd .avg rm ra rxm rym rxa rya)
  | .parMrfSubAdd rm ra rxm rym rxa rya => encodeAlone (.mulAlu .mrfSub .add rm ra rxm rym rxa rya)
  | .parMrfSubSub rm ra rxm rym rxa rya => encodeAlone (.mulAlu .mrfSub .sub rm ra rxm rym rxa rya)
  | .parMrfSubAvg rm ra rxm rym rxa rya => encodeAlone (.mulAlu .mrfSub .avg rm ra rxm rym rxa rya)
  | .parRmMrfSubAdd rm ra rxm rym rxa rya => encodeAlone (.mulAlu .rmMrfSub .add rm ra rxm rym rxa rya)
  | .parRmMrfSubSub rm ra rxm rym rxa rya => encodeAlone (.mulAlu .rmMrfSub .sub rm ra rxm rym rxa rya)
  | .parRmMrfSubAvg rm ra rxm rym rxa rya => encodeAlone (.mulAlu .rmMrfSub .avg rm ra rxm rym rxa rya)
  | .parFltAdd rm ra rxm rym rxa rya => encodeAlone (.mulFlt .add rm ra rxm rym rxa rya)
  | .parFltSub rm ra rxm rym rxa rya => encodeAlone (.mulFlt .sub rm ra rxm rym rxa rya)
  | .parFltFloatBy rm ra rxm rym rxa rya => encodeAlone (.mulFlt .floatBy rm ra rxm rym rxa rya)
  | .parFltFixBy rm ra rxm rym rxa rya => encodeAlone (.mulFlt .fixBy rm ra rxm rym rxa rya)
  | .parFltAvg rm ra rxm rym rxa rya => encodeAlone (.mulFlt .avg rm ra rxm rym rxa rya)
  | .parFltAbs rm ra rxm rym rxa rya => encodeAlone (.mulFlt .abs rm ra rxm rym rxa rya)
  | .parFltMax rm ra rxm rym rxa rya => encodeAlone (.mulFlt .max rm ra rxm rym rxa rya)
  | .parFltMin rm ra rxm rym rxa rya => encodeAlone (.mulFlt .min rm ra rxm rym rxa rya)
  | .parMulDual rs rm ra rxm rym rxa rya => encodeAlone (.mulDualAlu rs rm ra rxm rym rxa rya)
  | .parFltDual rs rm ra rxm rym rxa rya => encodeAlone (.mulDualFlt rs rm ra rxm rym rxa rya)

/-- The instruction word of a row of spec/opcode_table.json with the bits of `w`. A row of 48 bits is the whole word. A
row of the 23-bit COMPUTE field stands in the word that carries that field and nothing else, the unconditional Type 2
word (assumption log 2). -/
def tableWord (nbits w : Nat) : Word48 :=
  if nbits ≤ 24 then 0x013E00000000#48 ||| (BitVec.ofNat 23 w).setWidth 48 else BitVec.ofNat 48 w

/-- The instruction the decoder reads from such a word. -/
def decodeTableWord (nbits w : Nat) : Option Instr :=
  match decode (tableWord nbits w) with
  | .ok i => some i
  | .error _ => none

end Sys2Proof
end

