-- ==== Sys2Proof/Machine/State.lean ====
section
/-! DEFINITION. The state of the machine as plain data, the reasons a step can stop, and the state after reset.
The parts are kept in small structures: data registers, address registers, system registers, pipeline, stacks,
instruction cache, memory, the I/O processor, the surroundings (pins and the script of outside events), and two parts of
the model's own: the notes one step takes for its end (`Transient`) and the values that have not taken effect yet
(`Latency`). -/

namespace Sys2Proof.Machine

/-! ### Reasons to stop -/

/-- Faults: the machine itself is left without a defined next state. -/
inductive Fault where
  /-- Bit 1 of IRPTL was written with 1: "places the processor in an illegal state" (10_state.md R55; U13). Raised by
  a move, a bit operation or a load that writes IRPTL. Safe: the model stops where the hardware does something unknown. -/
  | irptlResetBit
  deriving DecidableEq, Repr

/-- Refusals: programs or surroundings for which the spec gives no next state (93_implementation_defined.md, treatment
'refuse'). All are safe: the model stops where the hardware goes on in a way the spec does not describe. -/
inductive Refusal where
  /-- The instruction has no meaning in this model. Raised only by an arm of `exec` that is rejected by name. -/
  | notModelled (mnemonic : String)
  /-- The word at PC decodes to no instruction: no row of the opcode table, or a reserved field (U1 to U4, U16). Raised
  by `step`. -/
  | undefinedWord
  /-- A transfer of a DAG register through its own DAG (10_state.md R36; U10). Raised by Types 3 and 15. -/
  | sameDagTransfer
  /-- A pop or read of an empty PC stack, including RTS, RTI and the loop back or end of a loop whose top-of-loop entry
  is gone (U11). -/
  | emptyPcStack
  /-- A pop of empty loop stacks (U11), or JUMP (LA) with no loop on the stack (41_program_flow.md R391; U18). -/
  | emptyLoopStack
  /-- A pop of an empty status stack (U11). -/
  | emptyStatusStack
  /-- A write of CURLCNTR at e - 2 of a counter loop, inside a loop of one or two instructions, or from memory right
  after IF NOT LCE (10_state.md R42, 41_program_flow.md R398, R399; U12, U17). -/
  | curlcntrWrite
  /-- A DO UNTIL, IDLE or IDLE16 in a delay slot (41_program_flow.md R384: "the model refuses this case", "refused"; U18). Raised
  by these instructions. Safe: the model stops. -/
  | delaySlot
  /-- A DO UNTIL whose end is not after it, or is the end of the loop it stands in (41_program_flow.md R394, R400; U18). -/
  | loopEnd
  /-- Push and pop of one stack in one word (43_misc.md R445; U18). -/
  | pushPop
  /-- DMA, host, bus, external port or serial port activity while the core is in IDLE16 (43_misc.md R452; U20). -/
  | idle16Activity
  /-- A timer set up or changed as the manual forbids (60_exceptions.md R695; U22). -/
  | timerMisuse
  /-- A DMA transfer whose packing mode and memory width do not agree (61_dma_extport.md R736; U23). -/
  | dmaWidth
  /-- FLSH written to an active channel or together with DEN, or DMA enabled by the write right after a flush, which takes
  effect in the same cycle (61_dma_extport.md R733, R761; U24). -/
  | dmaFlush
  /-- A core access of EPBx while DMA uses the buffer (61_dma_extport.md R762; U25). -/
  | epbInUse
  /-- More than six requests on DMARx without a grant (61_dma_extport.md R747; U26). -/
  | dmaRequests
  /-- A reserved mode of an external port channel, or chaining in external handshake mode (11_state_iop.md R140; U27,
  U32). -/
  | dmaMode
  /-- A write by DMA channel 8 with BSO = 1 (61_dma_extport.md R790; U28). -/
  | bsoWrite
  /-- A host access that breaks the packing rules, uses a reserved width, comes in the step in which HPFLSH is written, or
  leaves out a step of the change of HBW; a host that gives back the bus within a pair of bytes (61_dma_extport.md R773,
  R774, R775; U29, U33, U39). -/
  | hostPacking
  /-- A serial port enabled with a word length the manual excludes, or sending with one (62_serial_ports.md R837; U34). -/
  | sportWord
  /-- The pins ID1-0 are 11, which is not allowed (61_dma_extport.md R752; U33). Raised by `step`. -/
  | processorId
  /-- A use of an external port channel that the old and the new bits of DMACx would answer differently, or a use of its
  buffer that may come before a flush, while a write of DMACx has not taken effect for certain (61_dma_extport.md R733;
  U39). -/
  | dmacLatency
  /-- A JUMP, CALL, RTS or RTI among the last three instructions of a loop, but for the nondelayed CALL that R393 allows
  (41_program_flow.md R400; 70_reset_and_hazards.md R921; U18). -/
  | loopBranch
  /-- SBTS with HBR while the core transfers data to or from the other processor (61_dma_extport.md R777; U30). Raised by
  the event that would give the bus to the host. -/
  | sbtsTransfer
  deriving DecidableEq, Repr

/-! ### Core registers -/

/-- The register file, the multiplier result registers and PX (10_state.md R25, R28, R30, R58). -/
structure DataRegs where
  /-- P0 to P15. -/
  primary : Vector (BitVec 40) 16
  /-- A0 to A15, the alternate set. -/
  alternate : Vector (BitVec 40) 16
  /-- Accumulator A0: MR2 in bits 79:64, MR1 in 63:32, MR0 in 31:0. -/
  acc0 : BitVec 80
  /-- Accumulator A1. -/
  acc1 : BitVec 80
  /-- PX: PX2 in bits 47:16, PX1 in bits 15:0. -/
  px : BitVec 48
  deriving DecidableEq, Repr

/-- One set of the four register files of a data address generator of width `w` (10_state.md R31). -/
structure DagSet (w : Nat) where
  i : Vector (BitVec w) 8
  m : Vector (BitVec w) 8
  l : Vector (BitVec w) 8
  b : Vector (BitVec w) 8
  deriving DecidableEq, Repr

/-- Both address generators with their alternate sets (10_state.md R31, R33). -/
structure DagRegs where
  dag1 : DagSet 32
  dag1Alt : DagSet 32
  dag2 : DagSet 24
  dag2Alt : DagSet 24
  deriving DecidableEq, Repr

/-- The system registers (10_state.md R50 to R57). Of STKY, bits 21, 22, 24 and 26 are views of the stacks and are kept
0 here; `Operands` reads and writes the register as the program sees it. -/
structure SysRegs where
  mode1 : BitVec 32
  mode2 : BitVec 32
  irptl : BitVec 32
  imask : BitVec 32
  imaskp : BitVec 32
  astat : BitVec 32
  stky : BitVec 32
  ustat1 : BitVec 32
  ustat2 : BitVec 32
  deriving DecidableEq, Repr

/-- Written values that have not taken effect, and old values still in effect (10_state.md R24; 70_reset_and_hazards.md
R931). -/
structure Latency where
  /-- MODE1 as the instruction at PC sees it. -/
  mode1 : BitVec 32
  /-- MODE2 as the instruction at PC sees it. -/
  mode2 : BitVec 32
  /-- ASTAT as conditions and carry inputs see it. -/
  astat : BitVec 32
  /-- IMASKP as a read, and the end of an interrupt, see it. -/
  imaskp : BitVec 32
  /-- A value written to PCSTKP that reaches the pointer at the end of this step. -/
  pcstkp : Option (BitVec 5)
  /-- CURLCNTR before a load from memory by the previous instruction, for IF NOT LCE (10_state.md R42). -/
  curlcntr : Option (BitVec 32)
  /-- The register SYSCON before a write in the previous step, and the number of the free choice between old and new
  (U36). -/
  syscon : Option (BitVec 32 × Nat)
  /-- The previous instruction was conditional on NOT LCE. -/
  afterNotLce : Bool
  /-- The previous instruction loaded a register of DAG1; of DAG2 (10_state.md R35). -/
  dag1Loaded : Bool
  dag2Loaded : Bool
  /-- Whether this processor was bus master when the condition of an instruction that has waited since was evaluated
  (30_encoding.md R286; 61_dma_extport.md R777). -/
  master : Option Bool
  deriving DecidableEq, Repr

/-! ### Sequencer -/

/-- Whether the core executes (60_exceptions.md R700; 43_misc.md R451, R452). -/
inductive CoreMode where
  | running | idle | idle16
  deriving DecidableEq, Repr

/-- A fetched instruction word and whether the cache supplied it. -/
structure Fetched where
  word : BitVec 48
  cached : Bool
  deriving DecidableEq, Repr

/-- The pipeline (41_program_flow.md R380). -/
structure Pipeline where
  /-- Execute address. -/
  pc : BitVec 24
  /-- Decode address. -/
  daddr : BitVec 24
  /-- Fetch address. -/
  faddr : BitVec 24
  /-- The instruction at PC is a NOP (`kP`). -/
  killP : Bool
  /-- The instruction at DADDR will be a NOP (`kD`); `kF` is false between steps. -/
  killD : Bool
  /-- The word fetched for PC, none while the pipeline is empty (10_state.md R70). -/
  irP : Option Fetched
  /-- The word fetched for DADDR. -/
  irD : Option Fetched
  /-- The loop re-entry flag LRF (41_program_flow.md R393). -/
  lrf : Bool
  mode : CoreMode
  /-- How many of the next instructions stand in delay slots (41_program_flow.md R383, R384). -/
  slots : BitVec 2
  /-- How many of the next steps take no interrupt (60_exceptions.md R677). -/
  holdoff : BitVec 2
  deriving DecidableEq, Repr

/-- The PC stack, the two loop stacks and the status stack (10_state.md R38 to R45). -/
structure Stacks where
  /-- Entry k of the PC stack is the top when PCSTKP = k + 1. -/
  pc : Vector (BitVec 24) 30
  pcstkp : BitVec 5
  /-- The loop address stack; LADDR is entry `depth - 1`. -/
  laddr : Vector (BitVec 32) 6
  /-- The loop counter stack; CURLCNTR is entry `depth - 1`, LCNTR entry `depth`. -/
  count : Vector (BitVec 32) 6
  /-- The count each loop was entered with, for the overhead of short loops (41_program_flow.md R399). -/
  initial : Vector (BitVec 32) 6
  /-- The address each loop was started with as its top, none for one that PUSH LOOP made: its first instruction, for the
  restrictions on its last three (R400). -/
  top : Vector (Option (BitVec 24)) 6
  /-- How many loops are on the stacks, 0 to 6. -/
  depth : BitVec 3
  /-- Saved pairs of ASTAT and MODE1, newest first, at most five. -/
  status : List (BitVec 32 × BitVec 32)
  deriving DecidableEq, Repr

/-- One entry of the instruction cache: address bits 23:4 and the word (10_state.md R61). -/
structure CacheEntry where
  valid : Bool
  tag : BitVec 20
  word : BitVec 48
  deriving DecidableEq, Repr

/-- One of the sixteen sets of the instruction cache; `replaceNext` names the entry to replace (false: the first). -/
structure CacheSet where
  first : CacheEntry
  second : CacheEntry
  replaceNext : Bool
  deriving DecidableEq, Repr

/-- A write held in the shadow write FIFO: its width class (true for 48-bit words) and the 16-bit column cells it
writes, with their numbers (20_memory.md R256). -/
structure ShadowEntry where
  wide : Bool
  cells : List (Nat × BitVec 16)
  deriving DecidableEq, Repr

/-! ### I/O processor -/

/-- The parameter registers and hidden state of a DMA channel (11_state_iop.md R145; 61_dma_extport.md R732). -/
structure DmaChannel where
  ii : BitVec 17
  im : BitVec 16
  c : BitVec 16
  /-- Chain pointer in bits 16:0, PCI in bit 17. -/
  cp : BitVec 18
  gp : BitVec 17
  /-- A sequence is in progress. -/
  run : Bool
  /-- A load of a transfer control block is requested or in progress. -/
  chainReq : Bool
  deriving DecidableEq, Repr

/-- An external port buffer and the part of its channel that only channels 8 and 9 have (11_state_iop.md R140, R145,
R150; 61_dma_extport.md R732). Internal words stand left-justified in 48 bits. -/
structure ExtPort where
  /-- The control bits of DMACx; the status fields PS and FS are views and FLSH reads 0. -/
  dmac : BitVec 16
  ei : BitVec 32
  em : BitVec 32
  ec : BitVec 32
  /-- The six-deep FIFO, oldest word first. -/
  fifo : List (BitVec 48)
  /-- The packing register: external words received, or still to be sent. -/
  pack : List (BitVec 32)
  /-- The packing stage DMACx.PS. -/
  ps : BitVec 2
  /-- Requests counted on DMARx, each with the word the device drives, at most six. -/
  requests : List (BitVec 32)
  extDone : Bool
  intDone : Bool
  /-- The bits of DMACx that writes have changed in this step, in the one before it and in the one before that, with bit 13
  for a flush: either value of them may still be in effect (61_dma_extport.md R733). -/
  dmacNew : BitVec 16
  dmacPrev : BitVec 16
  dmacOld : BitVec 16
  deriving DecidableEq, Repr

/-- A word of a serial port buffer, and after how many more steps it is companded in place: 0 for a word that stays as
it is (62_serial_ports.md R850). -/
structure SportWord where
  word : BitVec 32
  due : BitVec 2
  deriving DecidableEq, Repr

/-- A serial transmit channel: buffer, last word sent, second half of a packed word still to be sent
(62_serial_ports.md R843). -/
structure SportTx where
  queue : List SportWord
  last : BitVec 32
  half : Option (BitVec 16)
  /-- The serial word last driven on the DT pin, right-justified. -/
  sent : BitVec 32
  /-- The buffer has been written since reset (DITFS = 1, 62_serial_ports.md R836). -/
  loaded : Bool
  deriving DecidableEq, Repr

/-- A serial receive channel: buffer and the first half of a packed word (62_serial_ports.md R844). -/
structure SportRx where
  queue : List SportWord
  half : Option (BitVec 16)
  deriving DecidableEq, Repr

/-- A serial port (62_serial_ports.md R832). The buffer status fields of STCTL and SRCTL are views of the queues; the
sticky bits TUVF and ROVF are kept apart. -/
structure Sport where
  stctl : BitVec 32
  srctl : BitVec 32
  tdiv : BitVec 32
  rdiv : BitVec 32
  mtcs : BitVec 32
  mrcs : BitVec 32
  mtccs : BitVec 32
  mrccs : BitVec 32
  keywd : BitVec 32
  imask : BitVec 32
  txA : SportTx
  txB : SportTx
  rxA : SportRx
  rxB : SportRx
  tuvfA : Bool
  tuvfB : Bool
  rovfA : Bool
  rovfB : Bool
  /-- The channel slot now selected, CHNL. -/
  chnl : BitVec 5
  /-- A transmit frame sync has happened since the transmitter was enabled: without TFSR the next words need none
  (62_serial_ports.md R836, R852). -/
  framed : Bool
  deriving DecidableEq, Repr

/-- A timer (11_state_iop.md R165; 60_exceptions.md R694 to R696). -/
structure Timer where
  period : BitVec 32
  width : BitVec 32
  count : BitVec 32
  /-- The level this timer drives on PWM_EVENT. -/
  pwm : Bool
  /-- TIMEN as the timer saw it last. -/
  enabled : Bool
  /-- WIDTH_CNT: a leading edge has been seen since enabling. -/
  counting : Bool
  /-- The last sampled level of PWM_EVENT. -/
  pin : Bool
  deriving DecidableEq, Repr

/-- The system part of the IOP registers (11_state_iop.md R122) and the bus state (61_dma_extport.md R732). -/
structure IopSys where
  syscon : BitVec 32
  virpt : BitVec 32
  wait : BitVec 32
  bmax : BitVec 32
  bcnt : BitVec 32
  sdrdiv : BitVec 32
  ioctl : BitVec 32
  iostat : BitVec 32
  dmastat : BitVec 32
  msgr : Vector (BitVec 32) 8
  /-- SYSTAT.VIPD. -/
  vipd : Bool
  /-- SYSTAT.HSTM. -/
  hstm : Bool
  /-- SYSTAT.BSYN. -/
  bsyn : Bool
  /-- SYSTAT.CRBM. -/
  crbm : BitVec 2
  deriving DecidableEq, Repr

/-- What the core of a waiting step waits for. -/
inductive Wait where
  | none
  /-- A buffer of the I/O processor (61_dma_extport.md R760, 62_serial_ports.md R845). -/
  | buffer
  /-- The external bus: this processor is not its master, or SBTS is asserted (61_dma_extport.md R753; 20_memory.md
  R270). -/
  | bus
  /-- ACK: the access is in progress (20_memory.md R267, R269); whether it is one of the other processor's space. -/
  | ack (remote : Bool)
  /-- SBTS has aborted an access that was in progress; it starts anew when SBTS is deasserted (20_memory.md R270). -/
  | cut (remote : Bool)
  /-- The bus, which it gives up because BCNT has reached 0 (61_dma_extport.md R754). -/
  | count
  deriving DecidableEq, Repr

/-- How far a host is in the change of HBW (61_dma_extport.md R773). -/
inductive HbwStage where
  | idle
  /-- SYSCON was written with a new HBW; next it is read back. -/
  | readBack
  /-- SYSCON was read back; next it is written again. -/
  | writeAgain
  /-- SYSCON was written again; no host access for so many steps. -/
  | hold (steps : BitVec 3)
  deriving DecidableEq, Repr

/-- Hidden state of the I/O processor that belongs to no single channel (61_dma_extport.md R732). -/
structure IopHidden where
  /-- The slave write FIFO: whether a host made the write, register, and left-justified in 48 bits the word: for EPBx the
  internal word that a host has completed, or an external word of the other processor; oldest first, at most four. -/
  swf : List (Bool × BitVec 8 × BitVec 48)
  /-- The host packing register: the parts of a packed access so far (write) or still to be driven (read); in the 32 to 48
  packing the part of an internal word that an external word has in excess. -/
  hostParts : List (BitVec 32)
  /-- The register and direction (true: write) of that access. -/
  hostReg : BitVec 8
  hostWrite : Bool
  /-- How many parts of the packed access have passed; SYSTAT.HPS is 1 when not 0, and the stage of a pack into EPBx is
  DMACx.PS (61_dma_extport.md R774, R775). -/
  hostCount : Nat
  /-- Channel 9 has the higher priority of the external port channels (`dcpr_hi` = 9). -/
  nineFirst : Bool
  /-- The channel whose transfer control block is being loaded and how many words are loaded. -/
  tcb : Option (Fin 10 × Nat)
  /-- The chain pointer the load started from. -/
  tcbBase : BitVec 17
  /-- The SDRAM controller has been powered up. -/
  sdramUp : Bool
  /-- IOCTL and SDRDIV as the SDRAM controller has them (kept across a software reset, 92_eei_decisions.md D52). -/
  sdramCfg : BitVec 32
  sdramDiv : BitVec 32
  /-- EPROM boot DMA reads the boot EPROM. -/
  bootRom : Bool
  /-- The boot-completion interrupt has not been taken yet (92_eei_decisions.md D57). -/
  booting : Bool
  /-- Something of this processor waited for the external bus in this step. -/
  busWait : Bool
  /-- A DMA word is on the external bus and is held off by ACK or, since, by SBTS (61_dma_extport.md R771, R777). -/
  dmaHeld : Bool
  /-- The other processor requests the bus; and its core, not only its DMA, does. -/
  otherReq : Bool
  otherCoreReq : Bool
  /-- This processor made an external access in this step. -/
  extUsed : Bool
  /-- What the core waited for when it last had its part of a step. -/
  coreWait : Wait
  /-- The one external word after BCNT reached 0 has been moved (61_dma_extport.md R754). -/
  lastUsed : Bool
  /-- How many external words the instruction that waits has moved before the bus was given up (R754; assumption
  log 48). -/
  paid : Nat
  /-- A host has moved a word in this step (61_dma_extport.md R774). -/
  hostWord : Bool
  /-- The flushes of the host packing to come: bit k is one at the end of the step k steps from now
  (61_dma_extport.md R774). -/
  hostFlush : BitVec 3
  /-- The core has written HPFLSH in this step (R774). -/
  coreFlush : Bool
  /-- The vector interrupt was in service when the step began (60_exceptions.md R690). -/
  vectorService : Bool
  /-- How far a host is in the change of HBW. -/
  hbw : HbwStage
  deriving DecidableEq, Repr

/-- The I/O processor. Channels 0 to 9 as in 61_dma_extport.md R731; buffers EPB0 and EPB1. -/
structure Iop where
  sys : IopSys
  hid : IopHidden
  dma : Vector DmaChannel 10
  ep0 : ExtPort
  ep1 : ExtPort
  sport0 : Sport
  sport1 : Sport
  timer0 : Timer
  timer1 : Timer
  deriving DecidableEq, Repr

/-! ### Surroundings -/

/-- The strapping of BSEL and BMS (70_reset_and_hazards.md R902). -/
inductive BootMode where
  | noboot | host | eprom
  deriving DecidableEq, Repr

/-- What the outside world does (61_dma_extport.md R730, 62_serial_ports.md R830, 60_exceptions.md R660, R706). An event
that cannot happen yet waits, and what the same agent does after it waits with it. -/
inductive ExtEvent where
  /-- New levels of IRQ2-0 (bit n is IRQn, 0 is active), FLAG11-0 and PWM_EVENT1-0. -/
  | pins (irq : BitVec 3) (flags : BitVec 12) (pwm : BitVec 2)
  /-- The RESET pin. -/
  | reset
  /-- The other processor writes an IOP register of this one. -/
  | procWrite (reg : BitVec 8) (data : BitVec 32)
  /-- The other processor reads an IOP register of this one. -/
  | procRead (reg : BitVec 8)
  /-- One external bus word of a host write. -/
  | hostWrite (reg : BitVec 8) (data : BitVec 32)
  /-- One external bus word of a host read. -/
  | hostRead (reg : BitVec 8)
  /-- HBR: the host takes (true) or gives back the bus. -/
  | hostBus (on : Bool)
  /-- SBTS asserted or deasserted. -/
  | sbts (on : Bool)
  /-- The other processor asserts its bus request; `core` when its core needs the bus (CPA). -/
  | busRequest (core : Bool)
  /-- The other processor deasserts its bus request without having had the bus. -/
  | busWithdraw
  /-- The other processor, bus master, gives up the bus. -/
  | busRelease
  /-- The arbitration logic synchronises and finds this bus master (61_dma_extport.md R752). -/
  | busSync (master : BitVec 2)
  /-- A falling edge on the DMARx of external port buffer `x`, with the word the device will drive. -/
  | dmaRequest (x : Bool) (data : BitVec 32)
  /-- A serial word arrives on receive channel A (false) or B of a port. -/
  | rxWord (port channel : Bool) (data : BitVec 32)
  /-- A transmit frame sync of a port. -/
  | txFrame (port : Bool)
  /-- Multichannel mode: RFS, which restarts the slots, and the passing of one slot with the data on DR. -/
  | frameStart (port : Bool)
  | slot (port : Bool) (data : BitVec 32)
  /-- Another bus master writes a word of external memory; only while this processor is not master. -/
  | extStore (addr : BitVec 32) (data : BitVec 32)
  /-- A device changes a word of the external memory space without the bus. -/
  | deviceWord (addr : BitVec 32) (data : BitVec 32)
  /-- The level of ACK for the accesses to come. -/
  | ack (on : Bool)
  /-- The other processor powers up the shared SDRAM (61_dma_extport.md R815). -/
  | sdramOn
  deriving DecidableEq, Repr

/-- The share of one core step that is not the core's: ticks of the timers beyond the first, for a step that may last
longer than one cycle, actions of the I/O processor, outside events (60_exceptions.md R699; 61_dma_extport.md R730). -/
structure Input where
  extraTicks : Nat
  actions : Nat
  events : List ExtEvent
  /-- The actions and events come before the core's part of the step, not after it: the order of two accesses in one step
  is open (92_eei_decisions.md D12, D34; 61_dma_extport.md R763). -/
  early : Bool
  deriving DecidableEq, Repr

/-- Pins and the script of the surroundings. -/
structure Env where
  bootMode : BootMode
  /-- The pins ID1-0. -/
  id : BitVec 2
  /-- CPA is wired between the processors. -/
  cpaConnected : Bool
  /-- DMA_ADDR_OFFSET: internal DMA addresses are 0x8000 + index, not the index (61_dma_extport.md R736; D16). -/
  dmaOffset : Bool
  /-- A Type 16 store reaches an IOP register (42_immediate_move.md R423), or does not (11_state_iop.md R121 a): the two
  rules disagree, so it is a parameter (DESIGN CHOICE, assumption log 43). -/
  immToIop : Bool
  irq : BitVec 3
  /-- The levels the IRQ synchronisers saw last (`irq_prev`). -/
  irqPrev : BitVec 3
  flags : BitVec 12
  pwm : BitVec 2
  sbts : Bool
  /-- The level of ACK: an access that needs it completes only while it is raised (20_memory.md R267). -/
  ack : Bool
  /-- Events that could not happen yet. -/
  waiting : List ExtEvent
  /-- What happens beside each of the next steps; when it is empty, one tick, one action, no event. -/
  script : List Input
  /-- The word last driven to the outside by a read access, a DMA grant or a transfer to a device. -/
  driven : BitVec 32
  deriving DecidableEq, Repr

/-! ### Notes of one step -/

/-- A branch taken by the instruction at PC. -/
inductive Branch where
  | none | nondelayed (target : BitVec 24) | delayed (target : BitVec 24)
  deriving DecidableEq, Repr

/-- What the instruction at PC leaves for the end of its step (60_exceptions.md R720). All fields have their rest value
between steps. -/
structure Transient where
  branch : Branch
  /-- Interrupt requests of this step, by bit of IRPTL. -/
  requests : BitVec 32
  /-- The instruction waits (for a buffer or the bus) and will be tried again. -/
  stall : Bool
  /-- ASTAT was written explicitly. -/
  astatWritten : Bool
  /-- A value written to PCSTKP by this instruction. -/
  pcstkp : Option (BitVec 5)
  /-- IMASKP was written by this instruction. -/
  imaskpWritten : Bool
  /-- CURLCNTR before this instruction loaded it from memory. -/
  curlcntr : Option (BitVec 32)
  /-- This instruction wrote CURLCNTR. -/
  countWritten : Bool
  /-- The instruction was conditional on NOT LCE. -/
  notLce : Bool
  /-- This instruction is a DO UNTIL; with its end address and type bits. -/
  loopStarted : Option (BitVec 24 × BitVec 2)
  /-- SYSCON has been written in this step: what is in effect in it, and what the register held before. -/
  syscon : Option (BitVec 32 × BitVec 32)
  /-- A reset was asked for: SYSCON.SRST was written 1, or the RESET pin was asserted; and it was the pin. -/
  reset : Bool
  hardReset : Bool
  deriving DecidableEq, Repr

/-- The machine. -/
structure State where
  data : DataRegs
  dag : DagRegs
  sys : SysRegs
  lat : Latency
  pipe : Pipeline
  stk : Stacks
  cache : Vector CacheSet 16
  /-- The memory arrays: internal columns, external words and boot EPROM as bytes (Ops). -/
  mem : List Host.Cell
  /-- The shadow write FIFO, oldest first, at most two. -/
  shadow : List ShadowEntry
  iop : Iop
  env : Env
  tr : Transient
  /-- The model's own counter of free values: the step reads it and advances it. -/
  free : Nat
  deriving DecidableEq, Repr

/-! ### Reset -/

namespace State

/-- No notes. -/
def restTransient : Transient where
  branch := .none
  requests := 0
  stall := false
  astatWritten := false
  pcstkp := Option.none
  imaskpWritten := false
  curlcntr := Option.none
  countWritten := false
  notLce := false
  loopStarted := Option.none
  syscon := Option.none
  reset := false
  hardReset := false

/-- An address generator set with every register 0 (assumption log 3: no reset value is stated). -/
def resetDag (w : Nat) : DagSet w where
  i := Vector.replicate 8 0
  m := Vector.replicate 8 0
  l := Vector.replicate 8 0
  b := Vector.replicate 8 0

/-- A DMA channel after reset: idle. The modifier of channels 0 to 7 is fixed at 1 (11_state_iop.md R145). -/
def resetDma (im : BitVec 16) : DmaChannel where
  ii := 0
  im := im
  c := 0
  cp := 0
  gp := 0
  run := false
  chainReq := false

/-- An external port buffer after reset: empty (11_state_iop.md R175). -/
def resetExtPort : ExtPort where
  dmac := 0
  ei := 0
  em := 0
  ec := 0
  fifo := []
  pack := []
  ps := 0
  requests := []
  extDone := false
  intDone := false
  dmacNew := 0
  dmacPrev := 0
  dmacOld := 0

/-- A transmit channel after reset. -/
def resetTx : SportTx where
  queue := []
  last := 0
  half := Option.none
  sent := 0
  loaded := false

/-- A receive channel after reset. -/
def resetRx : SportRx where
  queue := []
  half := Option.none

/-- A serial port after reset: disabled, buffers empty (62_serial_ports.md R851). -/
def resetSport : Sport where
  stctl := 0
  srctl := 0
  tdiv := 0
  rdiv := 0
  mtcs := 0
  mrcs := 0
  mtccs := 0
  mrccs := 0
  keywd := 0
  imask := 0
  txA := resetTx
  txB := resetTx
  rxA := resetRx
  rxB := resetRx
  tuvfA := false
  tuvfB := false
  rovfA := false
  rovfB := false
  chnl := 0
  framed := false

/-- A timer after reset: disabled (60_exceptions.md R694). -/
def resetTimer : Timer where
  period := 0
  width := 0
  count := 0
  pwm := false
  enabled := false
  counting := false
  pin := false

/-- The reset value of VIRPT: slot 5 of the vector table (11_state_iop.md R134). -/
def resetVirpt : BootMode → BitVec 32
  | .noboot => 0x00020014
  | _ => 0x00008014

/-- The system IOP registers after reset (11_state_iop.md R175). A single processor is bus master from reset on; a
processor with an ID is not synchronised (61_dma_extport.md R752; 92_eei_decisions.md D51). -/
def resetIopSys (mode : BootMode) (id : BitVec 2) : IopSys where
  syscon := 0x00000020
  virpt := resetVirpt mode
  wait := 0x21AD6B5A
  bmax := 0
  bcnt := 0
  sdrdiv := 0
  ioctl := 0
  iostat := 0
  dmastat := 0
  msgr := Vector.replicate 8 0
  vipd := false
  hstm := false
  bsyn := decide (id = 0)
  crbm := 1

/-- The hidden state of the I/O processor after reset (61_dma_extport.md R732). -/
def resetHidden (mode : BootMode) : IopHidden where
  swf := []
  hostParts := []
  hostReg := 0
  hostWrite := false
  hostCount := 0
  nineFirst := false
  tcb := Option.none
  tcbBase := 0
  sdramUp := false
  sdramCfg := 0
  sdramDiv := 0
  bootRom := decide (mode = .eprom)
  booting := decide (mode ≠ .noboot)
  busWait := false
  dmaHeld := false
  otherReq := false
  otherCoreReq := false
  extUsed := false
  coreWait := .none
  lastUsed := false
  paid := 0
  hostWord := false
  hostFlush := 0
  coreFlush := false
  vectorService := false
  hbw := .idle

/-- DMA channel 8 after reset: what the boot hardware sets up in the boot modes (11_state_iop.md R148). -/
def resetDma8 (mode : BootMode) : DmaChannel :=
  match mode with
  | .noboot => resetDma 0
  | _ => { resetDma 1 with ii := 0x08000, c := 0x0100, run := true }

/-- External port buffer 0 after reset, set up for booting in the boot modes (11_state_iop.md R148). -/
def resetExtPort0 (mode : BootMode) : ExtPort :=
  match mode with
  | .noboot => resetExtPort
  | .host => { resetExtPort with dmac := 0x00A1 }
  | .eprom => { resetExtPort with dmac := 0x02A1, ei := 0x80000000, em := 1, ec := 0x00000600 }

/-- The I/O processor after reset. -/
def resetIop (mode : BootMode) (id : BitVec 2) : Iop where
  sys := resetIopSys mode id
  hid := resetHidden mode
  dma := ((Vector.replicate 10 (resetDma 1)).set 8 (resetDma8 mode)).set 9 (resetDma 0)
  ep0 := resetExtPort0 mode
  ep1 := resetExtPort
  sport0 := resetSport
  sport1 := resetSport
  timer0 := resetTimer
  timer1 := resetTimer

/-- The address of the first instruction (70_reset_and_hazards.md R903 to R906). -/
def resetPc : BootMode → BitVec 24
  | .noboot => 0x020004
  | _ => 0x008004

/-- The pipeline after reset. Without booting the first instruction is still to be fetched: FADDR = 0x020004, and the two
stages before it hold NOPs (70_reset_and_hazards.md R903; assumption log 47). While a boot loads the program the core is
idle, at the reset address. -/
def resetPipe (mode : BootMode) : Pipeline where
  pc := resetPc mode
  daddr := match mode with | .noboot => resetPc mode | _ => resetPc mode + 1
  faddr := match mode with | .noboot => resetPc mode | _ => resetPc mode + 2
  killP := decide (mode = .noboot)
  killD := decide (mode = .noboot)
  irP := Option.none
  irD := Option.none
  lrf := false
  mode := match mode with | .noboot => .running | _ => .idle
  slots := 0
  holdoff := 0

/-- The stacks after reset: empty. -/
def resetStacks : Stacks where
  pc := Vector.replicate 30 0
  pcstkp := 0
  laddr := Vector.replicate 6 0
  count := Vector.replicate 6 0
  initial := Vector.replicate 6 0
  top := Vector.replicate 6 Option.none
  depth := 0
  status := []

/-- An invalid cache set. -/
def resetCacheSet : CacheSet where
  first := ⟨false, 0, 0⟩
  second := ⟨false, 0, 0⟩
  replaceNext := false

/-- The system registers after reset (10_state.md R70); IMASK unmasks EP0I in the boot modes (R905). -/
def resetSys (mode : BootMode) : SysRegs where
  mode1 := 0
  mode2 := 0
  irptl := 0
  imask := match mode with | .noboot => 0x00000003 | _ => 0x00010003
  imaskp := 0
  astat := 0
  stky := 0
  ustat1 := 0
  ustat2 := 0

/-- Nothing is waiting to take effect. -/
def resetLatency : Latency where
  mode1 := 0
  mode2 := 0
  astat := 0
  imaskp := 0
  pcstkp := Option.none
  curlcntr := Option.none
  syscon := Option.none
  afterNotLce := false
  dag1Loaded := false
  dag2Loaded := false
  master := Option.none

/-- The data registers after reset: 0 (assumption log 3: no reset value is stated). -/
def resetData : DataRegs where
  primary := Vector.replicate 16 0
  alternate := Vector.replicate 16 0
  acc0 := 0
  acc1 := 0
  px := 0

/-- Quiet surroundings: IRQ pins high, flag and PWM pins low, ACK raised, nothing scripted (assumption log 4). A Type 16
store reaches an IOP register, by the instruction's own rule (42_immediate_move.md R423; DESIGN CHOICE, assumption log 43). -/
def resetEnv (mode : BootMode) (id : BitVec 2) : Env where
  bootMode := mode
  id := id
  cpaConnected := false
  dmaOffset := false
  immToIop := true
  irq := 7
  irqPrev := 7
  flags := 0
  pwm := 0
  sbts := false
  ack := true
  waiting := []
  script := []
  driven := 0

/-- The machine after a hardware reset with the given strapping, memory not initialised. -/
def resetWith (mode : BootMode) (id : BitVec 2) : State where
  data := resetData
  dag := ⟨resetDag 32, resetDag 32, resetDag 24, resetDag 24⟩
  sys := resetSys mode
  lat := resetLatency
  pipe := resetPipe mode
  stk := resetStacks
  cache := Vector.replicate 16 resetCacheSet
  mem := []
  shadow := []
  iop := resetIop mode id
  env := resetEnv mode id
  tr := restTransient
  free := 0

/-- The machine right after reset: a single processor in no-boot mode (assumption log 5). -/
def reset : State := resetWith .noboot 0

end State

end Sys2Proof.Machine
end

