-- ==== Sys2Proof/Machine/Act.lean ====
section
/-! DEFINITION. Operations that may not complete, and the free values a step can read. -/

namespace Sys2Proof.Machine

/-- Why an operation does not complete: the core waits for something, or the step stops. -/
inductive Stop where
  | stall (w : Wait)
  | fault (r : Fault)
  | refuse (r : Refusal)
  deriving DecidableEq, Repr

/-- The result of an operation that may not complete. -/
abbrev Act (α : Type) := Except Stop α

/-- Stop with a refusal. -/
def refuse {α : Type} (r : Refusal) : Act α := .error (.refuse r)

/-- What is waited for is the external bus: the processor requests it. -/
def Wait.ofBus : Wait → Bool
  | .bus | .ack _ | .cut _ | .count => true
  | .none | .buffer => false

/-- What waits is an access that has begun: ACK holds it off, or SBTS has aborted it (20_memory.md R267, R270). -/
def Wait.begun : Wait → Bool
  | .ack _ | .cut _ => true
  | .none | .buffer | .bus | .count => false

/-- What waits is such an access of the other processor's space. -/
def Wait.transfer : Wait → Bool
  | .ack r | .cut r => r
  | .none | .buffer | .bus | .count => false

/-- The state of a core that waits: nothing of the instruction has happened; it is tried again in the next step
(61_dma_extport.md R753, R760). -/
def stalled (s : State) (w : Wait) : State :=
  { s with tr.stall := true, iop.hid.coreWait := w, iop.hid.busWait := s.iop.hid.busWait || w.ofBus }

/-- The outcome of an instruction at state `s`. -/
def finish (s : State) : Act State → Host.Outcome State Fault Refusal
  | .ok t => .next t
  | .error (.stall w) => .next (stalled s w)
  | .error (.fault r) => .fault r
  | .error (.refuse r) => .refused r

/-- The free value of a step for one of its sites; sites of one step are different draws (93_implementation_defined.md,
treatment 'any value'). -/
def freeAt (s : State) (site : Nat) : BitVec 80 := Config.freeWord (32 * s.free + site)

/-- The free choice of a step for one of its sites (treatment 'draw'). -/
def choiceAt (s : State) (site : Nat) : Bool := Config.freeChoice (32 * s.free + site)

end Sys2Proof.Machine
end

