-- ==== Sys2Proof/Machine/Mem.lean ====
section
/-! DEFINITION. Memory: the byte list, the columns of internal memory with the shadow write FIFO, external words, and
what a data address means (20_memory.md). -/

namespace Sys2Proof.Machine

/-! ### The list of bytes -/

/-- The byte at a key; an unlisted byte is 0 (assumption log 6). -/
def readByte : List Host.Cell → Nat → BitVec 8
  | [], _ => 0
  | (a, v) :: m, k => if k = a then v else readByte m k

/-- Write a byte and keep the canonical form. -/
def writeByte : List Host.Cell → Nat → BitVec 8 → List Host.Cell
  | [], k, v => if v = 0 then [] else [(k, v)]
  | (a, w) :: m, k, v =>
    if k < a then (if v = 0 then (a, w) :: m else (k, v) :: (a, w) :: m)
    else if k = a then (if v = 0 then m else (k, v) :: m)
    else (a, w) :: writeByte m k v

/-- Keys of a list are all above `k`. -/
def keysAbove (k : Nat) : List Host.Cell → Bool
  | [] => true
  | (a, _) :: m => decide (k < a) && keysAbove k m

/-- The canonical form: keys strictly rising, no entry equal to what an unlisted byte reads as. -/
def Memory.wf : List Host.Cell → Bool
  | [] => true
  | (a, v) :: m => decide (v ≠ 0) && keysAbove a m && Memory.wf m

/-! ### Column cells of internal memory (20_memory.md R210) -/

/-- The number of the 16-bit cell in a row of a column; block 0 (false) has columns 0 to 8, block 1 columns 0 to 7. -/
def cellNumber (block : Bool) (col row : Nat) : Nat := ((if block then 9 else 0) + col) * 2048 + row

/-- A cell of the array. The low byte has the even key (assumption log 7). -/
def readCell (m : List Host.Cell) (c : Nat) : BitVec 16 := readByte m (2 * c + 1) ++ readByte m (2 * c)

/-- Write a cell of the array. -/
def writeCell (m : List Host.Cell) (c : Nat) (v : BitVec 16) : List Host.Cell :=
  writeByte (writeByte m (2 * c) (v.extractLsb' 0 8)) (2 * c + 1) (v.extractLsb' 8 8)

/-- Write several cells. -/
def writeCells (m : List Host.Cell) : List (Nat × BitVec 16) → List Host.Cell
  | [] => m
  | (c, v) :: cs => writeCells (writeCell m c v) cs

/-- The value a list of cells gives a cell: the last one listed. -/
def cellLookup (c : Nat) : List (Nat × BitVec 16) → Option (BitVec 16)
  | [] => none
  | (d, v) :: cs =>
    match cellLookup c cs with
    | some w => some w
    | none => if c = d then some v else none

/-- The newest queued write of a width class to a cell (20_memory.md R256). -/
def shadowFind (wide : Bool) (c : Nat) : List ShadowEntry → Option (BitVec 16)
  | [] => none
  | e :: es =>
    match shadowFind wide c es with
    | some v => some v
    | none => if e.wide = wide then cellLookup c e.cells else none

/-- Read a cell with one width class: a queued write of the same class, else the array (R256). -/
def State.cell (s : State) (wide : Bool) (c : Nat) : BitVec 16 :=
  match shadowFind wide c s.shadow with
  | some v => v
  | none => readCell s.mem c

/-- Queue an internal write; the oldest of more than two goes to the array (R256). -/
def State.queueWrite (s : State) (wide : Bool) (cells : List (Nat × BitVec 16)) : State :=
  match s.shadow with
  | [] => { s with shadow := [⟨wide, cells⟩] }
  | [e] => { s with shadow := [e, ⟨wide, cells⟩] }
  | e :: es => { s with mem := writeCells s.mem e.cells, shadow := es ++ [⟨wide, cells⟩] }

/-- What a cell holds once the queued writes have reached the array: the newest write of either class. -/
def settledFind (c : Nat) : List ShadowEntry → Option (BitVec 16)
  | [] => none
  | e :: es =>
    match settledFind c es with
    | some v => some v
    | none => cellLookup c e.cells

/-- The contents of a cell with every queued write done. -/
def State.settledCell (s : State) (c : Nat) : BitVec 16 :=
  match settledFind c s.shadow with
  | some v => v
  | none => readCell s.mem c

/-- The keys from which on bytes belong to external memory, and to the boot EPROM. -/
def extBase : Nat := 0x40000
def romBase : Nat := 0x20000000

/-- One byte of memory as it stands with every queued write done: the read of one byte in which frames are stated. -/
def State.byteAt (s : State) (k : Nat) : BitVec 8 :=
  if k < extBase then
    (if k % 2 = 0 then (s.settledCell (k / 2)).extractLsb' 0 8 else (s.settledCell (k / 2)).extractLsb' 8 8)
  else readByte s.mem k

/-! ### Words of internal memory -/

/-- A 48-bit word exists at an offset of a block (20_memory.md R211, R215). -/
def wideExists (block : Bool) (off : Nat) : Bool := decide (off < (if block then 0x1000 else 0x1800))

/-- The first of the three cells of a 48-bit word (R211); the others are in the next two columns. -/
def wideCell (block : Bool) (off k : Nat) : Nat := cellNumber block (3 * (off / 2048) + k) (off % 2048)

/-- The cells of a 32-bit word: upper half in the even column (R212). -/
def narrowCell (block : Bool) (off k : Nat) : Nat := cellNumber block (2 * (off / 2048) + k) (off % 2048)

/-- Read a 48-bit word (R211). -/
def State.readWide (s : State) (block : Bool) (off : Nat) : BitVec 48 :=
  s.cell true (wideCell block off 0) ++ s.cell true (wideCell block off 1) ++ s.cell true (wideCell block off 2)

/-- Read a 32-bit word (R212). -/
def State.readNarrow (s : State) (block : Bool) (off : Nat) : BitVec 32 :=
  s.cell false (narrowCell block off 0) ++ s.cell false (narrowCell block off 1)

/-- The cells and values a 48-bit write writes. -/
def wideWrites (block : Bool) (off : Nat) (w : BitVec 48) : List (Nat × BitVec 16) :=
  [(wideCell block off 0, w.extractLsb' 32 16), (wideCell block off 1, w.extractLsb' 16 16),
   (wideCell block off 2, w.extractLsb' 0 16)]

/-- The cells and values a 32-bit write writes. -/
def narrowWrites (block : Bool) (off : Nat) (w : BitVec 32) : List (Nat × BitVec 16) :=
  [(narrowCell block off 0, w.extractLsb' 16 16), (narrowCell block off 1, w.extractLsb' 0 16)]

/-! ### External memory -/

/-- Read a 32-bit external word (assumption log 7: its low byte has the lowest key). -/
def readExt (m : List Host.Cell) (a : Nat) : BitVec 32 :=
  readByte m (extBase + 4 * a + 3) ++ readByte m (extBase + 4 * a + 2)
    ++ readByte m (extBase + 4 * a + 1) ++ readByte m (extBase + 4 * a)

/-- Write a 32-bit external word. -/
def writeExt (m : List Host.Cell) (a : Nat) (v : BitVec 32) : List Host.Cell :=
  writeByte (writeByte (writeByte (writeByte m (extBase + 4 * a) (v.extractLsb' 0 8))
    (extBase + 4 * a + 1) (v.extractLsb' 8 8)) (extBase + 4 * a + 2) (v.extractLsb' 16 8))
    (extBase + 4 * a + 3) (v.extractLsb' 24 8)

/-- The external address of the low word of a 48-bit word at an address: bits 15:0 shifted left by one, bit 16 dropped
(20_memory.md R233). Bits 25:24 stay for accesses on the DM bus. -/
def packedAddr (a : Nat) : Nat := a / 0x20000 * 0x20000 + a % 0x10000 * 2

/-- A 48-bit word of external memory: bits 15:0 in the word at the even address, bits 47:16 in the next (R233). -/
def readExtWide (m : List Host.Cell) (a : Nat) : BitVec 48 :=
  readExt m (packedAddr a + 1) ++ (readExt m (packedAddr a)).extractLsb' 0 16

/-- Write a 48-bit word of external memory; the unused half of the low word is 0 (92_eei_decisions.md D36). -/
def writeExtWide (m : List Host.Cell) (a : Nat) (w : BitVec 48) : List Host.Cell :=
  writeExt (writeExt m (packedAddr a) ((w.extractLsb' 0 16).setWidth 32)) (packedAddr a + 1) (w.extractLsb' 16 32)

/-! ### What an address means -/

/-- The place of a data address (20_memory.md R202). -/
inductive Place where
  /-- An IOP register of this processor. -/
  | iop (reg : BitVec 8)
  /-- An IOP register of the other processor, or of none. -/
  | remote
  | reserved
  /-- A normal word: block and offset. -/
  | normal (block : Bool) (off : Nat)
  /-- A short word: its cell. -/
  | short (cell : Nat)
  /-- External memory. -/
  | ext (a : Nat)
  deriving DecidableEq, Repr

/-- The cell of a short-word address, by its offset from the first short word of the block (R213). -/
def shortCell (block : Bool) (off : Nat) : Nat :=
  cellNumber block (2 * (off / 4096) + (if off % 2 = 1 then 0 else 1)) (off / 2 % 2048)

/-- The memory map (R202, R203, R213). -/
def place (id : BitVec 2) (addr : BitVec 32) : Place :=
  let a := addr.toNat
  if a < 0x100 then .iop (addr.extractLsb' 0 8)
  else if a < 0x300 then if addr.extractLsb' 8 2 = id then .iop (addr.extractLsb' 0 8) else .remote
  else if a < 0x8000 then .reserved
  else if a < 0xA000 then .normal false (a - 0x8000)
  else if a < 0xC000 then .reserved
  else if a < 0xE000 then .normal true (a - 0xC000)
  else if a < 0x10000 then .reserved
  else if a < 0x14000 then .short (shortCell false (a - 0x10000))
  else if a < 0x15000 then if a % 2 = 1 then .short (cellNumber false 8 (a / 2 % 2048)) else .reserved
  else if a < 0x18000 then .reserved
  else if a < 0x1C000 then .short (shortCell true (a - 0x18000))
  else if a < 0x20000 then .reserved
  else if a < 0x4000000 then .ext a
  else .reserved

/-! ### The external bus -/

/-- This processor is bus master (61_dma_extport.md R753): it has ID 00 or the arbitration names it, and no host has the
bus. -/
def State.busMaster (s : State) : Bool :=
  (decide (s.env.id = 0) || (s.iop.sys.bsyn && decide (s.iop.sys.crbm = s.env.id))) && !s.iop.sys.hstm

/-- MODE2.BUSLK as it is in effect (10_state.md R51; 61_dma_extport.md R756). -/
def State.busLock (s : State) : Bool := s.lat.mode2.getLsbD 6

/-- The SDRAM controller is configured for a bank: SDBS selects one and SDCL is a latency (11_state_iop.md R160;
90_conflicts.md C16). The codes 001 to 011 of SDBS, which R160 names reserved, are no bank here, as only bit 27 set
selects one: R160 does not say what they do (DESIGN CHOICE, assumption log 69). -/
def sdramOn (ioctl : BitVec 32) : Bool := ioctl.getLsbD 27 && decide (ioctl.extractLsb' 16 2 ≠ 0)

/-- The bank of an external address holds SDRAM (61_dma_extport.md R810). -/
def State.inSdram (s : State) (a : Nat) : Bool :=
  sdramOn s.iop.hid.sdramCfg && decide ((s.iop.hid.sdramCfg.extractLsb' 25 2).toNat = a / 0x1000000)

/-- The SDRAM refreshes often enough: SDRDIV + CL + tRP + 4 is at most the cycles the device allows between two refreshes
(61_dma_extport.md R812). -/
def State.refreshed (s : State) : Bool :=
  decide (s.iop.hid.sdramDiv.toNat + (s.iop.hid.sdramCfg.extractLsb' 16 2).toNat
    + (s.iop.hid.sdramCfg.extractLsb' 21 3).toNat + 4 ≤ Config.refreshCycles)

/-- What is written at an external address is kept: not in SDRAM that is not powered up. -/
def State.extKeeps (s : State) (a : Nat) : Bool := !s.inSdram a || s.iop.hid.sdramUp

/-- What is read at an external address is what was written there: not in SDRAM that is not powered up, or not refreshed
often enough (61_dma_extport.md R810; U31). That the contents, and what is written meanwhile, outlast a time of wrong
refresh the spec does not say (DESIGN CHOICE, assumption log 15). -/
def State.extHolds (s : State) (a : Nat) : Bool := !s.inSdram a || (s.iop.hid.sdramUp && s.refreshed)

/-- This processor has the bus and SBTS does not hold it off (R753, R771; 20_memory.md R270). -/
def State.busReady (s : State) : Bool := s.busMaster && !s.env.sbts

/-- BCNT counts: the other processor requests the bus, and the time-out is on (61_dma_extport.md R754). -/
def State.counting (s : State) : Bool := decide (s.iop.sys.bmax ≠ 0) && s.iop.hid.otherReq

/-- The external words this master may still move before it gives up the bus: BCNT, and one after it has reached 0
(R754). -/
def State.budget (s : State) : Nat := s.iop.sys.bcnt.toNat + if s.iop.hid.lastUsed then 0 else 1

/-- A core access of so many external words waits until the bus has been given up and gained again: what the instruction
has not moved yet is more than is left of BCNT (R754, R756; assumption log 48). -/
def State.spent (s : State) (words : Nat) : Bool :=
  s.counting && !s.busLock && decide (s.iop.hid.paid + s.budget < words)

/-- An access of external memory ends: its bank does not need ACK, in modes 01 and 11, or ACK is raised (20_memory.md
R267). -/
def State.acked (s : State) (a : Nat) : Bool := s.env.ack || s.iop.sys.wait.getLsbD (5 * (a / 0x1000000))

/-- The words on the 32-bit external bus of a core access: two for 48 bits (20_memory.md R233). -/
def extWords (px : Bool) : Nat := if px then 2 else 1

/-- An access of external memory can be made now; `px` when it is 48 bits wide. -/
def State.extReady (s : State) (px : Bool) (a : Nat) : Bool := s.busReady && !s.spent (extWords px) && s.acked a

/-- An access of the other processor's space can be made now: it needs ACK (20_memory.md R269). -/
def State.remoteReady (s : State) : Bool := s.busReady && !s.spent 1 && s.env.ack

/-- What a core that has not the bus, or not without SBTS, waits for: the bus, or, where its access was in progress when
SBTS came, the end of SBTS (20_memory.md R270). -/
def State.heldWait (s : State) : Wait :=
  if s.busMaster && s.iop.hid.coreWait.begun then .cut s.iop.hid.coreWait.transfer else .bus

/-- Why an external access waits, `remote` when it is one of the other processor's space, `px` when it is 48 bits wide: for
the bus, for BCNT, or else for ACK. -/
def State.extWait (s : State) (remote px : Bool) : Wait :=
  if !s.busReady then s.heldWait
  else if s.spent (extWords px) then .count
  else .ack remote

/-- The traces of so many words on the external bus in the arbitration: BCNT counts, and the word after 0 is noted
(61_dma_extport.md R754). -/
def State.extCount (s : State) (words : Nat) : State :=
  let n := s.iop.sys.bcnt.toNat
  { s with
    iop.hid.extUsed := true
    iop.hid.lastUsed := s.iop.hid.lastUsed || (s.counting && decide (n < words))
    iop.sys.bcnt := if s.counting then BitVec.ofNat 32 (n - words) else s.iop.sys.bcnt }

/-- The traces of a core access of external memory: the words the instruction has moved before it waited do not count
again. -/
def State.extTouch (s : State) (px : Bool) : State :=
  let k := extWords px
  { s.extCount (k - s.iop.hid.paid) with iop.hid.paid := s.iop.hid.paid - k }

/-- A 32-bit external word as an access reads it; SDRAM that does not hold its contents gives any value (U31). -/
def State.extWord (s : State) (a site : Nat) : BitVec 32 :=
  if s.extHolds a then readExt s.mem a else (freeAt s site).setWidth 32

/-- A 48-bit external word as an access reads it. -/
def State.extWideWord (s : State) (a site : Nat) : BitVec 48 :=
  if s.extHolds a then readExtWide s.mem a else (freeAt s site).setWidth 48

/-- Store a 32-bit external word; SDRAM that is not powered up keeps nothing. -/
def State.storeExt (s : State) (a : Nat) (v : BitVec 32) : State :=
  if s.extKeeps a then { s with mem := writeExt s.mem a v } else s

/-- Store a 48-bit external word. -/
def State.storeExtWide (s : State) (a : Nat) (w : BitVec 48) : State :=
  if s.extKeeps a then { s with mem := writeExtWide s.mem a w } else s

/-! ### SYSCON in effect -/

/-- SYSCON as the present step sees it: what it was in the step that writes it, right after it either the register before
the write or the new value (70_reset_and_hazards.md R931; U36). -/
def State.syscon (s : State) : BitVec 32 :=
  match s.tr.syscon, s.lat.syscon with
  | some (now, _), _ => now
  | none, none => s.iop.sys.syscon
  | none, some (old, n) => if Config.freeChoice n then old else s.iop.sys.syscon

/-- The data of a block is 40 bits wide (SYSCON.IMDW0, IMDW1). -/
def State.imdw (s : State) (block : Bool) : Bool := s.syscon.getLsbD (if block then 9 else 8)

/-- The buffer hang disable bit. -/
def State.bhd (s : State) : Bool := s.syscon.getLsbD 11

end Sys2Proof.Machine
end

