-- ==== Sys2Proof/Machine/Operands.lean ====
section
/-! DEFINITION. Registers as operands: the register file, the address generator registers, and the universal registers
with the alignment of R23, the views of R38 to R45 and R54, and what writing each of them does. -/

namespace Sys2Proof.Machine

/-! ### The register file (10_state.md R25, R28) -/

/-- The alternate register file is in effect for a register number (R28). -/
def State.altData (s : State) (n : BitVec 4) : Bool := s.lat.mode1.getLsbD (if n.getLsbD 3 then 7 else 10)

/-- R[n], all 40 bits. -/
def State.rreg (s : State) (n : BitVec 4) : BitVec 40 :=
  if s.altData n then s.data.alternate.get n.toFin else s.data.primary.get n.toFin

/-- Write R[n]. -/
def State.setRreg (s : State) (n : BitVec 4) (v : BitVec 40) : State :=
  if s.altData n then { s with data.alternate := s.data.alternate.set n.toNat v n.isLt }
  else { s with data.primary := s.data.primary.set n.toNat v n.isLt }

/-- The 32-bit value in R[n]: bits 39:8 (R27). -/
def State.rfix (s : State) (n : BitVec 4) : BitVec 32 := (s.rreg n).extractLsb' 8 32

/-- Write a 32-bit value to R[n]: the low eight bits become 0 (R27). -/
def State.setRfix (s : State) (n : BitVec 4) (v : BitVec 32) : State := s.setRreg n (v ++ 0#8)

/-! ### The multiplier result registers (R30) -/

/-- The accumulator MRF (false) or MRB (true) names. -/
def State.accIndex (s : State) (b : Bool) : Bool := s.lat.mode1.getLsbD 2 != b

/-- MRF (false) or MRB. -/
def State.acc (s : State) (b : Bool) : BitVec 80 := if s.accIndex b then s.data.acc1 else s.data.acc0

/-- Write MRF (false) or MRB. -/
def State.setAcc (s : State) (b : Bool) (v : BitVec 80) : State :=
  if s.accIndex b then { s with data.acc1 := v } else { s with data.acc0 := v }

/-! ### The address generator registers (R31 to R33) -/

/-- The four register files of an address generator. -/
inductive DagFile where
  | i | m | l | b
  deriving DecidableEq, Repr

/-- A register of a set, by file. -/
def DagSet.reg {w : Nat} (d : DagSet w) (f : DagFile) (k : BitVec 3) : BitVec w :=
  match f with
  | .i => d.i.get k.toFin
  | .m => d.m.get k.toFin
  | .l => d.l.get k.toFin
  | .b => d.b.get k.toFin

/-- Replace a register of a set. -/
def DagSet.setReg {w : Nat} (d : DagSet w) (f : DagFile) (k : BitVec 3) (v : BitVec w) : DagSet w :=
  match f with
  | .i => { d with i := d.i.set k.toNat v k.isLt }
  | .m => { d with m := d.m.set k.toNat v k.isLt }
  | .l => { d with l := d.l.set k.toNat v k.isLt }
  | .b => { d with b := d.b.set k.toNat v k.isLt }

/-- The alternate set is in effect for a register of DAG1 (false) or DAG2 (R33). -/
def State.altDag (s : State) (g : Bool) (k : BitVec 3) : Bool :=
  s.lat.mode1.getLsbD (match g, k.getLsbD 2 with
    | false, true => 3
    | false, false => 4
    | true, true => 5
    | true, false => 6)

/-- A register of DAG1 (false) or DAG2; the 24 bits of DAG2 are zero-extended. -/
def State.dagReg (s : State) (f : DagFile) (g : Bool) (k : BitVec 3) : BitVec 32 :=
  match g, s.altDag g k with
  | false, false => s.dag.dag1.reg f k
  | false, true => s.dag.dag1Alt.reg f k
  | true, false => (s.dag.dag2.reg f k).setWidth 32
  | true, true => (s.dag.dag2Alt.reg f k).setWidth 32

/-- Write a register of DAG1 (false) or, with its low 24 bits, of DAG2. -/
def State.setDagReg (s : State) (f : DagFile) (g : Bool) (k : BitVec 3) (v : BitVec 32) : State :=
  match g, s.altDag g k with
  | false, false => { s with dag.dag1 := s.dag.dag1.setReg f k v }
  | false, true => { s with dag.dag1Alt := s.dag.dag1Alt.setReg f k v }
  | true, false => { s with dag.dag2 := s.dag.dag2.setReg f k (v.setWidth 24) }
  | true, true => { s with dag.dag2Alt := s.dag.dag2Alt.setReg f k (v.setWidth 24) }

/-! ### The stacks as registers (R38 to R42) -/

/-- Loops are on the stacks. -/
def State.looping (s : State) : Bool := decide (s.stk.depth ≠ 0)

/-- Entry `k` of a stack of six words, 0 beyond it. -/
def sixth (v : Vector (BitVec 32) 6) (k : Nat) : BitVec 32 := v.toList.getD k 0

/-- Replace entry `k` of a stack of six words; nothing beyond it. -/
def setSixth (v : Vector (BitVec 32) 6) (k : Nat) (x : BitVec 32) : Vector (BitVec 32) 6 := v.setIfInBounds k x

/-- The top entry of the loop address stack, of which bit 29 reads 0; all ones when it is empty (R40). -/
def State.laddr (s : State) : BitVec 32 :=
  if s.looping then sixth s.stk.laddr (s.stk.depth.toNat - 1) &&& 0xDFFFFFFF else 0xFFFFFFFF

/-- The top entry of the loop counter stack; all ones when it is empty (R41). -/
def State.curlcntr (s : State) : BitVec 32 :=
  if s.looping then sixth s.stk.count (s.stk.depth.toNat - 1) else 0xFFFFFFFF

/-- The end address, and the type bits, of the current loop (R40). -/
def State.loopEnd (s : State) : BitVec 24 := s.laddr.extractLsb' 0 24
def State.loopType (s : State) : BitVec 2 := s.laddr.extractLsb' 30 2

/-- The current loop is a counter loop of one or two instructions (R399). -/
def State.shortLoop (s : State) : Bool := s.looping && (decide (s.loopType = 1) || decide (s.loopType = 2))

/-- The instruction at PC stands in the body of such a loop. -/
def State.inShortLoop (s : State) : Bool :=
  s.shortLoop && (decide (s.pipe.pc = s.loopEnd) || (decide (s.loopType = 2) && decide (s.pipe.pc = s.loopEnd - 1)))

/-- The address the current loop was started with as its top, none for one that PUSH LOOP made (R394, R395, R400). -/
def State.loopTop (s : State) : Option (BitVec 24) := s.stk.top.toList.getD (s.stk.depth.toNat - 1) none

/-- The top entry of the PC stack: entry PCSTKP - 1; the pointer 31 of an overflowed stack names the last entry. -/
def State.pcTop (s : State) : BitVec 24 := s.stk.pc.toList.getD (min s.stk.pcstkp.toNat 30 - 1) 0

/-- The PC stack is empty. -/
def State.pcEmpty (s : State) : Bool := decide (s.stk.pcstkp = 0)

/-! ### The system registers as registers -/

/-- STKY as it is read: the stack flags are those of the stacks (R39, R43, R45, R54). -/
def State.stkyView (s : State) : BitVec 32 :=
  (s.sys.stky &&& ~~~0x05600000#32)
    ||| (if 29 ≤ s.stk.pcstkp.toNat then 0x00200000 else 0)
    ||| (if s.stk.pcstkp = 0 then 0x00400000 else 0)
    ||| (if s.stk.status.isEmpty then 0x01000000 else 0)
    ||| (if s.stk.depth = 0 then 0x04000000 else 0)

/-- The value of a system register as it is read (R54, R55, R56, R662). -/
def State.sregRead (s : State) : Sreg → BitVec 32
  | .ustat1 => s.sys.ustat1
  | .ustat2 => s.sys.ustat2
  | .irptl => s.sys.irptl
  | .mode2 => s.sys.mode2
  | .mode1 => s.sys.mode1
  | .astat => s.sys.astat
  | .imask => s.sys.imask ||| 3
  | .stky => if s.inShortLoop then (s.stkyView &&& ~~~0x07E00000#32) ||| ((freeAt s 0).setWidth 32 &&& 0x07E00000)
      else s.stkyView
  | .imaskp => s.lat.imaskp

/-- The bits of ASTAT that follow input pins and ignore writes (R53). -/
def State.inputFlags (s : State) : BitVec 32 :=
  0x00780000 &&& ~~~((s.lat.mode2.extractLsb' 15 4).setWidth 32 <<< 19)

/-- Write a system register (R52 to R57): the flag bits of input pins and the stack flags keep their value, bits 0 and 1
of IMASK stay 1; setting bit 1 of IRPTL is a fault (U13). -/
def State.sregWrite (s : State) (r : Sreg) (v : BitVec 32) : Act State :=
  match r with
  | .ustat1 => .ok { s with sys.ustat1 := v }
  | .ustat2 => .ok { s with sys.ustat2 := v }
  | .irptl => if v.getLsbD 1 then .error (.fault .irptlResetBit) else .ok { s with sys.irptl := v }
  | .mode2 => .ok { s with sys.mode2 := v }
  | .mode1 => .ok { s with sys.mode1 := v }
  | .astat =>
    .ok { s with
      sys.astat := (v &&& ~~~s.inputFlags) ||| (s.sys.astat &&& s.inputFlags)
      tr.astatWritten := true }
  | .imask => .ok { s with sys.imask := v ||| 3 }
  | .stky => .ok { s with sys.stky := (v &&& ~~~0x07E00000#32) ||| (s.sys.stky &&& 0x07E00000) }
  | .imaskp => .ok { s with sys.imaskp := v, tr.imaskpWritten := true }

/-! ### Universal registers (R21 to R23) -/

/-- A 32-bit register on the 40-bit bus: bits 39:8. -/
def bus32 (v : BitVec 32) : BitVec 40 := v ++ 0#8

/-- A 24-bit register, zero-extended. -/
def bus24 (v : BitVec 24) : BitVec 40 := bus32 (v.setWidth 32)

/-- The address generator of a register number 0 to 15, and the number within it. -/
def dagOf (n : BitVec 4) : Bool := n.getLsbD 3
def dagNum (n : BitVec 4) : BitVec 3 := n.extractLsb' 0 3

/-- A value that is unsettled, as one inside a short loop is (U17): any value of the bits the register has. -/
def State.unsettled (s : State) (here : Bool) (bits : BitVec 32) (v : BitVec 40) : BitVec 40 :=
  if here then bus32 ((freeAt s 0).setWidth 32 &&& bits) else v

/-- `UregRead(u)`: the 40-bit bus image (R23). A read of PCSTK with the stack empty is refused (U11); LCNTR with the
loop stacks full gives any value (U12). -/
def State.uregRead (s : State) : Ureg → Act (BitVec 40)
  | .r n => .ok (s.rreg n)
  | .i n => .ok (bus32 (s.dagReg .i (dagOf n) (dagNum n)))
  | .m n =>
    let v := s.dagReg .m (dagOf n) (dagNum n)
    .ok (bus32 (if dagOf n then (v.setWidth 24).signExtend 32 else v))
  | .l n => .ok (bus32 (s.dagReg .l (dagOf n) (dagNum n)))
  | .b n => .ok (bus32 (s.dagReg .b (dagOf n) (dagNum n)))
  | .faddr => .ok (bus24 s.pipe.faddr)
  | .daddr => .ok (bus24 s.pipe.daddr)
  | .pc => .ok (bus24 s.pipe.pc)
  | .pcstk => if s.pcEmpty then refuse .emptyPcStack else .ok (s.unsettled s.inShortLoop 0x00FFFFFF (bus24 s.pcTop))
  | .pcstkp => .ok (s.unsettled s.inShortLoop 0x1F (bus32 (s.stk.pcstkp.setWidth 32)))
  | .laddr => .ok (s.unsettled s.inShortLoop 0xDFFFFFFF (bus32 s.laddr))
  | .curlcntr => .ok (s.unsettled s.inShortLoop 0xFFFFFFFF (bus32 s.curlcntr))
  | .lcntr =>
    .ok (s.unsettled (s.inShortLoop || decide (s.stk.depth = 6)) 0xFFFFFFFF (bus32 (sixth s.stk.count s.stk.depth.toNat)))
  | .ustat1 => .ok (bus32 (s.sregRead .ustat1))
  | .ustat2 => .ok (bus32 (s.sregRead .ustat2))
  | .irptl => .ok (bus32 (s.sregRead .irptl))
  | .mode2 => .ok (bus32 (s.sregRead .mode2))
  | .mode1 => .ok (bus32 (s.sregRead .mode1))
  | .astat => .ok (bus32 (s.sregRead .astat))
  | .imask => .ok (bus32 (s.sregRead .imask))
  | .stky => .ok (bus32 (s.sregRead .stky))
  | .imaskp => .ok (bus32 (s.sregRead .imaskp))
  | .px => .ok (s.data.px.extractLsb' 8 40)
  | .px1 => .ok (bus32 ((s.data.px.extractLsb' 0 16).setWidth 32))
  | .px2 => .ok (bus32 (s.data.px.extractLsb' 16 32))

/-- The instruction at PC is the one at e - 2 of a loop of three instructions or more (R398). -/
def State.atLoopTest (s : State) : Bool := !s.shortLoop && decide (s.pipe.pc = s.loopEnd - 2)

/-- A write of CURLCNTR (R41, R42, R398, R399): no effect without a counter loop; refused inside a short loop, at e - 2
of a longer one, and from memory right after IF NOT LCE (U12, U17). It is noted for the loop test of its step, which other
instructions than that at e - 2 meet after a branch to the end of the loop. -/
def State.writeCurlcntr (s : State) (fromMem : Bool) (v : BitVec 32) : Act State :=
  if !s.looping || decide (s.loopType = 0) then .ok s
  else if s.inShortLoop || s.atLoopTest || (fromMem && s.lat.afterNotLce) then
    refuse .curlcntrWrite
  else
    .ok { s with
      stk.count := setSixth s.stk.count (s.stk.depth.toNat - 1) v
      tr.curlcntr := if fromMem then some s.curlcntr else s.tr.curlcntr
      tr.countWritten := true }

/-- `UregWrite(u, d)` (R23, R32, R38, R40 to R42): `fromMem` when the value comes from memory. A write of LADDR while the
loop address stack is empty, for which R40 gives no effect, does nothing, as one of PCSTK on an empty stack (DESIGN CHOICE,
assumption log 50). A write of PCSTKP takes effect at the end of the next step (R38). -/
def State.uregWrite (s : State) (fromMem : Bool) (u : Ureg) (d : BitVec 40) : Act State :=
  let v := d.extractLsb' 8 32
  match u with
  | .r n => .ok (s.setRreg n d)
  | .i n => .ok (s.setDagReg .i (dagOf n) (dagNum n) v)
  | .m n => .ok (s.setDagReg .m (dagOf n) (dagNum n) v)
  | .l n => .ok (s.setDagReg .l (dagOf n) (dagNum n) v)
  | .b n => .ok ((s.setDagReg .b (dagOf n) (dagNum n) v).setDagReg .i (dagOf n) (dagNum n) v)
  | .faddr | .daddr | .pc => .ok s
  | .pcstk =>
    .ok (if s.pcEmpty then s
      else { s with stk.pc := s.stk.pc.setIfInBounds (min s.stk.pcstkp.toNat 30 - 1) (v.setWidth 24) })
  | .pcstkp => .ok (if s.stk.pcstkp = 31 then s else { s with tr.pcstkp := some (v.setWidth 5) })
  | .laddr =>
    .ok (if s.looping then { s with stk.laddr := setSixth s.stk.laddr (s.stk.depth.toNat - 1) v } else s)
  | .curlcntr => s.writeCurlcntr fromMem v
  | .lcntr => .ok { s with stk.count := setSixth s.stk.count s.stk.depth.toNat v }
  | .ustat1 => s.sregWrite .ustat1 v
  | .ustat2 => s.sregWrite .ustat2 v
  | .irptl => s.sregWrite .irptl v
  | .mode2 => s.sregWrite .mode2 v
  | .mode1 => s.sregWrite .mode1 v
  | .astat => s.sregWrite .astat v
  | .imask => s.sregWrite .imask v
  | .stky => s.sregWrite .stky v
  | .imaskp => s.sregWrite .imaskp v
  | .px => .ok { s with data.px := d ++ 0#8 }
  | .px1 => .ok { s with data.px := s.data.px.extractLsb' 16 32 ++ d.extractLsb' 8 16 }
  | .px2 => .ok { s with data.px := d.extractLsb' 8 32 ++ s.data.px.extractLsb' 0 16 }

/-- A universal register belongs to an address generator (R36). -/
def uregInDag (u : Ureg) (g : Bool) : Bool :=
  match u with
  | .i n | .m n | .l n | .b n => dagOf n == g
  | _ => false

end Sys2Proof.Machine
end

