-- ==== Sys2Proof/Machine/Flags.lean ====
section
/-! DEFINITION. Condition codes, and what the computation units write into ASTAT and STKY (30_encoding.md R285 to R287;
10_state.md R52, R54). -/

namespace Sys2Proof.Machine

/-! ### Conditions (30_encoding.md R285, R286) -/

/-- A bit of ASTAT as a condition sees it. -/
def State.flag (s : State) (k : Nat) : Bool := s.lat.astat.getLsbD k

/-- ALU saturation as it is in effect (MODE1.ALUSAT). -/
def State.aluSat (s : State) : Bool := s.lat.mode1.getLsbD 13

/-- `lt` of R285. -/
def State.lt (s : State) : Bool :=
  let az := s.flag 0
  let av := s.flag 1
  let an := s.flag 2
  let af := s.flag 10
  (!af && (an != (av && !s.aluSat))) || (af && an && !az)

/-- `le` of R285. -/
def State.le (s : State) : Bool :=
  let az := s.flag 0
  let av := s.flag 1
  let an := s.flag 2
  let af := s.flag 10
  (!af && (an != (av && !s.aluSat))) || (af && an) || az

/-- This processor is bus master for the condition of the instruction at PC: a condition is evaluated once, so an
instruction that has waited goes by the master there was then (30_encoding.md R286; 61_dma_extport.md R777). -/
def State.condMaster (s : State) : Bool := s.lat.master.getD s.busMaster

/-- The bus master condition: CSEL = 00 and this processor is master. -/
def State.bm (s : State) : Bool := decide (s.lat.mode1.extractLsb' 17 2 = 0) && s.condMaster

/-- LCE: CURLCNTR = 1, by its old value right after a load of it from memory (10_state.md R42); unsettled inside a counter
loop of one or two instructions (U17). -/
def State.lce (s : State) : Bool :=
  if s.inShortLoop then choiceAt s 5 else decide (s.lat.curlcntr.getD s.curlcntr = 1)

/-- The codes 0 to 14, which 16 to 30 complement. -/
def State.basicCond (s : State) (k : BitVec 4) : Bool :=
  if k = 0 then s.flag 0
  else if k = 1 then s.lt
  else if k = 2 then s.le
  else if k = 3 then s.flag 3
  else if k = 4 then s.flag 1
  else if k = 5 then s.flag 7
  else if k = 6 then s.flag 6
  else if k = 7 then s.flag 11
  else if k = 8 then s.flag 12
  else if k = 9 then s.flag 19
  else if k = 10 then s.flag 20
  else if k = 11 then s.flag 21
  else if k = 12 then s.flag 22
  else if k = 13 then s.flag 18
  else s.bm

/-- `cond(c)`: a condition of an IF; 15 is NOT LCE, 31 TRUE. -/
def State.cond (s : State) (c : BitVec 5) : Bool :=
  if c = 31 then true
  else if c = 15 then !s.lce
  else if c.getLsbD 4 then !s.basicCond (c.extractLsb' 0 4)
  else s.basicCond (c.extractLsb' 0 4)

/-- `term(c)`: a condition of DO UNTIL; 15 is LCE, 31 FOREVER. The loop test reads CURLCNTR as it stands. -/
def State.term (s : State) (c : BitVec 5) : Bool :=
  if c = 31 then false
  else if c = 15 then decide (s.curlcntr = 1)
  else if c.getLsbD 4 then !s.basicCond (c.extractLsb' 0 4)
  else s.basicCond (c.extractLsb' 0 4)

/-- A conditional instruction (30_encoding.md R287): nothing happens when the condition is false. It is noted when the
condition was NOT LCE (10_state.md R42). -/
def State.noteCond (s : State) (c : BitVec 5) : State :=
  if c = 15 then { s with tr.notLce := true } else s

/-! ### Flags of the computation units -/

/-- A bit at a place. -/
def bitAt (b : Bool) (k : Nat) : BitVec 32 := if b then 1#32 <<< k else 0

/-- The status an ALU operation leaves (10_state.md R52, R54). `gt` is the bit a compare shifts into CACC. -/
structure AluFlags where
  az : Bool
  av : Bool
  an : Bool
  ac : Bool
  as : Bool
  ai : Bool
  af : Bool
  aus : Bool
  avs : Bool
  aos : Bool
  gt : Option Bool
  deriving DecidableEq, Repr

/-- The OR of the status of the two halves of a dual add and subtract (48_multifunction.md R620). -/
def AluFlags.or (a b : AluFlags) : AluFlags where
  az := a.az || b.az
  av := a.av || b.av
  an := a.an || b.an
  ac := a.ac || b.ac
  as := a.as || b.as
  ai := a.ai || b.ai
  af := a.af || b.af
  aus := a.aus || b.aus
  avs := a.avs || b.avs
  aos := a.aos || b.aos
  gt := none

/-- ASTAT after an ALU operation: bits 5:0 and 10, and CACC for a compare. -/
def AluFlags.astat (f : AluFlags) (v : BitVec 32) : BitVec 32 :=
  let v := (v &&& ~~~0x0000043F#32) ||| bitAt f.az 0 ||| bitAt f.av 1 ||| bitAt f.an 2 ||| bitAt f.ac 3
    ||| bitAt f.as 4 ||| bitAt f.ai 5 ||| bitAt f.af 10
  match f.gt with
  | none => v
  | some gt => BitVec.ofBool gt ++ v.extractLsb' 25 7 ++ v.extractLsb' 0 24

/-- STKY after an ALU operation: AUS, AVS, AOS, AIS can be set. -/
def AluFlags.stky (f : AluFlags) (v : BitVec 32) : BitVec 32 :=
  v ||| bitAt f.aus 0 ||| bitAt f.avs 1 ||| bitAt f.aos 2 ||| bitAt f.ai 5

/-- The ALU writes its status. A fixed or floating COMP right after an explicit write of ASTAT shifts CACC as written, although the write
has an effect latency of 1 (10_state.md R24): whether it takes the old bits 31:24 or the written ones R480 and R511 do not
say (DESIGN CHOICE, assumption log 72). -/
def State.aluStatus (s : State) (f : AluFlags) : State :=
  { s with sys.astat := f.astat s.sys.astat, sys.stky := f.stky s.sys.stky }

/-- The status a multiplier operation leaves. -/
structure MulFlags where
  mn : Bool
  mv : Bool
  mu : Bool
  mi : Bool
  mos : Bool
  mvs : Bool
  mus : Bool
  deriving DecidableEq, Repr

/-- ASTAT after a multiplier operation: bits 9:6. -/
def MulFlags.astat (f : MulFlags) (v : BitVec 32) : BitVec 32 :=
  (v &&& ~~~0x000003C0#32) ||| bitAt f.mn 6 ||| bitAt f.mv 7 ||| bitAt f.mu 8 ||| bitAt f.mi 9

/-- STKY after a multiplier operation: MOS, MVS, MUS, MIS can be set. -/
def MulFlags.stky (f : MulFlags) (v : BitVec 32) : BitVec 32 :=
  v ||| bitAt f.mos 6 ||| bitAt f.mvs 7 ||| bitAt f.mus 8 ||| bitAt f.mi 9

/-- The multiplier writes its status. -/
def State.mulStatus (s : State) (f : MulFlags) : State :=
  { s with sys.astat := f.astat s.sys.astat, sys.stky := f.stky s.sys.stky }

/-- The status a shifter operation leaves. -/
structure ShiftFlags where
  sv : Bool
  sz : Bool
  ss : Bool
  deriving DecidableEq, Repr

/-- ASTAT after a shifter operation: bits 13:11. -/
def ShiftFlags.astat (f : ShiftFlags) (v : BitVec 32) : BitVec 32 :=
  (v &&& ~~~0x00003800#32) ||| bitAt f.sv 11 ||| bitAt f.sz 12 ||| bitAt f.ss 13

/-- The shifter writes its status. -/
def State.shiftStatus (s : State) (f : ShiftFlags) : State :=
  { s with sys.astat := f.astat s.sys.astat }

/-- The bit test flag BTF (43_misc.md R440). -/
def State.setBtf (s : State) (b : Bool) : State :=
  { s with sys.astat := (s.sys.astat &&& ~~~0x00040000#32) ||| bitAt b 18 }

end Sys2Proof.Machine
end

