-- ==== Sys2Proof/Machine/Alu.lean ====
section
/-! DEFINITION. The fixed-point ALU (44_alu_fixed.md). -/

namespace Sys2Proof.Machine

/-- The mode bits and flags the computation units read. -/
structure Modes where
  /-- MODE1.ALUSAT. -/
  sat : Bool
  /-- MODE1.TRUNC. -/
  trunc : Bool
  /-- MODE1.RND32. -/
  rnd32 : Bool
  /-- ASTAT.AC. -/
  ac : Bool
  /-- ASTAT.AV. -/
  av : Bool
  deriving DecidableEq, Repr

/-- The modes in effect for the instruction at PC. -/
def State.modes (s : State) : Modes where
  sat := s.aluSat
  trunc := s.lat.mode1.getLsbD 15
  rnd32 := s.lat.mode1.getLsbD 16
  ac := s.flag 3
  av := s.flag 1

/-- The result of an ALU operation, none for a compare, and its status. -/
structure AluOut where
  val : Option (BitVec 40)
  flags : AluFlags
  deriving DecidableEq, Repr

/-- The status of an operation with no overflow and no carry (R487): AZ and AN of the result. -/
def logicFlags (r : BitVec 32) : AluFlags where
  az := decide (r = 0)
  av := false
  an := r.getLsbD 31
  ac := false
  as := false
  ai := false
  af := false
  aus := false
  avs := false
  aos := false
  gt := none

/-- A 32-bit result with the status of R487. -/
def logicOut (r : BitVec 32) : AluOut := ⟨some (bus32 r), logicFlags r⟩

/-- One pass through the adder with saturation and flags (R471, R472, R475). -/
def adder (sat : Bool) (a b : BitVec 32) (cin : Bool) : AluOut :=
  let u := a.toNat + b.toNat + cin.toNat
  let t := a.toInt + b.toInt + cin.toInt
  let ovf := decide (t < -2147483648) || decide (2147483647 < t)
  let r : BitVec 32 :=
    if sat && ovf then (if 0 < t then 0x7FFFFFFF else 0x80000000) else BitVec.ofNat 32 u
  ⟨some (bus32 r), { logicFlags r with av := ovf, ac := decide (2 ^ 32 ≤ u), aos := ovf }⟩

/-- Half of the sum (R479): floor, or ties to even. -/
def average (trunc : Bool) (x y : BitVec 32) : AluOut :=
  let t := x.toInt + y.toInt
  let q := t / 2
  let r := BitVec.ofInt 32 (if trunc || decide (t % 2 = 0) || decide (q % 2 = 0) then q else q + 1)
  ⟨some (bus32 r), { logicFlags r with ac := decide (2 ^ 32 ≤ x.toNat + y.toNat) }⟩

/-- A signed compare (R480): no result, the outcome goes to AZ, AN and CACC. -/
def compare (x y : BitVec 32) : AluOut :=
  ⟨none, { logicFlags 0 with
    az := decide (x = y), an := decide (x.toInt < y.toInt), gt := some (decide (y.toInt < x.toInt)) }⟩

/-- The absolute value (R486). -/
def absolute (sat : Bool) (x : BitVec 32) : AluOut :=
  let ovf := decide (x = 0x80000000)
  let r : BitVec 32 := if sat && ovf then 0x7FFFFFFF else if x.getLsbD 31 then -x else x
  ⟨some (bus32 r), { logicFlags r with av := ovf, an := false, as := x.getLsbD 31, aos := ovf }⟩

/-- x limited to the magnitude of y (R494). -/
def clip (x y : BitVec 32) : BitVec 32 :=
  let m := y.toInt.natAbs
  if x.toInt.natAbs < m then x
  else if x.getLsbD 31 then BitVec.ofInt 32 (-(m : Int)) else BitVec.ofNat 32 m

/-- The fixed-point operations (R475 to R494). -/
def aluFixed (md : Modes) (op : AluOp) (x y : BitVec 32) : AluOut :=
  match op with
  | .add => adder md.sat x y false
  | .sub => adder md.sat x (~~~y) true
  | .addCi => adder md.sat x y md.ac
  | .subCi => adder md.sat x (~~~y) md.ac
  | .avg => average md.trunc x y
  | .comp => compare x y
  | .incCi => adder md.sat x 0 md.ac
  | .decCi => adder md.sat x 0xFFFFFFFF md.ac
  | .inc => adder md.sat x 0 true
  | .dec => adder md.sat x 0xFFFFFFFF false
  | .neg => adder md.sat 0 (~~~x) true
  | .abs => absolute md.sat x
  | .pass => logicOut x
  | .and => logicOut (x &&& y)
  | .or => logicOut (x ||| y)
  | .xor => logicOut (x ^^^ y)
  | .not => logicOut (~~~x)
  | .min => logicOut (if x.toInt ≤ y.toInt then x else y)
  | .max => logicOut (if y.toInt ≤ x.toInt then x else y)
  | .clip => logicOut (clip x y)

/-- The ALU writes its result, if any, and its status. -/
def State.applyAlu (s : State) (rn : BitVec 4) (o : AluOut) : State :=
  match o.val with
  | none => s.aluStatus o.flags
  | some v => (s.aluStatus o.flags).setRreg rn v

/-- A dual add and subtract writes both results; for one register twice, one of the two (48_multifunction.md R622; U8). -/
def State.applyDual (s : State) (ra rs : BitVec 4) (sum diff : AluOut) : State :=
  let t := s.aluStatus (sum.flags.or diff.flags)
  let put (t : State) (r : BitVec 4) (o : AluOut) : State :=
    match o.val with
    | none => t
    | some v => t.setRreg r v
  if ra = rs then put t ra (if choiceAt s 3 then sum else diff)
  else put (put t rs diff) ra sum

end Sys2Proof.Machine
end

