-- ==== Sys2Proof/Machine/Float.lean ====
section
/-! DEFINITION. Floating-point numbers: the register format, input conditioning, exact values, rounding and packing
(45_alu_float.md R500 to R503). Arithmetic on values is exact. -/

namespace Sys2Proof.Machine

/-- The fields of a floating-point register (R500). -/
def fltSign (w : BitVec 40) : Bool := w.getLsbD 39
def fltExp (w : BitVec 40) : Nat := (w.extractLsb' 31 8).toNat
def fltFrac (w : BitVec 40) : Nat := (w.extractLsb' 0 31).toNat

/-- Input conditioning (R501): with RND32 = 1 the low eight bits are 0; a denormal becomes a zero of its sign. -/
def fltIn (rnd32 : Bool) (w : BitVec 40) : BitVec 40 :=
  let w := if rnd32 then w &&& 0xFFFFFFFF00 else w
  if fltExp w = 0 then w &&& 0x8000000000 else w

/-- The classes of a conditioned operand. -/
def fltNan (w : BitVec 40) : Bool := decide (fltExp w = 255) && decide (fltFrac w ≠ 0)
def fltInf (w : BitVec 40) : Bool := decide (fltExp w = 255) && decide (fltFrac w = 0)
def fltZero (w : BitVec 40) : Bool := decide (fltExp w = 0)

/-- Infinity and Zero of a sign. -/
def infWord (neg : Bool) : BitVec 40 := if neg then 0xFF80000000 else 0x7F80000000
def zeroWord (neg : Bool) : BitVec 40 := if neg then 0x8000000000 else 0

/-- The significand of a finite operand as an integer; 0 for zero. -/
def fltMant (w : BitVec 40) : Nat := if fltExp w = 0 then 0 else 2 ^ 31 + fltFrac w

/-- The power of two that goes with it. -/
def fltPow (w : BitVec 40) : Int := (fltExp w : Int) - 158

/-- A signed significand. -/
def signed (neg : Bool) (m : Nat) : Int := if neg then -(m : Int) else m

/-- `m` divided by `2^k`, rounded: toward zero, or to nearest with ties to even. -/
def shiftRound (trunc : Bool) (m k : Nat) : Nat :=
  let q := m / 2 ^ k
  let r := m % 2 ^ k
  if trunc then q
  else if 2 * r < 2 ^ k then q
  else if 2 ^ k < 2 * r then q + 1
  else if q % 2 = 0 then q else q + 1

/-- A packed value and how it came about. -/
structure Packed where
  word : BitVec 40
  overflow : Bool
  underflow : Bool
  deriving DecidableEq, Repr

/-- The largest finite value with `p` significant bits (NORM.MAX). -/
def normMax (neg : Bool) (p : Nat) : BitVec 40 :=
  BitVec.ofBool neg ++ 254#8 ++ BitVec.ofNat 31 (2 ^ 31 - 2 ^ (32 - p))

/-- `fp_out` (R502): the value `m * 2^e` of a sign, `m` not 0, rounded to `p` significant bits and packed. -/
def fltPack (trunc : Bool) (p : Nat) (neg : Bool) (m : Nat) (e : Int) : Packed :=
  let l := Nat.log2 m
  let q := if l + 1 ≤ p then m * 2 ^ (p - 1 - l) else shiftRound trunc m (l + 1 - p)
  let carry := decide (q = 2 ^ p)
  let big : Int := e + l + (if carry then 1 else 0)
  let q := if carry then 2 ^ (p - 1) else q
  if 127 < big then ⟨if trunc then normMax neg p else infWord neg, true, false⟩
  else if big < -126 then ⟨zeroWord neg, false, true⟩
  else
    ⟨BitVec.ofBool neg ++ BitVec.ofInt 8 (big + 127) ++ BitVec.ofNat 31 ((q - 2 ^ (p - 1)) * 2 ^ (32 - p)), false, false⟩

/-- How many significant bits results have (R502). -/
def Modes.bits (md : Modes) : Nat := if md.rnd32 then 24 else 32

/-- The value of a conditioned operand that is not a NAN, as an integer in the order of the values (Infinity included):
for comparisons. -/
def fltKey (w : BitVec 40) : Int :=
  if fltZero w then 0 else signed (fltSign w) (w.extractLsb' 0 39).toNat

/-- The all-ones result of an invalid operation with a floating-point destination (R503, D22). -/
def invalidWord (rnd32 : Bool) : BitVec 40 := if rnd32 then 0xFFFFFFFF00 else 0xFFFFFFFFFF

/-- The status of a floating-point operation without exceptions (R504): AZ and AN of the word. -/
def fltFlags (w : BitVec 40) : AluFlags where
  az := fltZero w
  av := false
  an := fltSign w
  ac := false
  as := false
  ai := false
  af := true
  aus := false
  avs := false
  aos := false
  gt := none

/-- A floating-point result without exceptions. -/
def fltOut (w : BitVec 40) : AluOut := ⟨some w, fltFlags w⟩

/-- The invalid result (R503, D23). -/
def fltInvalid (rnd32 : Bool) : AluOut :=
  ⟨some (invalidWord rnd32), { fltFlags 0 with az := false, an := true, ai := true }⟩

/-- A rounded result with its overflow and underflow flags. -/
def fltPacked (k : Packed) : AluOut :=
  ⟨some k.word, { fltFlags k.word with av := k.overflow, avs := k.overflow, aus := k.underflow }⟩

end Sys2Proof.Machine
end

