-- ==== Sys2Proof/Machine/AluFloat.lean ====
section
/-! DEFINITION. The floating-point ALU operations (45_alu_float.md R506 to R528). -/

namespace Sys2Proof.Machine

/-! ### Sums (R506 to R511) -/

/-- x + y of conditioned operands, times a power of two `h` (0, or -1 for the halved sum), rounded (R506, R510). -/
def fltSum (md : Modes) (h : Int) (x y : BitVec 40) : AluOut :=
  if fltNan x || fltNan y || (fltInf x && fltInf y && fltSign x != fltSign y) then fltInvalid md.rnd32
  else if fltInf x then fltOut x
  else if fltInf y then fltOut y
  else
    let e := min (fltPow x) (fltPow y)
    let t := signed (fltSign x) (fltMant x * 2 ^ (fltPow x - e).toNat)
      + signed (fltSign y) (fltMant y * 2 ^ (fltPow y - e).toNat)
    if t = 0 then fltOut (zeroWord (fltSign x && fltSign y))
    else fltPacked (fltPack md.trunc md.bits (decide (t < 0)) t.natAbs (e + h))

/-- The operand with its sign complemented. -/
def fltNegate (w : BitVec 40) : BitVec 40 := w ^^^ 0x8000000000

/-- The absolute value of a sum: the sign is cleared, but the invalid result stays all ones; AN = 0 (R508, R509). -/
def fltAbsOut (o : AluOut) : AluOut :=
  ⟨if o.flags.ai then o.val else o.val.map (· &&& 0x7FFFFFFFFF), { o.flags with an := false }⟩

/-- The halved sum leaves AV = 0 and AVS alone (R510). -/
def fltAvg (md : Modes) (x y : BitVec 40) : AluOut :=
  let o := fltSum md (-1) x y
  ⟨o.val, { o.flags with av := false, avs := false }⟩

/-- The compare (R511, D24). -/
def fltCompare (x y : BitVec 40) : AluOut :=
  if fltNan x || fltNan y then ⟨none, { fltFlags 0 with az := false, ai := true, gt := some false }⟩
  else
    ⟨none, { fltFlags 0 with
      az := decide (fltKey x = fltKey y), an := decide (fltKey x < fltKey y)
      gt := some (decide (fltKey y < fltKey x)) }⟩

/-! ### Sign, pass, round, scale (R512 to R516) -/

/-- A result made from one operand unless it is a NAN. -/
def fltUnary (md : Modes) (x r : BitVec 40) : AluOut := if fltNan x then fltInvalid md.rnd32 else fltOut r

/-- A result made from two operands unless one is a NAN. -/
def fltBinary (md : Modes) (x y r : BitVec 40) : AluOut :=
  if fltNan x || fltNan y then fltInvalid md.rnd32 else fltOut r

/-- ABS Fx (R513): AN = 0, AS is the sign of the input. -/
def fltAbsolute (md : Modes) (x : BitVec 40) : AluOut :=
  let o := fltUnary md x (x &&& 0x7FFFFFFFFF)
  ⟨o.val, { o.flags with an := false, as := fltSign x }⟩

/-- RND Fx (R515): to 24 significant bits, from all 40 bits of the input. -/
def fltRound (md : Modes) (x : BitVec 40) : AluOut :=
  if fltNan x then fltInvalid md.rnd32
  else if fltInf x || fltZero x then fltOut x
  else fltPacked (fltPack md.trunc 24 (fltSign x) (fltMant x) (fltPow x))

/-- SCALB Fx BY Ry (R516). -/
def fltScale (md : Modes) (x : BitVec 40) (k : Int) : AluOut :=
  if fltNan x then fltInvalid md.rnd32
  else if fltInf x || fltZero x then fltOut x
  else fltPacked (fltPack md.trunc md.bits (fltSign x) (fltMant x) (fltPow x + k))

/-! ### Fixed-point results (R517 to R520) -/

/-- A fixed-point result of a floating-point operation. -/
def fixOut (r : BitVec 32) : AluOut := ⟨some (bus32 r), { logicFlags r with af := true }⟩

/-- The all-ones result with a fixed-point destination (R503). -/
def fixInvalid : AluOut := ⟨some 0xFFFFFFFF00, { logicFlags 0xFFFFFFFF with af := true, ai := true }⟩

/-- MANT Fx (R517). -/
def fltMantissa (x : BitVec 40) : AluOut :=
  let o := if fltExp x = 255 then fixInvalid else fixOut (BitVec.ofNat 32 (fltMant x))
  ⟨o.val, { o.flags with an := false, as := fltSign x }⟩

/-- LOGB Fx (R518). -/
def fltLogb (md : Modes) (x : BitVec 40) : AluOut :=
  let special (r : BitVec 32) : AluOut := ⟨some (bus32 r), { logicFlags r with af := true, av := true, avs := true }⟩
  if fltNan x then fixInvalid
  else if fltInf x then special (if md.sat then 0x7FFFFFFF else 0x7F800000)
  else if fltZero x then special (if md.sat then 0x80000000 else 0xFF800000)
  else fixOut (BitVec.ofInt 32 ((fltExp x : Int) - 127))

/-- How a conversion to an integer rounds. -/
inductive FixMode where
  | floor | nearest | zero
  deriving DecidableEq, Repr

/-- The integer of a value `m * 2^e` of a sign, for magnitudes below 2^32; the ranges of `e` keep the numbers small.
Rounding to nearest takes a magnitude between 1/2 and 1 to 1, as the formula of R519 has it; by its sentences on
underflow it would be 0 (DESIGN CHOICE, assumption log 61). -/
def fixValue (mode : FixMode) (neg : Bool) (m : Nat) (e : Int) : Int :=
  if 0 ≤ e then signed neg (m * 2 ^ e.toNat)
  else if (Nat.log2 m : Int) + e < -1 then
    (match mode with
      | .floor => if neg then -1 else 0
      | .nearest => 0
      | .zero => 0)
  else
    let k := (-e).toNat
    match mode with
    | .floor => signed neg m / 2 ^ k
    | .nearest => signed neg (shiftRound false m k)
    | .zero => signed neg (m / 2 ^ k)

/-- An overflow or Infinity in a conversion (R519): the bound with saturation, else all ones and invalid; AV in both. -/
def fixOverflow (md : Modes) (neg : Bool) : AluOut :=
  if md.sat then
    let r : BitVec 32 := if neg then 0x80000000 else 0x7FFFFFFF
    ⟨some (bus32 r), { logicFlags r with af := true, av := true, avs := true }⟩
  else ⟨fixInvalid.val, { fixInvalid.flags with av := true, avs := true }⟩

/-- FIX and TRUNC of `x * 2^k` (R519, R520, D25). -/
def fltFix (md : Modes) (mode : FixMode) (x : BitVec 40) (k : Int) : AluOut :=
  if fltNan x then fixInvalid
  else if fltInf x then fixOverflow md (fltSign x)
  else if fltZero x then fixOut 0
  else
    let m := fltMant x
    let e := fltPow x + k
    let big : Int := Nat.log2 m + e
    if 31 < big then fixOverflow md (fltSign x)
    else
      let i := fixValue mode (fltSign x) m e
      if i < -2147483648 ∨ 2147483647 < i then fixOverflow md (fltSign x)
      else
        let o := fixOut (BitVec.ofInt 32 i)
        ⟨o.val, { o.flags with aus := decide (big < 0) }⟩

/-- The rounding of FIX: floor with TRUNC = 1 (90_conflicts.md C23). -/
def fixMode (md : Modes) : FixMode := if md.trunc then .floor else .nearest

/-! ### Conversion and seeds (R521 to R523) -/

/-- FLOAT Rx BY k (R521): always to 32 significant bits. -/
def fltFloat (md : Modes) (x : BitVec 32) (k : Int) : AluOut :=
  if x = 0 then fltOut 0
  else fltPacked (fltPack md.trunc 32 (x.getLsbD 31) x.toInt.natAbs k)

/-- An Infinity that sets the overflow flag. -/
def fltPole (neg : Bool) : AluOut := ⟨some (infWord neg), { fltFlags (infWord neg) with av := true, avs := true }⟩

/-- A seed: sign, unbiased exponent, 23 fraction bits; bits 7:0 of the register are 0 (R522 and R523 do not say how wide
the fraction of a ROM entry is: DESIGN CHOICE, assumption log 16). -/
def seedWord (neg : Bool) (e : Int) (f : BitVec 23) : BitVec 40 :=
  BitVec.ofBool neg ++ BitVec.ofInt 8 (e + 127) ++ f ++ 0#8

/-- RECIPS Fx (R522). -/
def fltRecips (md : Modes) (x : BitVec 40) : AluOut :=
  let e : Int := (fltExp x : Int) - 127
  if fltNan x then fltInvalid md.rnd32
  else if fltZero x then fltPole (fltSign x)
  else if 125 < e then fltOut (zeroWord (fltSign x))
  else fltOut (seedWord (fltSign x) (-e - 1) (Config.recipsRom (x.extractLsb' 24 7)))

/-- RSQRTS Fx (R523): the index is the low exponent bit and six fraction bits; AN only for an input of -0. -/
def fltRsqrts (md : Modes) (x : BitVec 40) : AluOut :=
  let e : Int := (fltExp x : Int) - 127
  if fltZero x then fltPole (fltSign x)
  else if fltNan x || fltSign x then
    let o := fltInvalid md.rnd32
    ⟨o.val, { o.flags with an := false }⟩
  else if fltInf x then fltOut 0
  else fltOut (seedWord false (-(e / 2) - 1) (Config.rsqrtsRom (x.extractLsb' 25 7)))

/-! ### Sign copy, minimum, maximum, clip (R525 to R528) -/

/-- x with the sign of y. -/
def fltCopysign (x y : BitVec 40) : BitVec 40 := (x &&& 0x7FFFFFFFFF) ||| (y &&& 0x8000000000)

/-- The smaller value; of two zeros -0. -/
def fltMin (x y : BitVec 40) : BitVec 40 :=
  if fltZero x && fltZero y then zeroWord (fltSign x || fltSign y) else if fltKey x ≤ fltKey y then x else y

/-- The larger value; of two zeros +0. -/
def fltMax (x y : BitVec 40) : BitVec 40 :=
  if fltZero x && fltZero y then zeroWord (fltSign x && fltSign y) else if fltKey y ≤ fltKey x then x else y

/-- x limited to the magnitude of y (R528). With both zero x is neither positive nor negative, and R528 does not say which
zero results: it is the one of the sign of x (DESIGN CHOICE, assumption log 73). -/
def fltClip (x y : BitVec 40) : BitVec 40 :=
  if (x.extractLsb' 0 39).toNat < (y.extractLsb' 0 39).toNat then x else fltCopysign y x

/-! ### All of them -/

/-- The floating-point ALU operations on the contents of two registers. With RND32 = 1 the eight LSBs of an operand count as
0 in all but RND (R501), in MANT too, though R517 gives its result without a rounding mode (DESIGN CHOICE, assumption log
52). -/
def aluFloat (md : Modes) (op : FltOp) (wx wy : BitVec 40) : AluOut :=
  let x := fltIn md.rnd32 wx
  let y := fltIn md.rnd32 wy
  let ix := wx.extractLsb' 8 32
  let iy := (wy.extractLsb' 8 32).toInt
  match op with
  | .add => fltSum md 0 x y
  | .sub => fltSum md 0 x (fltNegate y)
  | .absAdd => fltAbsOut (fltSum md 0 x y)
  | .absSub => fltAbsOut (fltSum md 0 x (fltNegate y))
  | .avg => fltAvg md x y
  | .comp => fltCompare x y
  | .neg => fltUnary md x (fltNegate x)
  | .abs => fltAbsolute md x
  | .pass => fltUnary md x x
  | .rnd => fltRound md (fltIn false wx)
  | .scalb => fltScale md x iy
  | .mant => fltMantissa x
  | .logb => fltLogb md x
  | .fix => fltFix md (fixMode md) x 0
  | .fixBy => fltFix md (fixMode md) x iy
  | .trunc => fltFix md .zero x 0
  | .truncBy => fltFix md .zero x iy
  | .float => fltFloat md ix 0
  | .floatBy => fltFloat md ix iy
  | .recips => fltRecips md x
  | .rsqrts => fltRsqrts md x
  | .copysign => fltBinary md x y (fltCopysign x y)
  | .min => fltBinary md x y (fltMin x y)
  | .max => fltBinary md x y (fltMax x y)
  | .clip => fltBinary md x y (fltClip x y)

end Sys2Proof.Machine
end

