-- ==== Sys2Proof/Machine/Mult.lean ====
section
/-! DEFINITION. The multiplier (46_multiplier.md). -/

namespace Sys2Proof.Machine

/-- The data format of a fixed-point multiplier result (R545). -/
structure MulFmt where
  frac : Bool
  signed : Bool
  deriving DecidableEq, Repr

/-- Where a result goes: a data register, or MRF (false) or MRB. -/
inductive MulDest where
  | reg
  | acc (b : Bool)
  deriving DecidableEq, Repr

/-- The result of a multiplier operation: what it writes and its status. -/
structure MulOut where
  val : Option (BitVec 40)
  acc : Option (Bool × BitVec 80)
  flags : MulFlags
  deriving DecidableEq, Repr

/-- No flag. -/
def mulFlagsClear : MulFlags where
  mn := false
  mv := false
  mu := false
  mi := false
  mos := false
  mvs := false
  mus := false

/-- The format of a multiply: signed when either input is (R545). -/
def mod2Fmt (m : Mod2) : MulFmt := ⟨m.frac, m.ySigned || m.xSigned⟩

/-- The format of a saturation. -/
def mod1Fmt (m : Mod1) : MulFmt := ⟨m.frac, m.signed⟩

/-- The 80-bit product (R541, R542): two signed fractions lose the redundant sign bit. -/
def product (m : Mod2) (x y : BitVec 32) : BitVec 80 :=
  let a : Int := if m.xSigned then x.toInt else x.toNat
  let b : Int := if m.ySigned then y.toInt else y.toNat
  BitVec.ofInt 80 (if m.frac && m.xSigned && m.ySigned then 2 * (a * b) else a * b)

/-- Rounding at bit 32 (R543): ties to even, the low 32 bits are cleared. -/
def rnd80 (v : BitVec 80) : BitVec 80 :=
  let lo := (v.extractLsb' 0 32).toNat
  let hi := v.extractLsb' 32 48
  (if 0x80000000 < lo || (decide (lo = 0x80000000) && hi.getLsbD 0) then hi + 1 else hi) ++ 0#32

/-- The MV condition (R545): the bits above the result do not all agree. -/
def mulOverflow (f : MulFmt) (v : BitVec 80) : Bool :=
  match f.frac, f.signed with
  | true, true => decide (v.extractLsb' 63 17 ≠ 0) && decide (v.extractLsb' 63 17 ≠ BitVec.allOnes 17)
  | false, true => decide (v.extractLsb' 31 49 ≠ 0) && decide (v.extractLsb' 31 49 ≠ BitVec.allOnes 49)
  | true, false => decide (v.extractLsb' 64 16 ≠ 0)
  | false, false => decide (v.extractLsb' 32 48 ≠ 0)

/-- The MU condition (R545): a fraction has no bits but those below it. -/
def mulUnderflow (f : MulFmt) (v : BitVec 80) : Bool :=
  let hi := v.extractLsb' 32 48
  f.frac && (decide (hi = 0) || (f.signed && decide (hi = BitVec.allOnes 48))) && decide (v.extractLsb' 0 32 ≠ 0)

/-- The status of a fixed-point multiplier result (R545). -/
def mulFixedFlags (f : MulFmt) (v : BitVec 80) : MulFlags :=
  { mulFlagsClear with
    mn := v.getLsbD 79, mv := mulOverflow f v, mu := mulUnderflow f v, mos := mulOverflow f v }

/-- Delivery (R544): the whole result to an accumulator, the part of its format to a data register. -/
def deliver (f : MulFmt) (d : MulDest) (v : BitVec 80) (flags : MulFlags) : MulOut :=
  match d with
  | .reg => ⟨some (bus32 (if f.frac then v.extractLsb' 32 32 else v.extractLsb' 0 32)), none, flags⟩
  | .acc b => ⟨none, some (b, v), flags⟩

/-- A multiply or multiply-accumulate (R548 to R558): `base` plus (or minus) the product. -/
def mulAcc (m : Mod2) (d : MulDest) (base : BitVec 80) (minus : Bool) (x y : BitVec 32) : MulOut :=
  let p := product m x y
  let v := if minus then base - p else base + p
  let v := if m.round then rnd80 v else v
  deliver (mod2Fmt m) d v (mulFixedFlags (mod2Fmt m) v)

/-- Saturation (R559). -/
def sat80 (f : MulFmt) (v : BitVec 80) : BitVec 80 :=
  if mulOverflow f v then
    match f.frac, f.signed with
    | true, true => if v.getLsbD 79 then 0xFFFF8000000000000000 else 0x00007FFFFFFFFFFFFFFF
    | false, true => if v.getLsbD 79 then 0xFFFFFFFFFFFF80000000 else 0x0000000000007FFFFFFF
    | true, false => 0x0000FFFFFFFFFFFFFFFF
    | false, false => 0x000000000000FFFFFFFF
  else v

/-- SAT (R560 to R563): MV is cleared (90_conflicts.md C26). -/
def mulSat (m : Mod1) (d : MulDest) (v : BitVec 80) : MulOut :=
  let r := sat80 (mod1Fmt m) v
  deliver (mod1Fmt m) d r { mulFixedFlags (mod1Fmt m) r with mv := false, mos := false }

/-- RND (R564 to R567). -/
def mulRnd (signed : Bool) (d : MulDest) (v : BitVec 80) : MulOut :=
  let r := rnd80 v
  deliver ⟨true, signed⟩ d r (mulFixedFlags ⟨true, signed⟩ r)

/-- The floating-point multiply (R570). -/
def fltMul (md : Modes) (wx wy : BitVec 40) : MulOut :=
  let x := fltIn md.rnd32 wx
  let y := fltIn md.rnd32 wy
  let neg := fltSign x != fltSign y
  let exact (w : BitVec 40) : MulOut := ⟨some w, none, { mulFlagsClear with mn := neg }⟩
  if fltNan x || fltNan y || (fltInf x && fltZero y) || (fltZero x && fltInf y) then
    ⟨some (invalidWord md.rnd32), none, { mulFlagsClear with mn := true, mi := true }⟩
  else if fltInf x || fltInf y then exact (infWord neg)
  else if fltZero x || fltZero y then exact (zeroWord neg)
  else
    let k := fltPack md.trunc md.bits neg (fltMant x * fltMant y) (fltPow x + fltPow y)
    ⟨some k.word, none,
      { mulFlagsClear with mn := neg, mv := k.overflow, mvs := k.overflow, mu := k.underflow, mus := k.underflow }⟩

/-- The multiplier operations (R548 to R568, R570) on MRF, MRB and the contents of two registers. -/
def multiply (md : Modes) (op : MulOp) (mrf mrb : BitVec 80) (wx wy : BitVec 40) : MulOut :=
  let x := wx.extractLsb' 8 32
  let y := wy.extractLsb' 8 32
  match op with
  | .rn m => mulAcc m .reg 0 false x y
  | .mrf m => mulAcc m (.acc false) 0 false x y
  | .mrb m => mulAcc m (.acc true) 0 false x y
  | .rnMrfAdd m => mulAcc m .reg mrf false x y
  | .rnMrbAdd m => mulAcc m .reg mrb false x y
  | .mrfAdd m => mulAcc m (.acc false) mrf false x y
  | .mrbAdd m => mulAcc m (.acc true) mrb false x y
  | .rnMrfSub m => mulAcc m .reg mrf true x y
  | .rnMrbSub m => mulAcc m .reg mrb true x y
  | .mrfSub m => mulAcc m (.acc false) mrf true x y
  | .mrbSub m => mulAcc m (.acc true) mrb true x y
  | .rnSatMrf m => mulSat m .reg mrf
  | .rnSatMrb m => mulSat m .reg mrb
  | .mrfSat m => mulSat m (.acc false) mrf
  | .mrbSat m => mulSat m (.acc true) mrb
  | .rnRndMrf s => mulRnd s .reg mrf
  | .rnRndMrb s => mulRnd s .reg mrb
  | .mrfRnd s => mulRnd s (.acc false) mrf
  | .mrbRnd s => mulRnd s (.acc true) mrb
  | .mrfZero => ⟨none, some (false, 0), mulFlagsClear⟩
  | .mrbZero => ⟨none, some (true, 0), mulFlagsClear⟩
  | .fmul => fltMul md wx wy

/-- The multiplier writes its result and its status. -/
def State.applyMul (s : State) (rn : BitVec 4) (o : MulOut) : State :=
  let t := s.mulStatus o.flags
  match o.val, o.acc with
  | some v, _ => t.setRreg rn v
  | none, some (b, v) => t.setAcc b v
  | none, none => t

/-! ### MR transfers (R569) -/

/-- The accumulator of a name: MRF (false) or MRB. -/
def mrBack : MrReg → Bool
  | .mr0f | .mr1f | .mr2f => false
  | .mr0b | .mr1b | .mr2b => true

/-- The part of an accumulator a name reads; MR2 is sign-extended. -/
def mrPart (r : MrReg) (v : BitVec 80) : BitVec 32 :=
  match r with
  | .mr0f | .mr0b => v.extractLsb' 0 32
  | .mr1f | .mr1b => v.extractLsb' 32 32
  | .mr2f | .mr2b => (v.extractLsb' 64 16).signExtend 32

/-- An accumulator after a write of one part: MR1 sign-extends into MR2, MR2 takes 16 bits (D27). -/
def mrWithPart (r : MrReg) (v : BitVec 80) (x : BitVec 32) : BitVec 80 :=
  match r with
  | .mr0f | .mr0b => v.extractLsb' 32 48 ++ x
  | .mr1f | .mr1b => x.signExtend 48 ++ v.extractLsb' 0 32
  | .mr2f | .mr2b => x.extractLsb' 0 16 ++ v.extractLsb' 0 64

/-- Rk = MRx: the multiplier flags are cleared. -/
def State.mrRead (s : State) (r : MrReg) (rk : BitVec 4) : State :=
  (s.mulStatus mulFlagsClear).setRfix rk (mrPart r (s.acc (mrBack r)))

/-- MRx = Rk: the multiplier flags are cleared. -/
def State.mrWrite (s : State) (r : MrReg) (rk : BitVec 4) : State :=
  (s.mulStatus mulFlagsClear).setAcc (mrBack r) (mrWithPart r (s.acc (mrBack r)) (s.rfix rk))

end Sys2Proof.Machine
end

