-- ==== Sys2Proof/Machine/Shift.lean ====
section
/-! DEFINITION. The shifter (47_shifter.md). -/

namespace Sys2Proof.Machine

/-- The result of a shifter operation, none for a bit test, and its status. -/
structure ShiftOut where
  val : Option (BitVec 32)
  flags : ShiftFlags
  deriving DecidableEq, Repr

/-- The logical shift by a signed amount (`shl`). -/
def shl (x : BitVec 32) (k : Int) : BitVec 32 :=
  if 32 ≤ k ∨ k ≤ -32 then 0 else if 0 ≤ k then x <<< k.toNat else x >>> (-k).toNat

/-- The arithmetic shift by a signed amount (`sha`). -/
def sha (x : BitVec 32) (k : Int) : BitVec 32 :=
  if 0 ≤ k then shl x k else x.sshiftRight (min 31 (-k).toNat)

/-- The low `n` bits (`field`). -/
def bitField (x : BitVec 32) (n : Nat) : BitVec 32 := if 32 ≤ n then x else x &&& BitVec.ofNat 32 (2 ^ n - 1)

/-- The bits from place `k` up. -/
def bitsFrom (k : Nat) : BitVec 32 := if 32 ≤ k then 0 else BitVec.allOnes 32 <<< k

/-- The number of leading zeros, 0 to 32. -/
def leadingZeros (x : BitVec 32) : Nat := if x = 0 then 32 else 31 - Nat.log2 x.toNat

/-- A result whose SZ is that of the value; SS is cleared. -/
def shiftOut (r : BitVec 32) (sv : Bool) : ShiftOut := ⟨some r, ⟨sv, decide (r = 0), false⟩⟩

/-- A bit operation: `r` inside the field, x outside of it with SV set (R588 to R590). -/
def bitOut (x y r : BitVec 32) : ShiftOut :=
  if y.toNat < 32 then shiftOut r false else shiftOut x true

/-- The bit an operand names. -/
def bitMask (y : BitVec 32) : BitVec 32 := if y.toNat < 32 then 1#32 <<< y.toNat else 0

/-- The position and length of a field operand (R580). -/
def fieldPos (y : BitVec 32) : Nat := (y.extractLsb' 0 6).toNat
def fieldLen (y : BitVec 32) : Nat := (y.extractLsb' 6 6).toNat

/-- A field reaches to the left of bit 31 (R592, R596). -/
def fieldOff (y : BitVec 32) : Bool := decide (32 < fieldPos y + fieldLen y)

/-- The deposited field (R592, R594). -/
def deposit (se : Bool) (x y : BitVec 32) : BitVec 32 :=
  let len := fieldLen y
  let r := shl (bitField x len) (fieldPos y)
  if se && decide (0 < len) && x.getLsbD (len - 1) then r ||| bitsFrom (fieldPos y + len) else r

/-- The extracted field (R596, R597). -/
def extract (se : Bool) (x y : BitVec 32) : BitVec 32 :=
  let len := fieldLen y
  let r := bitField (shl x (-(fieldPos y : Int))) len
  if se && decide (0 < len) && !fieldOff y && x.getLsbD (fieldPos y + len - 1) then r ||| bitsFrom len else r

/-- The exponent of a fixed-point number: minus the number of redundant sign bits (R598). -/
def expOf (x : BitVec 32) : Int := 1 - (leadingZeros (if x.getLsbD 31 then ~~~x else x) : Int)

/-- An exponent as a result. -/
def expOut (e : Int) (ss : Bool) : ShiftOut := ⟨some (BitVec.ofInt 32 e), ⟨false, decide (e = 0), ss⟩⟩

/-- `m / 2^k` to nearest, ties to even. -/
def roundNearest (m k : Nat) : Nat :=
  let q := m / 2 ^ k
  let r := m % 2 ^ k
  if 2 * r < 2 ^ k then q else if 2 ^ k < 2 * r then q + 1 else if q % 2 = 0 then q else q + 1

/-- FPACK (R603, D28): the 16-bit word and SV. `free` stands for the exponent and fraction, and the flag, in the one case
the rule leaves out: a number of the largest exponent that rounding carries beyond it. The sign is that of the operand there
too (assumption log 23). -/
def fpack (x : BitVec 32) (free : BitVec 80) : ShiftOut :=
  let e := (x.extractLsb' 23 8).toNat
  let f := (x.extractLsb' 0 23).toNat
  let s := x.getLsbD 31
  let out (mag : Nat) (sv : Bool) : ShiftOut :=
    ⟨some (0#16 ++ BitVec.ofBool s ++ BitVec.ofNat 15 mag), ⟨sv, false, false⟩⟩
  if 135 < e then out 0x7FFF true
  else if 120 < e then
    let mag := (e - 120) * 2048 + roundNearest f 12
    if mag < 0x8000 then out mag false
    else out (free.extractLsb' 0 15).toNat (free.getLsbD 16)
  else if 109 < e then out (roundNearest (2 ^ 23 + f) (133 - e)) false
  else out 0 false

/-- FUNPACK (R604). -/
def funpack (x : BitVec 32) : BitVec 32 :=
  let e4 := x.extractLsb' 11 4
  let fr := (x.extractLsb' 0 11).toNat
  let s := BitVec.ofBool (x.getLsbD 15)
  if e4 ≠ 0 then
    let c := BitVec.ofBool (!e4.getLsbD 3)
    s ++ BitVec.ofBool (e4.getLsbD 3) ++ c ++ c ++ c ++ c ++ e4.extractLsb' 0 3 ++ BitVec.ofNat 11 fr ++ 0#12
  else if fr = 0 then s ++ 0#31
  else
    let n := 10 - Nat.log2 fr
    s ++ BitVec.ofNat 8 (120 - n) ++ BitVec.ofNat 23 (fr * 2 ^ (n + 13))

/-- The shifter operations (R583 to R604): operand x, amount or field operand y, the old destination z, ASTAT.AV for
EXP (EX), a free value for FPACK. -/
def shifter (op : ShiftOp) (x y z : BitVec 32) (av : Bool) (free : BitVec 80) : ShiftOut :=
  let k := y.toInt
  match op with
  | .lshift => shiftOut (shl x k) (decide (0 < k))
  | .orLshift => shiftOut (z ||| shl x k) (decide (0 < k))
  | .ashift => shiftOut (sha x k) (decide (0 < k))
  | .orAshift => shiftOut (z ||| sha x k) (decide (0 < k))
  | .rot => shiftOut (x.rotateLeft (k % 32).toNat) false
  | .bclr => bitOut x y (x &&& ~~~bitMask y)
  | .bset => bitOut x y (x ||| bitMask y)
  | .btgl => bitOut x y (x ^^^ bitMask y)
  | .btst => ⟨none, ⟨decide (32 ≤ y.toNat), decide (x &&& bitMask y = 0), false⟩⟩
  | .fdep => shiftOut (deposit false x y) (fieldOff y)
  | .orFdep => shiftOut (z ||| deposit false x y) (fieldOff y)
  | .fdepSe => shiftOut (deposit true x y) (fieldOff y)
  | .orFdepSe => shiftOut (z ||| deposit true x y) (fieldOff y)
  | .fext => shiftOut (extract false x y) (fieldOff y)
  | .fextSe => shiftOut (extract true x y) (fieldOff y)
  | .exp => expOut (expOf x) (x.getLsbD 31)
  | .expEx => expOut (if av then 1 else expOf x) (av != x.getLsbD 31)
  | .leftz => shiftOut (BitVec.ofNat 32 (leadingZeros x)) (decide (x = 0))
  | .lefto => shiftOut (BitVec.ofNat 32 (leadingZeros (~~~x))) (decide (~~~x = 0))
  | .fpack => fpack x free
  | .funpack => ⟨some (funpack x), ⟨false, false, false⟩⟩

/-- The shifter writes its result, if any, and its status. -/
def State.applyShift (s : State) (rn : BitVec 4) (o : ShiftOut) : State :=
  match o.val with
  | none => s.shiftStatus o.flags
  | some v => (s.shiftStatus o.flags).setRfix rn v

/-- A shifter operation with operand `y` (47_shifter.md). -/
def State.shift (s : State) (op : ShiftOp) (rn rx : BitVec 4) (y : BitVec 32) : State :=
  s.applyShift rn (shifter op (s.rfix rx) y (s.rfix rn) (s.flag 1) (freeAt s 4))

/-- The operations whose operand is a position and a length. -/
def shiftImmField : ShiftImmOp → Bool
  | .fdep | .orFdep | .fdepSe | .orFdepSe | .fext | .fextSe => true
  | _ => false

/-- The operand of an immediate form (40_compute_move.md R362): the 12-bit field of position and length, or the 8-bit
data with its sign. -/
def shiftImmediate (op : ShiftImmOp) (dataex : BitVec 4) (data : BitVec 8) : BitVec 32 :=
  if shiftImmField op then (dataex ++ data).setWidth 32 else data.signExtend 32

end Sys2Proof.Machine
end

