-- ==== Sys2Proof/Machine/ComputeField.lean ====
section
/-! DEFINITION. The COMPUTE field as a whole: every operation of files 44 to 48 on a state. Operands are read from the
state given; results to one register follow the precedence ALU over multiplier (10_state.md R26). -/

namespace Sys2Proof.Machine

/-- R3-0, R7-4, R11-8, R15-12 (48_multifunction.md R621). -/
def reg0 (k : BitVec 2) : BitVec 4 := 0#2 ++ k
def reg4 (k : BitVec 2) : BitVec 4 := 1#2 ++ k
def reg8 (k : BitVec 2) : BitVec 4 := 2#2 ++ k
def reg12 (k : BitVec 2) : BitVec 4 := 3#2 ++ k

/-- The options SSFR and SSF. -/
def ssfr : Mod2 := ⟨true, true, true, true⟩
def ssf : Mod2 := ⟨true, true, true, false⟩

/-- The multiplier operation of a multiplier half (R626). -/
def parMulOp : ParMul → MulOp
  | .rm => .rn ssfr
  | .mrfAdd => .mrfAdd ssf
  | .rmMrfAdd => .rnMrfAdd ssfr
  | .mrfSub => .mrfSub ssf
  | .rmMrfSub => .rnMrfSub ssfr

/-- The ALU operation of an ALU half (R626, R627). -/
def parAluOp : ParAlu → AluOp
  | .add => .add
  | .sub => .sub
  | .avg => .avg
def parFltOp : ParFlt → FltOp
  | .add => .add
  | .sub => .sub
  | .floatBy => .floatBy
  | .fixBy => .fixBy
  | .avg => .avg
  | .abs => .abs
  | .max => .max
  | .min => .min

/-- The units on the registers of a state. -/
def State.aluResult (s : State) (op : AluOp) (rx ry : BitVec 4) : AluOut :=
  aluFixed s.modes op (s.rfix rx) (s.rfix ry)
def State.fltResult (s : State) (op : FltOp) (rx ry : BitVec 4) : AluOut :=
  aluFloat s.modes op (s.rreg rx) (s.rreg ry)
def State.mulResult (s : State) (op : MulOp) (rx ry : BitVec 4) : MulOut :=
  multiply s.modes op (s.acc false) (s.acc true) (s.rreg rx) (s.rreg ry)

/-- The effect of a COMPUTE field (30_encoding.md R300). -/
def State.compute (s : State) (c : Compute) : State :=
  match c with
  | .none => s
  | .alu op rn rx ry => s.applyAlu rn (s.aluResult op rx ry)
  | .dualAlu rs ra rx ry => s.applyDual ra rs (s.aluResult .add rx ry) (s.aluResult .sub rx ry)
  | .flt op rn rx ry => s.applyAlu rn (s.fltResult op rx ry)
  | .dualFlt rs ra rx ry => s.applyDual ra rs (s.fltResult .add rx ry) (s.fltResult .sub rx ry)
  | .mul op rn rx ry => s.applyMul rn (s.mulResult op rx ry)
  | .shift op rn rx ry => s.shift op rn rx (s.rfix ry)
  | .mrRead mr rk => s.mrRead mr rk
  | .mrWrite mr rk => s.mrWrite mr rk
  | .mulAlu mop aop rm ra rxm rym rxa rya =>
    (s.applyMul rm (s.mulResult (parMulOp mop) (reg0 rxm) (reg4 rym))).applyAlu ra
      (s.aluResult (parAluOp aop) (reg8 rxa) (reg12 rya))
  | .mulFlt aop rm ra rxm rym rxa rya =>
    (s.applyMul rm (s.mulResult .fmul (reg0 rxm) (reg4 rym))).applyAlu ra
      (s.fltResult (parFltOp aop) (reg8 rxa) (reg12 rya))
  | .mulDualAlu rs rm ra rxm rym rxa rya =>
    (s.applyMul rm (s.mulResult (.rn ssfr) (reg0 rxm) (reg4 rym))).applyDual ra rs
      (s.aluResult .add (reg8 rxa) (reg12 rya)) (s.aluResult .sub (reg8 rxa) (reg12 rya))
  | .mulDualFlt rs rm ra rxm rym rxa rya =>
    (s.applyMul rm (s.mulResult .fmul (reg0 rxm) (reg4 rym))).applyDual ra rs
      (s.fltResult .add (reg8 rxa) (reg12 rya)) (s.fltResult .sub (reg8 rxa) (reg12 rya))

end Sys2Proof.Machine
end

