-- ==== Sys2Proof/Machine/ExtPort.lean ====
section
/-! DEFINITION. The external port buffers: packing, the fields of DMACx, the DMA channels they and the serial ports
belong to (61_dma_extport.md sections 4 and 5, 11_state_iop.md R140). -/

namespace Sys2Proof.Machine

/-! ### Parts of the I/O processor by number -/

/-- The external port buffer EPB0 (false) or EPB1. -/
def Iop.ep (p : Iop) (x : Bool) : ExtPort := if x then p.ep1 else p.ep0

/-- Replace an external port buffer. -/
def State.setEp (s : State) (x : Bool) (e : ExtPort) : State :=
  if x then { s with iop.ep1 := e } else { s with iop.ep0 := e }

/-- Serial port 0 (false) or 1. -/
def Iop.sport (p : Iop) (x : Bool) : Sport := if x then p.sport1 else p.sport0

/-- Replace a serial port. -/
def State.setSport (s : State) (x : Bool) (p : Sport) : State :=
  if x then { s with iop.sport1 := p } else { s with iop.sport0 := p }

/-- The DMA channel of a number. -/
def State.chan (s : State) (c : Fin 10) : DmaChannel := s.iop.dma.get c

/-- Replace a DMA channel. -/
def State.setChan (s : State) (c : Fin 10) (d : DmaChannel) : State :=
  { s with iop.dma := s.iop.dma.set c.val d c.isLt }

/-- The channel of an external port buffer: 8 or 9. -/
def epChan (x : Bool) : Fin 10 := if x then 9 else 8

/-! ### DMACx (11_state_iop.md R140) -/

def ExtPort.den (e : ExtPort) : Bool := e.dmac.getLsbD 0
def ExtPort.chen (e : ExtPort) : Bool := e.dmac.getLsbD 1
def ExtPort.tran (e : ExtPort) : Bool := e.dmac.getLsbD 2
def ExtPort.dtype (e : ExtPort) : Bool := e.dmac.getLsbD 5
def ExtPort.pmode (e : ExtPort) : BitVec 2 := e.dmac.extractLsb' 6 2
def ExtPort.mswf (e : ExtPort) : Bool := e.dmac.getLsbD 8
def ExtPort.master (e : ExtPort) : Bool := e.dmac.getLsbD 9
def ExtPort.hshake (e : ExtPort) : Bool := e.dmac.getLsbD 10
def ExtPort.intio (e : ExtPort) : Bool := e.dmac.getLsbD 11
def ExtPort.extern (e : ExtPort) : Bool := e.dmac.getLsbD 12

/-- DMA is enabled: DEN, or CHEN alone, which is the chain insertion mode (R140; 61_dma_extport.md R741). -/
def ExtPort.dmaOn (e : ExtPort) : Bool := e.den || e.chen

/-- A bit of DMACx may still have its old value; bit 13: a flush may still be to come (61_dma_extport.md R733). -/
def ExtPort.unsure (e : ExtPort) (k : Nat) : Bool := (e.dmacNew ||| e.dmacPrev ||| e.dmacOld).getLsbD k

/-- The control bits after a write of DMACx: FLSH, PS and FS are no storage. What the write changes, and a flush, is in
effect for certain only after the next two steps, each write by itself (61_dma_extport.md R733). -/
def ExtPort.withDmac (e : ExtPort) (v : BitVec 16) : ExtPort :=
  let new := v &&& 0x1FE7
  { e with
    dmac := new
    dmacNew := e.dmacNew ||| (e.dmac ^^^ new) ||| (v &&& 0x2000) }

/-- A step of that time is over. -/
def ExtPort.elapse (e : ExtPort) : ExtPort := { e with dmacNew := 0, dmacPrev := e.dmacNew, dmacOld := e.dmacPrev }

/-- The FIFO has room for a word. -/
def ExtPort.room (e : ExtPort) : Bool := decide (e.fifo.length < 6)

/-- DMACx.FS: 00 empty, 11 full, 10 between (R140). -/
def ExtPort.fs (e : ExtPort) : BitVec 2 := if e.fifo.isEmpty then 0 else if e.room then 2 else 3

/-- The reserved combinations of MASTER, HSHAKE and EXTERN, and chaining in external handshake mode (U27, U32). -/
def badDmaMode (v : BitVec 16) : Bool :=
  let m := v.getLsbD 9
  let h := v.getLsbD 10
  let e := v.getLsbD 12
  (e && (!h || m)) || (e && v.getLsbD 1)

/-! ### Packing (61_dma_extport.md R759, R772, R775) -/

/-- How external words make up internal words. -/
inductive Packing where
  /-- One external word is the upper 32 bits of the internal word. -/
  | whole
  /-- `parts` external words of `bits` bits make up one internal word, most significant part first when `msw`. -/
  | group (parts bits : Nat) (msw : Bool)
  /-- Three 32-bit words carry two 48-bit words (Table 6-22). -/
  | pair
  deriving DecidableEq, Repr

/-- The packing DMACx.PMODE and MSWF select (R759). -/
def ExtPort.packing (e : ExtPort) : Packing :=
  if e.pmode = 0 then .whole
  else if e.pmode = 1 then .group 2 16 e.mswf
  else if e.pmode = 2 then .group 3 16 e.mswf
  else .pair

/-- The value of parts with the most significant first. -/
def joinParts (bits : Nat) : List (BitVec 32) → Nat → Nat
  | [], acc => acc
  | p :: ps, acc => joinParts bits ps (acc * 2 ^ bits + p.toNat % 2 ^ bits)

/-- The parts of a value, least significant first. -/
def splitParts (bits : Nat) : Nat → Nat → List (BitVec 32)
  | 0, _ => []
  | n + 1, v => BitVec.ofNat 32 (v % 2 ^ bits) :: splitParts bits n (v / 2 ^ bits)

/-- The internal word, left-justified in 48 bits, of a group of parts in the order of arrival. -/
def joinGroup (parts bits : Nat) (msw : Bool) (es : List (BitVec 32)) : BitVec 48 :=
  BitVec.ofNat 48 (joinParts bits (if msw then es else es.reverse) 0 * 2 ^ (48 - parts * bits))

/-- The parts, in the order they are sent, of an internal word. -/
def splitGroup (parts bits : Nat) (msw : Bool) (w : BitVec 48) : List (BitVec 32) :=
  let ps := splitParts bits parts (w.toNat / 2 ^ (48 - parts * bits))
  if msw then ps.reverse else ps

/-- The packing stage after `n` parts of a group: 0, 1 or 2 (R759). Of the groups of four and six bytes, whose stages past
the second the spec does not name, the stage is 2 from the second part to the last but one (DESIGN CHOICE, assumption
log 68). -/
def stageOf (n : Nat) : BitVec 2 := if n = 0 then 0 else if n = 1 then 1 else 2

/-- A packing register: external words received or still to be sent, and the stage. A buffer has one and the host interface
another (R758, R774). -/
structure PackReg where
  words : List (BitVec 32)
  stage : BitVec 2
  deriving DecidableEq, Repr

/-- The packing register that holds nothing. -/
def PackReg.empty : PackReg := ⟨[], 0⟩

/-- An external word goes into the packing register; with the internal word it completes, if it does (R759, receive). -/
def PackReg.feed (p : PackReg) (k : Packing) (w : BitVec 32) : Option (BitVec 48) × PackReg :=
  match k with
  | .whole => (some (w ++ 0#16), p)
  | .group parts bits msw =>
    let es := p.words ++ [w]
    if es.length < parts then (none, ⟨es, stageOf es.length⟩) else (some (joinGroup parts bits msw es), .empty)
  | .pair =>
    match p.words with
    | [] => (none, ⟨[w], 1⟩)
    | e :: _ =>
      if p.stage = 1 then (some (e ++ w.extractLsb' 0 16), ⟨[w], 2⟩)
      else (some (w ++ e.extractLsb' 16 16), .empty)

/-- The next external word to drive, with what is left, if the packing register has one or gets one from the internal words
`f` (R759, transmit). -/
def PackReg.next (p : PackReg) (k : Packing) (f : List (BitVec 48)) : Option (BitVec 32 × PackReg × List (BitVec 48)) :=
  match k with
  | .whole =>
    match f with
    | [] => none
    | w :: f => some (w.extractLsb' 16 32, p, f)
  | .group parts bits msw =>
    match p.words with
    | e :: es => some (e, ⟨es, if es.isEmpty then 0 else stageOf (parts - es.length)⟩, f)
    | [] =>
      match f with
      | [] => none
      | w :: f =>
        match splitGroup parts bits msw w with
        | [] => none
        | e :: es => some (e, ⟨es, if es.isEmpty then 0 else 1⟩, f)
  | .pair =>
    if p.stage = 2 then
      match p.words with
      | [] => none
      | e :: _ => some (e, .empty, f)
    else
      match f with
      | [] => none
      | w :: f =>
        match p.words with
        | [] => some (w.extractLsb' 16 32, ⟨[(w.extractLsb' 0 16).setWidth 32], 1⟩, f)
        | e :: _ => some (w.extractLsb' 0 16 ++ e.extractLsb' 0 16, ⟨[w.extractLsb' 16 32], 2⟩, f)

/-- An external word enters the packing register of a buffer; a complete internal word goes into the FIFO. -/
def ExtPort.feed (e : ExtPort) (k : Packing) (w : BitVec 32) : ExtPort :=
  let (v, p) := PackReg.feed ⟨e.pack, e.ps⟩ k w
  { e with fifo := e.fifo ++ v.toList, pack := p.words, ps := p.stage }

/-- The next external word that a buffer drives, if it has one. -/
def ExtPort.next (e : ExtPort) (k : Packing) : Option (BitVec 32 × ExtPort) :=
  (PackReg.next ⟨e.pack, e.ps⟩ k e.fifo).map fun (w, p, f) => (w, { e with fifo := f, pack := p.words, ps := p.stage })

/-- FLSH: everything but the parameter registers and control bits is cleared (R761). -/
def ExtPort.flush (e : ExtPort) : ExtPort :=
  { e with fifo := [], pack := [], ps := 0, requests := [], extDone := false, intDone := false }

/-! ### Serial port mode bits (62_serial_ports.md R831, R834, R835) -/

/-- Multichannel operation: OPMODE = 0 and MCE = 1 (R831). -/
def Sport.multi (p : Sport) : Bool := !p.srctl.getLsbD 11 && p.srctl.getLsbD 23

/-- Whether transmit channel A (false) or B is enabled (R848). -/
def Sport.txOn (p : Sport) (z : Bool) : Bool :=
  if p.multi then !z else p.stctl.getLsbD (if z then 24 else 0)

/-- Whether receive channel A (false) or B is enabled. -/
def Sport.rxOn (p : Sport) (z : Bool) : Bool :=
  if p.multi then !z else p.srctl.getLsbD (if z then 24 else 0)

/-- DMA enable and chaining enable of transmit channel A (false) or B; channel B has none in multichannel mode (R849). -/
def Sport.txDen (p : Sport) (z : Bool) : Bool := if z then !p.multi && p.stctl.getLsbD 20 else p.stctl.getLsbD 18
def Sport.txChen (p : Sport) (z : Bool) : Bool := if z then !p.multi && p.stctl.getLsbD 21 else p.stctl.getLsbD 19

/-- DMA enable and chaining enable of receive channel A (false) or B. -/
def Sport.rxDen (p : Sport) (z : Bool) : Bool := if z then !p.multi && p.srctl.getLsbD 20 else p.srctl.getLsbD 18
def Sport.rxChen (p : Sport) (z : Bool) : Bool := if z then !p.multi && p.srctl.getLsbD 21 else p.srctl.getLsbD 19

/-- The transmit channel A (false) or B. -/
def Sport.tx (p : Sport) (z : Bool) : SportTx := if z then p.txB else p.txA
def Sport.rx (p : Sport) (z : Bool) : SportRx := if z then p.rxB else p.rxA

/-- Replace a channel. -/
def Sport.setTx (p : Sport) (z : Bool) (t : SportTx) : Sport := if z then { p with txB := t } else { p with txA := t }
def Sport.setRx (p : Sport) (z : Bool) (r : SportRx) : Sport := if z then { p with rxB := r } else { p with rxA := r }

/-! ### DMA channels (61_dma_extport.md R731, R738, R739) -/

/-- The serial port of channels 0 to 7 (true: port 1) and the channel of it (true: B). -/
def chanPort (c : Fin 10) : Bool := c.val / 2 % 2 == 1
def chanB (c : Fin 10) : Bool := c.val % 2 == 1

/-- DEN of a channel (R731). -/
def State.den (s : State) (c : Fin 10) : Bool :=
  if c.val < 4 then (s.iop.sport (chanPort c)).rxDen (chanB c)
  else if c.val < 8 then (s.iop.sport (chanPort c)).txDen (chanB c)
  else (s.iop.ep (chanB c)).den

/-- CHEN of a channel (R731). -/
def State.chen (s : State) (c : Fin 10) : Bool :=
  if c.val < 4 then (s.iop.sport (chanPort c)).rxChen (chanB c)
  else if c.val < 8 then (s.iop.sport (chanPort c)).txChen (chanB c)
  else (s.iop.ep (chanB c)).chen

/-- The bit of IRPTL a channel requests (R731). -/
def chanIrq (c : Fin 10) : Nat := if c.val < 8 then 10 + c.val / 2 else 8 + c.val

/-- Note an interrupt request of this step. -/
def State.request (s : State) (k : Nat) : State :=
  { s with tr.requests := s.tr.requests ||| (1#32 <<< k) }

/-- The channel's transfers and chain loads are over, a load requested or in progress too, of which R739 does not say what
becomes of it (DESIGN CHOICE, assumption log 83). -/
def State.stopChan (s : State) (c : Fin 10) : State :=
  let t := s.setChan c { s.chan c with run := false, chainReq := false }
  { t with iop.hid.tcb := s.iop.hid.tcb.filter fun p => decide (p.1 ≠ c) }

/-- The enable bits of a channel went from (`den`, `chen`) to those now in its control register: a nonchained sequence
starts when DEN rises and ends when it falls; with chaining the sequence goes on (R734, R738, R739, R741). It ends as well
when chain insertion mode is left by clearing CHEN, though DEN is 0 already, which R739 and R741 do not say (DESIGN CHOICE,
assumption log 83). -/
def State.chanControl (s : State) (c : Fin 10) (den : Bool) : State :=
  let d := s.chan c
  if s.chen c then s
  else if !s.den c then s.stopChan c
  else if den then s
  else
    let s := s.setChan c { d with run := true }
    if c.val < 8 then s
    else s.setEp (chanB c) { s.iop.ep (chanB c) with extDone := false, intDone := false }

/-- CP was written: with chaining and DMA enabled and no sequence in progress a nonzero pointer starts the chain
(R738 b). -/
def State.chainStart (s : State) (c : Fin 10) : State :=
  let d := s.chan c
  if s.chen c && s.den c && !d.run && decide (d.cp.extractLsb' 0 17 ≠ 0) then s.setChan c { d with chainReq := true }
  else s

/-- A write of CP that would start a chain under old bits of DMACx which may still be in effect, but not under the new
ones (61_dma_extport.md R733; U39). -/
def State.chainUnsure (s : State) (c : Fin 10) : Bool :=
  let d := s.chan c
  let e := s.iop.ep (chanB c)
  decide (8 ≤ c.val) && !(e.den && e.chen) && (e.den || e.unsure 0) && (e.chen || e.unsure 1)
    && !d.run && decide (d.cp.extractLsb' 0 17 ≠ 0)

/-! ### Internal addresses and widths (61_dma_extport.md R736; 11_state_iop.md R145, R150) -/

/-- The internal address of a 17-bit index or chain pointer: the value itself, or 0x8000 above it (DMA_ADDR_OFFSET;
92_eei_decisions.md D16). -/
def State.dmaAddr (s : State) (a : BitVec 17) : BitVec 32 := a.setWidth 32 + (if s.env.dmaOffset then 0x8000 else 0)

/-- The width of the internal words of an external port buffer, by DTYPE, PMODE and IMDW (11_state_iop.md R121, R150). With
PMODE = 00 and DTYPE = 0 the block is the one that IIEPx points to, also while no DMA runs, and outside of both blocks the
words have 32 bits: R150 does not say whose IMDWx counts (DESIGN CHOICE, assumption log 54). -/
def State.epbWidth (s : State) (x : Bool) : Nat :=
  let e := s.iop.ep x
  if e.dtype || e.pmode.getLsbD 1 then 48
  else if e.pmode = 1 then 32
  else
    match place 0 (s.dmaAddr (s.chan (epChan x)).ii) with
    | .normal b _ => if s.imdw b then 40 else 32
    | _ => 32

/-- The upper bits of a left-justified word that a width keeps. -/
def keepWidth (n : Nat) (w : BitVec 48) : BitVec 48 :=
  if n = 48 then w else if n = 40 then w &&& 0xFFFFFFFFFF00 else w &&& 0xFFFFFFFF0000

/-- A sequence has counted down: it ends, the next one of a chain is requested, and the interrupt is requested without
chaining, with PCI, in chain insertion mode and in external handshake mode (R739, R742). -/
def State.endOfSequence (s : State) (c : Fin 10) : State :=
  let d := s.chan c
  let chain := s.chen c && s.den c && decide (d.cp.extractLsb' 0 17 ≠ 0)
  let ext := decide (8 ≤ c.val) && (s.iop.ep (chanB c)).extern
  let irq := !s.chen c || d.cp.getLsbD 17 || !s.den c || ext
  let s := s.setChan c { d with run := false, chainReq := d.chainReq || chain }
  if irq then s.request (chanIrq c) else s

/-- A count of a channel reached zero: in master mode both counts must have (R739, R744). -/
def State.endOfCount (s : State) (c : Fin 10) : State :=
  if 8 ≤ c.val then
    let e := s.iop.ep (chanB c)
    if e.master && !(e.intDone && e.extDone) then s else s.endOfSequence c
  else s.endOfSequence c

end Sys2Proof.Machine
end

