-- ==== Sys2Proof/Machine/SerialPort.lean ====
section
/-! DEFINITION. The serial ports: word formats, buffers, control registers and the arrival and departure of serial words
(62_serial_ports.md). -/

namespace Sys2Proof.Machine

/-! ### Word formats (R837, R850) -/

/-- SLEN + 1 of a control register. -/
def wordBits (ctl : BitVec 32) : Nat := (ctl.extractLsb' 4 5).toNat + 1

/-- DTYPE of a control register. -/
def dtypeOf (ctl : BitVec 32) : BitVec 2 := ctl.extractLsb' 1 2

/-- A control register's OPMODE bit. -/
def opmodeOf (ctl : BitVec 32) : Bool := ctl.getLsbD 11

/-- A control register's PACK bit. -/
def packOf (ctl : BitVec 32) : Bool := ctl.getLsbD 9

/-- The low `n` bits of a word, the rest zero or the sign (`n` is 1 to 32). -/
def extendWord (n : Nat) (signed : Bool) (v : BitVec 32) : BitVec 32 :=
  if signed then (v <<< (32 - n)).sshiftRight (32 - n) else (v <<< (32 - n)) >>> (32 - n)

/-- Clip a 32-bit signed value to the range of a law: 13 bits for A-law, 14 bits for mu-law (R850). -/
def clipLaw (alaw : Bool) (v : BitVec 32) : BitVec 16 :=
  let top : Int := if alaw then 4095 else 8191
  let x := v.toInt
  BitVec.ofInt 16 (if x > top then top else if x < -top - 1 then -top - 1 else x)

/-- Compress a value: eight bits, sign-extended (R850). R850 extends the sign to the width of the transmit word; that a
word read back from TX has it in all 32 bits it does not say (DESIGN CHOICE, assumption log 26). -/
def compressWord (alaw : Bool) (v : BitVec 32) : BitVec 32 :=
  (Config.g711Compress alaw (clipLaw alaw v)).signExtend 32

/-- Expand the eight low bits of a value: a 13-bit or 14-bit number, sign-extended (R850). -/
def expandWord (alaw : Bool) (v : BitVec 32) : BitVec 32 :=
  extendWord (if alaw then 13 else 14) true ((Config.g711Expand alaw (v.extractLsb' 0 8)).setWidth 32)

/-- Standard mode companding on channel A: DTYPE 1x; the law of the low bit (R837). -/
def compandOn (p : Sport) (ctl : BitVec 32) (z : Bool) : Bool :=
  !z && !p.multi && !opmodeOf ctl && (dtypeOf ctl).getLsbD 1

/-- A word of a transmit buffer companded in standard mode; packed halves each by itself (R850). -/
def compandTx (p : Sport) (z : Bool) (w : BitVec 32) : BitVec 32 :=
  if compandOn p p.stctl z then
    let alaw := (dtypeOf p.stctl).getLsbD 0
    if packOf p.stctl then
      (compressWord alaw ((w.extractLsb' 16 16).signExtend 32)).extractLsb' 0 16
        ++ (compressWord alaw ((w.extractLsb' 0 16).signExtend 32)).extractLsb' 0 16
    else compressWord alaw w
  else w

/-- A word of a receive buffer expanded in standard mode; packed halves each by itself (R850), which R850 does not say of
a word that software puts there (DESIGN CHOICE, assumption log 26). -/
def compandRx (p : Sport) (z : Bool) (w : BitVec 32) : BitVec 32 :=
  if compandOn p p.srctl z then
    let alaw := (dtypeOf p.srctl).getLsbD 0
    if packOf p.srctl then
      (expandWord alaw ((w.extractLsb' 16 16).setWidth 32)).extractLsb' 0 16
        ++ (expandWord alaw ((w.extractLsb' 0 16).setWidth 32)).extractLsb' 0 16
    else expandWord alaw w
  else w

/-- A word that stays as it is. -/
def plainWord (w : BitVec 32) : SportWord := ⟨w, 0⟩

/-- A word written to a transmit or receive buffer: it stands there as written, and with companding on it is replaced by
its companded form at the end of the next step (R850; assumption log 26). -/
def newTx (p : Sport) (z : Bool) (w : BitVec 32) : SportWord := ⟨w, if compandOn p p.stctl z then 2 else 0⟩
def newRx (p : Sport) (z : Bool) (w : BitVec 32) : SportWord := ⟨w, if compandOn p p.srctl z then 2 else 0⟩

/-- The word a transmit channel sends: companded whether or not it has been so in place. A word written while companding
was off is sent as it is, also after DTYPE has been set: R850 only asks to program the registers first (DESIGN CHOICE,
assumption log 26). -/
def SportWord.toSend (p : Sport) (z : Bool) (w : SportWord) : BitVec 32 :=
  if w.due = 0 then w.word else compandTx p z w.word

/-- A step is over for a word: `compand` replaces it when its time has come. -/
def SportWord.elapse (compand : BitVec 32 → BitVec 32) (w : SportWord) : SportWord :=
  if w.due = 0 then w else if w.due = 1 then plainWord (compand w.word) else { w with due := w.due - 1 }

/-- A step is over for the buffers of a port. -/
def Sport.elapse (p : Sport) : Sport :=
  { p with
    txA.queue := p.txA.queue.map (SportWord.elapse (compandTx p false))
    txB.queue := p.txB.queue.map (SportWord.elapse (compandTx p true))
    rxA.queue := p.rxA.queue.map (SportWord.elapse (compandRx p false))
    rxB.queue := p.rxB.queue.map (SportWord.elapse (compandRx p true)) }

/-- A received serial word formatted by DTYPE (R837); `slot` names the multichannel slot, whose words MRCCS selects for
companding when comparison is off (R840, R854). On channel B, which has no companding, DTYPE 10 and 11 fill with zeros,
which R837 does not say (DESIGN CHOICE, assumption log 57). Of a serial word shorter than eight bits R850 does not say what
is expanded: bits 7:0 of the arriving data are, also those above the serial word (DESIGN CHOICE, assumption log 70). -/
def formatRx (p : Sport) (z : Bool) (v : BitVec 32) : BitVec 32 :=
  let n := wordBits p.srctl
  let d := dtypeOf p.srctl
  if p.multi then
    if p.mrccs.getLsbD p.chnl.toNat && !p.srctl.getLsbD 15 then expandWord (d.getLsbD 1) v
    else extendWord n (d.getLsbD 0) v
  else if opmodeOf p.srctl then extendWord n false v
  else if compandOn p p.srctl z then expandWord (d.getLsbD 0) v
  else extendWord n (decide (d = 1)) v

/-! ### Buffers (R843 to R847) -/

/-- The status code of a queue: 00 empty, 10 partially full, 11 full (R845). -/
def queueStatus (q : List SportWord) : BitVec 2 := if q.isEmpty then 0 else if q.length < 2 then 2 else 3

/-- Append a word, or replace the newest when the queue is full. -/
def queuePut (q : List SportWord) (w : SportWord) : List SportWord :=
  if q.length < 2 then q ++ [w] else q.dropLast ++ [w]

/-- A word arrives on a receive channel (R844); with PACK = 1 every second word completes a buffer word (R837). A half
that waits when PACK is cleared is dropped with the next word, which R837 does not say (DESIGN CHOICE, assumption
log 65). -/
def Sport.arrive (p : Sport) (z : Bool) (v : BitVec 32) : Sport :=
  let r := p.rx z
  let w := formatRx p z v
  let put (p : Sport) (w : BitVec 32) : Sport :=
    let full := decide (2 ≤ r.queue.length)
    let p := p.setRx z { r with queue := queuePut r.queue (plainWord w), half := none }
    if z then { p with rovfB := p.rovfB || full } else { p with rovfA := p.rovfA || full }
  if packOf p.srctl then
    match r.half with
    | none => p.setRx z { r with half := some (w.extractLsb' 0 16) }
    | some h => put p (w.extractLsb' 0 16 ++ h)
  else put p w

/-- The next serial word of a transmit channel (R843): the low bits of the oldest buffer word, or the last word again
with TUVF set; with PACK = 1 the two halves in turn. A half that waits when PACK is cleared is still sent, which
R837 does not say (DESIGN CHOICE, assumption log 65). Of a compressed word the low SLEN + 1 bits are sent, also when these
are fewer than eight, which R850 does not say (DESIGN CHOICE, assumption log 70). -/
def Sport.depart (p : Sport) (z : Bool) : BitVec 32 × Sport :=
  let t := p.tx z
  let n := wordBits p.stctl
  let compand (w : BitVec 32) : BitVec 32 :=
    if p.multi && p.mtccs.getLsbD p.chnl.toNat && !p.srctl.getLsbD 15 then
      compressWord ((dtypeOf p.stctl).getLsbD 1) w
    else w
  match t.half with
  | some h =>
    let v := extendWord n false (compand (h.signExtend 32))
    (v, p.setTx z { t with half := none, sent := v })
  | none =>
    let w := match t.queue with
      | w :: _ => w.toSend p z
      | [] => t.last
    let under := t.queue.isEmpty
    let first := if packOf p.stctl then (w.extractLsb' 0 16).signExtend 32 else w
    let v := extendWord n false (compand first)
    let p := p.setTx z { t with
      queue := t.queue.tail, last := w, sent := v,
      half := if packOf p.stctl then some (w.extractLsb' 16 16) else none }
    (v, if z then { p with tuvfB := p.tuvfB || under } else { p with tuvfA := p.tuvfA || under })

/-! ### Control registers (R834, R835, R847, R851) -/

/-- STCTL as it is read: control bits with the status of the buffers, or CHNL in multichannel mode. -/
def Sport.stctlView (p : Sport) : BitVec 32 :=
  let a := BitVec.ofBool p.tuvfA
  let sa := queueStatus p.txA.queue
  if p.multi then sa ++ a ++ p.chnl ++ p.stctl.extractLsb' 0 24
  else sa ++ a ++ queueStatus p.txB.queue ++ BitVec.ofBool p.tuvfB ++ p.stctl.extractLsb' 0 26

/-- SRCTL as it is read: control bits with the status of the buffers, or NCH in multichannel mode. -/
def Sport.srctlView (p : Sport) : BitVec 32 :=
  let a := BitVec.ofBool p.rovfA
  let sa := queueStatus p.rxA.queue
  if p.multi then sa ++ a ++ p.srctl.extractLsb' 0 29
  else sa ++ a ++ queueStatus p.rxB.queue ++ BitVec.ofBool p.rovfB ++ p.srctl.extractLsb' 0 26

/-- A port some of whose channels were disabled: their buffers are emptied and their sticky bits cleared (R851); a
transmitter with no channel enabled needs a frame sync again. CHNL is kept when multichannel mode is left, until RFS: R841
does not say (DESIGN CHOICE, assumption log 67). A change of mode counts as the enabling or disabling that it amounts to, not
the bit SPEN alone that R851 names: into multichannel mode channel B is emptied, and channel A is not, also when the write
that sets MCE clears SPEN_A; out of it channel A is emptied when SPEN_A is 0 (DESIGN CHOICE, assumption log 80). -/
def Sport.clearDisabled (p old : Sport) : Sport :=
  let p := { p with framed := p.framed && (p.txOn false || p.txOn true) }
  let p := if old.txOn false && !p.txOn false then { p with txA.queue := [], txA.half := none, tuvfA := false } else p
  let p := if old.txOn true && !p.txOn true then { p with txB.queue := [], txB.half := none, tuvfB := false } else p
  let p := if old.rxOn false && !p.rxOn false then { p with rxA.queue := [], rxA.half := none, rovfA := false } else p
  if old.rxOn true && !p.rxOn true then { p with rxB.queue := [], rxB.half := none, rovfB := false } else p

/-- A word length the manual excludes on an enabled channel: SLEN below 2, or PACK with more than 16 bits (R837; U34). -/
def badWord (ctl : BitVec 32) : Bool :=
  decide (wordBits ctl < 3) || (packOf ctl && decide (16 < wordBits ctl))

/-- STCTL stands cleared while the port is in multichannel mode, where it has no enable bit: as R831 has it cleared for a
change of mode, or not written yet. -/
def Sport.txCleared (p : Sport) : Bool := p.multi && decide (p.stctl.extractLsb' 0 24 = 0)

/-- An enabled direction with an excluded word length. A transmitter whose STCTL is cleared in multichannel mode counts as
not enabled (DESIGN CHOICE, assumption log 64). -/
def Sport.bad (p : Sport) : Bool :=
  ((p.txOn false || p.txOn true) && !p.txCleared && badWord p.stctl)
    || ((p.rxOn false || p.rxOn true) && badWord p.srctl)

/-- A slot in which such a transmitter would send all the same: with the word length of a cleared STCTL, which is
excluded (R837; U34). -/
def Sport.badSlot (p : Sport) : Bool := p.txCleared && p.mtcs.getLsbD p.chnl.toNat

/-- The four DMA channels of a port. -/
def portChans (x : Bool) : List (Fin 10) := if x then [2, 3, 6, 7] else [0, 1, 4, 5]

/-- Tell the channels of a list that their enable bits may have changed. -/
def State.chanControls (s old : State) : List (Fin 10) → State
  | [] => s
  | c :: cs => (s.chanControl c (old.den c)).chanControls old cs

/-- A control register of a port was written: clear what was disabled, start and stop DMA (R838, R851). -/
def State.sportControl (s : State) (x : Bool) (p : Sport) : Act State :=
  if p.bad then refuse .sportWord
  else .ok ((s.setSport x (p.clearDisabled (s.iop.sport x))).chanControls s (portChans x))

/-- A write of STCTL: status bits keep their value, and so do bits 25:24 in multichannel mode, where CHNL is read there
(R834). -/
def State.writeStctl (s : State) (x : Bool) (v : BitVec 32) : Act State :=
  let p := s.iop.sport x
  s.sportControl x { p with
    stctl := if p.multi then (v &&& 0x00FFFFFF) ||| (p.stctl &&& 0x03000000) else v &&& 0x03FFFFFF }

/-- A write of SRCTL: bits 28:26 are storage only in multichannel mode (R835). -/
def State.writeSrctl (s : State) (x : Bool) (v : BitVec 32) : Act State :=
  let multi := !v.getLsbD 11 && v.getLsbD 23
  s.sportControl x { s.iop.sport x with srctl := if multi then v &&& 0x1FFFFFFF else v &&& 0x03FFFFFF }

/-! ### Accesses of the buffers from the register side (R845, R846) -/

/-- Read a queue: the older word, or wait, or any value with BHD = 1. -/
def readQueue (s : State) (site : Nat) (q : List SportWord) : Act (BitVec 32 × List SportWord) :=
  match q with
  | w :: q => .ok (w.word, q)
  | [] => if s.bhd then .ok ((freeAt s site).setWidth 32, []) else .error (.stall .buffer)

/-- Write a queue: append, or wait, or overwrite the newest with BHD = 1. -/
def writeQueue (s : State) (q : List SportWord) (w : SportWord) : Act (List SportWord) :=
  if q.length < 2 || s.bhd then .ok (queuePut q w) else .error (.stall .buffer)

/-- Read TXx_z or RXx_z (`rx`). -/
def State.readBuffer (s : State) (x rx z : Bool) (site : Nat) : Act (BitVec 32 × State) :=
  let p := s.iop.sport x
  if rx then
    match readQueue s site (p.rx z).queue with
    | .ok (w, q) => .ok (w, s.setSport x (p.setRx z { p.rx z with queue := q }))
    | .error e => .error e
  else
    match readQueue s site (p.tx z).queue with
    | .ok (w, q) => .ok (w, s.setSport x (p.setTx z { p.tx z with queue := q }))
    | .error e => .error e

/-- Write TXx_z or RXx_z (`rx`). -/
def State.writeBuffer (s : State) (x rx z : Bool) (w : BitVec 32) : Act State :=
  let p := s.iop.sport x
  if rx then
    match writeQueue s (p.rx z).queue (newRx p z w) with
    | .ok q => .ok (s.setSport x (p.setRx z { p.rx z with queue := q }))
    | .error e => .error e
  else
    match writeQueue s (p.tx z).queue (newTx p z w) with
    | .ok q => .ok (s.setSport x (p.setTx z { p.tx z with queue := q, loaded := true }))
    | .error e => .error e

/-! ### Activity on the pins -/

/-- A serial word from outside arrives; with loopback or while the channel is disabled nothing happens (R842). -/
def Sport.rxWord (p : Sport) (z : Bool) (v : BitVec 32) : Sport :=
  if p.rxOn z && !p.multi && !p.srctl.getLsbD 22 then p.arrive z v else p

/-- A channel sends at a frame sync; with loopback the word arrives on the same channel (R842). Where the two word lengths
differ the bits that were sent, with zeros above them, are formatted by SLEN of the receiver, which R842 and R837 do not say
(DESIGN CHOICE, assumption log 75). -/
def Sport.sendOn (p : Sport) (z : Bool) : Sport :=
  if p.txOn z then
    let (v, p) := p.depart z
    if p.srctl.getLsbD 22 && p.rxOn z then p.arrive z v else p
  else p

/-- Whether an internal frame sync may happen (R836); an external one always may. In standard mode without TFSR only the
first word of an enabled transmitter needs one, and the words after it follow whether or not a buffer holds one (R836,
R852). With DITFS = 1 and both channels enabled, either buffer may be the one that was loaded: R836 does not say which
(DESIGN CHOICE, assumption log 58). With PACK = 1 the second half of a word that is still to be sent counts as a word the
buffer holds, also with FS_BOTH, which R836 does not say (DESIGN CHOICE, assumption log 86). -/
def Sport.tfsMay (p : Sport) : Bool :=
  let i2s := opmodeOf p.stctl
  let internal := if i2s then p.stctl.getLsbD 10 else p.stctl.getLsbD 14
  let has (z : Bool) : Bool := !(p.tx z).queue.isEmpty || (p.tx z).half.isSome
  if !internal then true
  else if !i2s && !p.stctl.getLsbD 13 && p.framed then true
  else if p.stctl.getLsbD 15 then (p.txOn false && p.txA.loaded) || (p.txOn true && p.txB.loaded)
  else if p.stctl.getLsbD 22 then has false && has true
  else (p.txOn false && has false) || (p.txOn true && has true)

/-- A transmit frame sync, or an unframed word, in standard and I2S mode (R843). -/
def Sport.txFrame (p : Sport) : Sport :=
  if p.multi || !p.tfsMay then p
  else
    let q := (p.sendOn false).sendOn true
    { q with framed := p.txOn false || p.txOn true }

/-- RFS in multichannel mode restarts the slots (R841). -/
def Sport.frameStart (p : Sport) : Sport := if p.multi then { p with chnl := 0 } else p

/-- Whether a received word is accepted by the receive comparison (R840). With PACK = 1 each serial word is compared, as it
is formatted to 32 bits; R840 does not say which word it then is (DESIGN CHOICE, assumption log 66). -/
def Sport.accepts (p : Sport) (v : BitVec 32) : Bool :=
  if p.srctl.getLsbD 15 && p.mtccs.getLsbD p.chnl.toNat then
    decide (((formatRx p false v ^^^ p.keywd) &&& ~~~p.imask) = 0) == p.srctl.getLsbD 20
  else true

/-- One slot of multichannel operation passes (R854). CHNL goes from NCH back to 0 (R841); from above an NCH that was
lowered it goes on to 31 and wraps, which R841 does not say (DESIGN CHOICE, assumption log 67). -/
def Sport.slot (p : Sport) (v : BitVec 32) : Sport :=
  if p.multi then
    let k := p.chnl.toNat
    let p := if p.mtcs.getLsbD k then (p.depart false).2 else p
    let p := if p.mrcs.getLsbD k && p.accepts v then p.arrive false v else p
    { p with chnl := if p.chnl = p.srctl.extractLsb' 24 5 then 0 else p.chnl + 1 }
  else p

/-- The single-word requests of a port, levels: receive and transmit (R848). -/
def Sport.rxRequest (p : Sport) : Bool :=
  (p.rxOn false && !p.rxDen false && !p.rxA.queue.isEmpty) || (p.rxOn true && !p.rxDen true && !p.rxB.queue.isEmpty)
def Sport.txRequest (p : Sport) : Bool :=
  (p.txOn false && !p.txDen false && decide (p.txA.queue.length < 2))
    || (p.txOn true && !p.txDen true && decide (p.txB.queue.length < 2))

end Sys2Proof.Machine
end

