-- ==== Sys2Proof/Machine/IopRegs.lean ====
section
/-! DEFINITION. The memory-mapped registers of the I/O processor: the register map, reads and writes with their side
effects (11_state_iop.md). Values travel left-justified in 48 bits, a 32-bit register in bits 47:16. -/

namespace Sys2Proof.Machine

/-! ### The map (R122) -/

/-- A DMA parameter register (R145). -/
inductive DmaParam where
  | ii | im | c | cp | gp | ei | em | ec
  deriving DecidableEq, Repr

/-- A timer register (R165). -/
inductive TimerReg where
  | period | width | count
  deriving DecidableEq, Repr

/-- A serial port register other than the data buffers (62_serial_ports.md R832). -/
inductive SportReg where
  | stctl | srctl | tdiv | rdiv | mtcs | mrcs | mtccs | mrccs | keywd | imask
  deriving DecidableEq, Repr

/-- A register of the I/O processor. -/
inductive IopReg where
  | syscon | virpt | wait | systat | bmax | bcnt | sdrdiv | ioctl | iostat | dmastat
  | epb (x : Bool) | msgr (k : Fin 8) | dmac (x : Bool)
  | timer (x : Bool) (r : TimerReg)
  | dma (c : Fin 10) (r : DmaParam)
  | sport (x : Bool) (r : SportReg)
  | buffer (x rx z : Bool)
  | reserved
  deriving DecidableEq, Repr

/-- The parameter register of a low address part; the last three exist for channels 8 and 9 only. -/
def dmaParamAt (c : Fin 10) (k : Nat) : IopReg :=
  if k = 0 then .dma c .ii else if k = 1 then .dma c .im else if k = 2 then .dma c .c
  else if k = 3 then .dma c .cp else if k = 4 then .dma c .gp
  else if c.val < 8 then .reserved
  else if k = 5 then .dma c .ei else if k = 6 then .dma c .em else .dma c .ec

/-- The channel whose parameters stand in a group of eight addresses from 0x30 on. -/
def dmaGroup (g : Nat) : Fin 10 :=
  if g = 0 then 1 else if g = 1 then 3 else if g = 2 then 8 else if g = 3 then 9 else if g = 4 then 5
  else if g = 5 then 7 else if g = 6 then 0 else if g = 7 then 2 else if g = 8 then 4 else 6

/-- The register of a serial port at an offset from 0xE0 or 0xF0. -/
def sportRegAt (x : Bool) (k : Nat) : IopReg :=
  if k = 0 then .sport x .stctl else if k = 1 then .sport x .srctl
  else if k = 2 then .buffer x false false else if k = 3 then .buffer x true false
  else if k = 4 then .sport x .tdiv else if k = 6 then .sport x .rdiv
  else if k = 8 then .sport x .mtcs else if k = 9 then .sport x .mrcs
  else if k = 10 then .sport x .mtccs else if k = 11 then .sport x .mrccs
  else if k = 12 then .sport x .keywd else if k = 13 then .sport x .imask
  else if k = 14 then .buffer x false true else if k = 15 then .buffer x true true
  else .reserved

/-- The register at an address (R122). -/
def iopRegAt (r : BitVec 8) : IopReg :=
  let a := r.toNat
  if a = 0x00 then .syscon else if a = 0x01 then .virpt else if a = 0x02 then .wait else if a = 0x03 then .systat
  else if a = 0x04 then .epb false else if a = 0x05 then .epb true
  else if a < 0x08 then .reserved
  else if a < 0x10 then .msgr (r.extractLsb' 0 3).toFin
  else if a = 0x18 then .bmax else if a = 0x19 then .bcnt
  else if a = 0x1C then .dmac false else if a = 0x1D then .dmac true
  else if a = 0x20 then .sdrdiv
  else if a = 0x28 then .timer false .period else if a = 0x29 then .timer false .width
  else if a = 0x2A then .timer false .count else if a = 0x2B then .timer true .period
  else if a = 0x2C then .timer true .width else if a = 0x2D then .timer true .count
  else if a = 0x2E then .ioctl else if a = 0x2F then .iostat
  else if a = 0x37 then .dmastat
  else if a < 0x30 then .reserved
  else if a < 0x80 then dmaParamAt (dmaGroup ((a - 0x30) / 8)) (a % 8)
  else if a < 0xE0 then .reserved
  else sportRegAt (decide (0xF0 ≤ a)) (a % 16)

/-! ### Views -/

/-- The levels of FLAG3-0 at the place ASTAT shows them (10_state.md R52). -/
def flagPins (flags : BitVec 12) : BitVec 32 := (flags.extractLsb' 0 4).setWidth 32 <<< 19

/-- A 32-bit register in the 48-bit image of a transfer. -/
def image32 (v : BitVec 32) : BitVec 48 := v ++ 0#16

/-- SYSTAT (R132): status maintained by hardware. -/
def State.systat (s : State) : BitVec 32 :=
  let y := s.iop.sys
  let h := s.iop.hid
  0#17 ++ BitVec.ofBool (decide (h.hostCount ≠ 0)) ++ BitVec.ofBool y.vipd ++ BitVec.ofBool (!h.swf.isEmpty)
    ++ 0#2 ++ s.env.id ++ 0#2 ++ y.crbm ++ 0#2 ++ BitVec.ofBool y.bsyn ++ BitVec.ofBool y.hstm

/-- The active bit and the chaining bit of a channel (61_dma_extport.md R743). -/
def State.chanActive (s : State) (c : Fin 10) : Bool :=
  (s.chan c).run && (s.den c || s.chen c) && !(s.chan c).chainReq
def State.chanChaining (s : State) (c : Fin 10) : Bool := (s.chan c).chainReq && !(s.chen c && !s.den c)

/-- The channels in the order of the bits of DMASTAT (R144). -/
def dmastatOrder : List (Fin 10) := [0, 2, 4, 6, 1, 3, 8, 9, 5, 7]

/-- Bits of a list of flags, the first at the place `k`. -/
def flagBits : List Bool → Nat → BitVec 32
  | [], _ => 0
  | b :: bs, k => (if b then 1#32 <<< k else 0) ||| flagBits bs (k + 1)

/-- DMASTAT as the channels stand now; the register shows it one cycle late (R144, 61_dma_extport.md R743). -/
def State.dmaStatus (s : State) : BitVec 32 :=
  flagBits (dmastatOrder.map s.chanActive ++ dmastatOrder.map s.chanChaining) 0

/-- The value of a DMA parameter register. -/
def State.dmaParam (s : State) (c : Fin 10) : DmaParam → BitVec 32
  | .ii => (s.chan c).ii.setWidth 32
  | .im => (s.chan c).im.setWidth 32
  | .c => (s.chan c).c.setWidth 32
  | .cp => (s.chan c).cp.setWidth 32
  | .gp => (s.chan c).gp.setWidth 32
  | .ei => (s.iop.ep (chanB c)).ei
  | .em => (s.iop.ep (chanB c)).em
  | .ec => (s.iop.ep (chanB c)).ec

/-- Store a DMA parameter register; the modifier of channels 0 to 7 is fixed (R145). -/
def State.setDmaParam (s : State) (c : Fin 10) (r : DmaParam) (v : BitVec 32) : State :=
  let d := s.chan c
  let e := s.iop.ep (chanB c)
  match r with
  | .ii => s.setChan c { d with ii := v.setWidth 17 }
  | .im => if c.val < 8 then s else s.setChan c { d with im := v.setWidth 16 }
  | .c => s.setChan c { d with c := v.setWidth 16 }
  | .cp => s.setChan c { d with cp := v.setWidth 18 }
  | .gp => s.setChan c { d with gp := v.setWidth 17 }
  | .ei => s.setEp (chanB c) { e with ei := v }
  | .em => s.setEp (chanB c) { e with em := v }
  | .ec => s.setEp (chanB c) { e with ec := v }

/-- The value of a serial port register (62_serial_ports.md R832). -/
def Sport.reg (p : Sport) : SportReg → BitVec 32
  | .stctl => p.stctlView
  | .srctl => p.srctlView
  | .tdiv => p.tdiv
  | .rdiv => p.rdiv
  | .mtcs => p.mtcs
  | .mrcs => p.mrcs
  | .mtccs => p.mtccs
  | .mrccs => p.mrccs
  | .keywd => p.keywd
  | .imask => p.imask

/-- A timer by number. -/
def Iop.timer (p : Iop) (x : Bool) : Timer := if x then p.timer1 else p.timer0
def State.setTimer (s : State) (x : Bool) (t : Timer) : State :=
  if x then { s with iop.timer1 := t } else { s with iop.timer0 := t }

/-- A timer register. -/
def Timer.reg (t : Timer) : TimerReg → BitVec 32
  | .period => t.period
  | .width => t.width
  | .count => t.count

/-! ### Reads -/

/-- An access of EPBx by the core depends on bits of DMACx that may still be old: DEN, a flush, and for PX, which moves
words of the internal width, DTYPE and PMODE (61_dma_extport.md R733; U39). -/
def ExtPort.unsureFor (e : ExtPort) (px : Bool) : Bool :=
  e.unsure 0 || e.unsure 13 || (px && (e.unsure 5 || e.unsure 6 || e.unsure 7))

/-- The core reads EPBx: a word of the internal width leaves the FIFO; empty, it waits, or with BHD = 1 gives any value
(61_dma_extport.md R745, R760; 11_state_iop.md R121, R150); with DMA on the buffer it is refused (R762). TRAN does not
matter: what an access against the direction it gives does R745 does not say (DESIGN CHOICE, assumption log 55). -/
def State.readEpb (s : State) (x px : Bool) (site : Nat) : Act (BitVec 48 × State) :=
  let e := s.iop.ep x
  if e.den || (s.chan (epChan x)).run then refuse .epbInUse
  else if e.unsureFor px then refuse .dmacLatency
  else
    match e.fifo with
    | w :: f => .ok (keepWidth (s.epbWidth x) w, s.setEp x { e with fifo := f })
    | [] => if s.bhd then .ok ((freeAt s site).setWidth 48, s) else .error (.stall .buffer)

/-- BCNT as it is read: while it counts, any value from 0 to BMAX (61_dma_extport.md R754). -/
def State.bcntRead (s : State) (site : Nat) : BitVec 32 :=
  let y := s.iop.sys
  if y.bmax ≠ 0 ∧ s.iop.hid.otherReq then BitVec.ofNat 32 ((freeAt s site).toNat % (y.bmax.toNat + 1)) else y.bcnt

/-- A packed access of EPBx by a host is in progress (61_dma_extport.md R774). -/
def State.hostPacks (s : State) (x : Bool) : Bool :=
  decide (s.iop.hid.hostCount ≠ 0) && decide (iopRegAt s.iop.hid.hostReg = .epb x)

/-- DMACx as it is read: the control bits with PS and FS. PS is the stage of a host pack while one is in progress (R775),
else that of the packing register of the buffer; which it is when both are, the spec does not say (DESIGN CHOICE,
assumption log 68). -/
def State.dmacView (s : State) (x : Bool) : BitVec 16 :=
  let e := s.iop.ep x
  let ps := if s.hostPacks x then stageOf s.iop.hid.hostCount else e.ps
  e.dmac ||| (ps.setWidth 16 <<< 3) ||| (e.fs.setWidth 16 <<< 14)

/-- Read a register by the core, to PX when `px` (R121, R122); a reserved one gives any value (R120, D10). -/
def State.readReg (s : State) (px : Bool) (r : BitVec 8) (site : Nat) : Act (BitVec 48 × State) :=
  let ok (v : BitVec 32) : Act (BitVec 48 × State) := .ok (image32 v, s)
  match iopRegAt r with
  | .syscon => ok s.iop.sys.syscon
  | .virpt => ok s.iop.sys.virpt
  | .wait => ok s.iop.sys.wait
  | .systat => ok s.systat
  | .bmax => ok s.iop.sys.bmax
  | .bcnt => ok (s.bcntRead site)
  | .sdrdiv => ok s.iop.sys.sdrdiv
  | .ioctl => ok s.iop.sys.ioctl
  | .iostat => ok s.iop.sys.iostat
  | .dmastat => ok s.iop.sys.dmastat
  | .epb x => s.readEpb x px site
  | .msgr k => ok (s.iop.sys.msgr.get k)
  | .dmac x => ok ((s.dmacView x).setWidth 32)
  | .timer x t => ok ((s.iop.timer x).reg t)
  | .dma c p => ok (s.dmaParam c p)
  | .sport x q => ok ((s.iop.sport x).reg q)
  | .buffer x rx z =>
    match s.readBuffer x rx z site with
    | .ok (v, s) => .ok (image32 v, s)
    | .error e => .error e
  | .reserved => .ok ((freeAt s site).setWidth 48, s)

/-! ### Writes -/

/-- The effect of HPFLSH: the host packing register and its status are cleared (61_dma_extport.md R774). -/
def State.flushHost (s : State) : State := { s with iop.hid.hostParts := [], iop.hid.hostCount := 0 }

/-- A value of SYSCON from before a write of `v`: HBW written from outside is new in it too (61_dma_extport.md R773). -/
def oldSyscon (outside : Bool) (v old : BitVec 32) : BitVec 32 :=
  if outside then (old &&& ~~~0x30#32) ||| (v &&& 0x30) else old

/-- A write of SYSCON (R130): SRST asks for the reset at the end of the step, HPFLSH reads 0 and takes effect two steps
later, whoever writes it (61_dma_extport.md R774); what the other bits control may still be old for one step (U36), but for HBW written from
outside, which is new at once (R773). A write of HPFLSH by the core is refused in a step in which a host has moved a word
(R774; U29). -/
def State.writeSyscon (s : State) (outside : Bool) (v : BitVec 32) : Act State :=
  if v.getLsbD 7 && !outside && s.iop.hid.hostWord then refuse .hostPacking
  else
    .ok { s with
      iop.hid.hostFlush := if v.getLsbD 7 then s.iop.hid.hostFlush ||| 4 else s.iop.hid.hostFlush
      iop.hid.coreFlush := s.iop.hid.coreFlush || (v.getLsbD 7 && !outside)
      iop.sys.syscon := v &&& 0xFFFFFF7E
      tr.syscon := some (oldSyscon outside v s.syscon, oldSyscon outside v ((s.tr.syscon.map (·.2)).getD s.iop.sys.syscon))
      tr.reset := s.tr.reset || v.getLsbD 0 }

/-- FLSH: the state of the channel and its buffer is cleared, a chain load of it in progress too, and a host pack into
the buffer, whose stage DMACx.PS shows (61_dma_extport.md R761, R775; assumption log 68). -/
def State.flushChan (s : State) (x : Bool) : State :=
  let t := if s.hostPacks x then s.flushHost else s
  (t.setEp x (t.iop.ep x).flush).stopChan (epChan x)

/-- A write of DMACx (R140; 61_dma_extport.md R738, R761): start or end of a sequence, flush. A reserved mode is refused
when DMA is enabled in it, a flush when the channel is active before the write or DEN is set by it, and DMA enabled by the
next instruction after a flush, since both take effect in one cycle (R733). -/
def State.writeDmac (s : State) (x : Bool) (v : BitVec 16) : Act State :=
  let c := epChan x
  let e := s.iop.ep x
  let on := v.getLsbD 0 || v.getLsbD 1
  if on && badDmaMode v then refuse .dmaMode
  else if v.getLsbD 13 && (v.getLsbD 0 || (s.chan c).run) then refuse .dmaFlush
  else if on && (e.dmacNew ||| e.dmacPrev).getLsbD 13 then refuse .dmaFlush
  else
    let t := (s.setEp x ((s.iop.ep x).withDmac v)).chanControl c (s.den c)
    .ok (if v.getLsbD 13 then t.flushChan x else t)

/-- A write of EPBx by the core: a word of the internal width enters the FIFO; full, it waits, or with BHD = 1 is lost
(61_dma_extport.md R745, R760, R762; 11_state_iop.md R121, R150), whatever TRAN (assumption log 55). -/
def State.writeEpb (s : State) (x px : Bool) (w : BitVec 48) : Act State :=
  let e := s.iop.ep x
  if e.den || (s.chan (epChan x)).run then refuse .epbInUse
  else if e.unsureFor px then refuse .dmacLatency
  else if e.room then .ok (s.setEp x { e with fifo := e.fifo ++ [keepWidth (s.epbWidth x) w] })
  else if s.bhd then .ok s
  else .error (.stall .buffer)

/-- A write of IOCTL (R160): SDSRF and SDPSS read 0; the SDRAM controller takes over its fields, and SDPSS powers up the
SDRAM of a bank that is configured (61_dma_extport.md R815; 90_conflicts.md C16). -/
def State.writeIoctl (s : State) (v : BitVec 32) : State :=
  { s with
    iop.sys.ioctl := v &&& 0x7FFF7FFF
    iop.hid.sdramCfg := v &&& 0x7FFF7FFF
    iop.hid.sdramUp := s.iop.hid.sdramUp || (v.getLsbD 31 && sdramOn v) }

/-- A write of IOSTAT reaches the flags that are outputs (R161). Ones written to the reserved bits 31:8 are dropped, and
these bits read 0, which R161 does not say (DESIGN CHOICE, assumption log 56). -/
def State.writeIostat (s : State) (v : BitVec 32) : State :=
  let out := (s.iop.sys.ioctl.extractLsb' 0 8).setWidth 32
  { s with iop.sys.iostat := (v &&& out) ||| (s.iop.sys.iostat &&& ~~~out) }

/-- A write of a timer register: TCOUNT is read-only; in WIDTH_CNT mode an enabled timer's registers are read-only; in
PWMOUT mode changing them while enabled is refused (R165; 60_exceptions.md R695, U22). Enable and mode are the bits of
MODE2 in effect (10_state.md R24, R51). -/
def State.writeTimer (s : State) (x : Bool) (r : TimerReg) (v : BitVec 32) : Act State :=
  let t := s.iop.timer x
  let on := s.lat.mode2.getLsbD (if x then 11 else 5)
  let pwmout := s.lat.mode2.getLsbD (if x then 12 else 7)
  match r with
  | .count => .ok s
  | .period => if !on then .ok (s.setTimer x { t with period := v }) else if pwmout then refuse .timerMisuse else .ok s
  | .width => if !on then .ok (s.setTimer x { t with width := v }) else if pwmout then refuse .timerMisuse else .ok s

/-- A write of a serial port register other than the control registers. -/
def Sport.setReg (p : Sport) (r : SportReg) (v : BitVec 32) : Sport :=
  match r with
  | .stctl | .srctl => p
  | .tdiv => { p with tdiv := v }
  | .rdiv => { p with rdiv := v }
  | .mtcs => { p with mtcs := v }
  | .mrcs => { p with mrcs := v }
  | .mtccs => { p with mtccs := v }
  | .mrccs => { p with mrccs := v }
  | .keywd => { p with keywd := v }
  | .imask => { p with imask := v }

/-- A write of a serial port register. -/
def State.writeSport (s : State) (x : Bool) (r : SportReg) (v : BitVec 32) : Act State :=
  match r with
  | .stctl => s.writeStctl x v
  | .srctl => s.writeSrctl x v
  | .tdiv => .ok (s.setSport x ((s.iop.sport x).setReg .tdiv v))
  | .rdiv => .ok (s.setSport x ((s.iop.sport x).setReg .rdiv v))
  | .mtcs => .ok (s.setSport x ((s.iop.sport x).setReg .mtcs v))
  | .mrcs => .ok (s.setSport x ((s.iop.sport x).setReg .mrcs v))
  | .mtccs => .ok (s.setSport x ((s.iop.sport x).setReg .mtccs v))
  | .mrccs => .ok (s.setSport x ((s.iop.sport x).setReg .mrccs v))
  | .keywd => .ok (s.setSport x ((s.iop.sport x).setReg .keywd v))
  | .imask => .ok (s.setSport x ((s.iop.sport x).setReg .imask v))

/-- The vector interrupt is in service: when the step began, by the mask pointer that counts for its latch (60_exceptions.md
R720), or now, after its entry in this step. Which mask pointer R690 means in a step that changes it the spec does not say
(DESIGN CHOICE, assumption log 71). -/
def State.inVector (s : State) : Bool := s.iop.hid.vectorService || s.sys.imaskp.getLsbD 5

/-- A write of VIRPT from outside: ignored in service, else VIPD and the request; it replaces an address that is pending,
as 60_exceptions.md R690 says and 92_eei_decisions.md D44 ("pending or in service") does not (DESIGN CHOICE, assumption
log 63). -/
def State.writeVirptOutside (s : State) (v : BitVec 32) : State :=
  if s.inVector then s
  else { s.request 5 with iop.sys.virpt := v, iop.sys.vipd := true }

/-- A write of a DMA parameter register: a new chain pointer can start a chain (61_dma_extport.md R738). Where the old bits
of DMACx, which may still be in effect, make it another thing, it is refused: a chain that only they start, and an index,
modifier or count written right after DEN was set (R733; U39). -/
def State.writeParam (s : State) (c : Fin 10) (p : DmaParam) (v : BitVec 32) : Act State :=
  let t := s.setDmaParam c p v
  let e := s.iop.ep (chanB c)
  match p with
  | .cp => if t.chainUnsure c then refuse .dmacLatency else .ok (t.chainStart c)
  | .gp => .ok t
  | _ => if decide (8 ≤ c.val) && e.den && e.unsure 0 then refuse .dmacLatency else .ok t

/-- Write a register (R121, R122): `outside` when an external master does. SYSTAT, BCNT, DMASTAT and TCOUNT ignore
writes (D13); a reserved address keeps nothing (D10). Ones written to the reserved bits 31 and 28:25 of WAIT are kept and
read back, which R136 does not say (DESIGN CHOICE, assumption log 60). `w` is left-justified; EPBx takes words of its
internal width when `px`. -/
def State.writeReg (s : State) (outside px : Bool) (r : BitVec 8) (w : BitVec 48) : Act State :=
  let v := w.extractLsb' 16 32
  match iopRegAt r with
  | .syscon => s.writeSyscon outside v
  | .virpt => .ok (if outside then s.writeVirptOutside v else { s with iop.sys.virpt := v })
  | .wait => .ok { s with iop.sys.wait := v }
  | .systat | .bcnt | .dmastat | .reserved => .ok s
  | .bmax => .ok { s with iop.sys.bmax := v }
  | .sdrdiv => .ok { s with iop.sys.sdrdiv := v, iop.hid.sdramDiv := v }
  | .ioctl => .ok (s.writeIoctl v)
  | .iostat => .ok (s.writeIostat v)
  | .epb x => s.writeEpb x px (if px then w else image32 v)
  | .msgr k => .ok { s with iop.sys.msgr := s.iop.sys.msgr.set k.val v k.isLt }
  | .dmac x => s.writeDmac x (v.setWidth 16)
  | .timer x t => s.writeTimer x t v
  | .dma c p => s.writeParam c p v
  | .sport x q => s.writeSport x q v
  | .buffer x rx z => s.writeBuffer x rx z v

end Sys2Proof.Machine
end

