-- ==== Sys2Proof/Machine/Access.lean ====
section
/-! DEFINITION. Address generation and the memory accesses of the core (20_memory.md section 4; 40_compute_move.md R351). -/

namespace Sys2Proof.Machine

/-! ### Address generation (20_memory.md R240 to R246) -/

/-- A value of the width of an address generator: 32 bits, or 24 for DAG2. -/
def dagTrunc (g : Bool) (v : BitVec 32) : BitVec 32 := if g then v &&& 0x00FFFFFF else v

/-- The signed value of a modifier (R240). -/
def dagSigned (g : Bool) (v : BitVec 32) : Int := if g then (v.setWidth 24).toInt else v.toInt

/-- Bit reversal over the width of an address generator (R245). -/
def dagReverse (g : Bool) (v : BitVec 32) : BitVec 32 :=
  if g then ((v.setWidth 24).reverse).setWidth 32 else v.reverse

/-- The circular wrap (R243). -/
def wrap (g : Bool) (i : BitVec 32) (mv : Int) (b l : BitVec 32) : BitVec 32 :=
  let next : Int := i.toNat + mv
  let r : Int :=
    if l = 0 then next
    else if 0 ≤ mv then (if next < b.toNat + l.toNat then next else next - l.toNat)
    else if (b.toNat : Int) ≤ next then next
    else next + l.toNat
  dagTrunc g (BitVec.ofInt 32 r)

/-- The overflow test of registers 7 and 15 (R244). -/
def wraps (i : BitVec 32) (mv : Int) (b l : BitVec 32) : Bool :=
  let next : Int := i.toNat + mv
  if mv < 0 then decide (next < b.toNat) else decide ((b.toNat : Int) + l.toNat ≤ next)

/-- The address that leaves an address generator: bit-reversed for I0 and I8 in that mode (R245). -/
def State.addrOut (s : State) (g : Bool) (k : BitVec 3) (a : BitVec 32) : BitVec 32 :=
  if k = 0 ∧ s.lat.mode1.getLsbD (if g then 0 else 1) then dagReverse g a else a

/-- Premodify (R241): the address is the sum, no register changes. -/
def State.premodify (s : State) (g : Bool) (k : BitVec 3) (m : BitVec 32) : BitVec 32 :=
  s.addrOut g k (dagTrunc g (s.dagReg .i g k + m))

/-- The address of a postmodify access: the index as it is (R242). -/
def State.postAddr (s : State) (g : Bool) (k : BitVec 3) : BitVec 32 := s.addrOut g k (s.dagReg .i g k)

/-- The update of a postmodify, or of MODIFY (R242, R244, R246). -/
def State.postmodify (s : State) (g : Bool) (k : BitVec 3) (m : BitVec 32) : State :=
  let i := s.dagReg .i g k
  let mv := dagSigned g m
  let b := s.dagReg .b g k
  let l := s.dagReg .l g k
  let t := s.setDagReg .i g k (wrap g i mv b l)
  if k = 7 ∧ wraps i mv b l then
    { t with
      sys.stky := t.sys.stky ||| (if g then 0x00040000 else 0x00020000)
      tr.requests := t.tr.requests ||| (if g then 0x00400000 else 0x00200000) }
  else t

/-- A 6-bit immediate modifier (R240). -/
def imm6 (d : BitVec 6) : BitVec 32 := d.signExtend 32

/-! ### Loads (40_compute_move.md R351) -/

/-- A register that takes short words without sign extension (20_memory.md R228). -/
def isPx : Ureg → Bool
  | .px | .px1 | .px2 => true
  | _ => false

/-- A 16-bit word extended to 32 bits (R228). -/
def State.extend (s : State) (u : Ureg) (v : BitVec 16) : BitVec 32 :=
  if s.lat.mode1.getLsbD 14 && !isPx u then v.signExtend 32 else v.setWidth 32

/-- A 48-bit word with the low eight bits 0, as the DM bus carries it (R231). -/
def upper40 (w : BitVec 48) : BitVec 48 := w &&& 0xFFFFFFFFFF00

/-- A load of a normal word: 48 bits for PX, else 40 or 32 by IMDW (R222, R231); a word that does not exist gives any
value (R204). -/
def State.loadNormal (s : State) (pm : Bool) (u : Ureg) (b : Bool) (off site : Nat) : BitVec 48 :=
  if u = .px ∨ s.imdw b then
    let w := if wideExists b off then s.readWide b off else (freeAt s site).setWidth 48
    if u = .px ∧ pm then w else upper40 w
  else image32 (s.readNarrow b off)

/-- A load as a 48-bit image over the PM bus (`pm`) or the DM bus: the value with the state it leaves. External accesses
wait for the bus. A load from the other processor's space is a 32-bit transfer of any value; the spec gives no case of PX
for it, whose low 16 bits are then 0 (DESIGN CHOICE, assumption log 27). -/
def State.load (s : State) (pm : Bool) (u : Ureg) (a : BitVec 32) (site : Nat) : Act (BitVec 48 × State) :=
  match place s.env.id a with
  | .iop r =>
    match s.readReg (decide (u = .px)) r site with
    | .ok (w, t) => .ok (if u = .px then (if pm then w else upper40 w) else image32 (w.extractLsb' 16 32), t)
    | .error e => .error e
  | .remote =>
    if s.remoteReady then .ok (image32 ((freeAt s site).setWidth 32), s.extTouch false)
    else .error (.stall (s.extWait true false))
  | .reserved => .ok ((freeAt s site).setWidth 48, s)
  | .normal b off => .ok (s.loadNormal pm u b off site, s)
  | .short c => .ok (image32 (s.extend u (s.cell false c)), s)
  | .ext n =>
    let px := decide (u = .px)
    if s.extReady px n then .ok (if px then s.extWideWord n site else image32 (s.extWord n site), s.extTouch px)
    else .error (.stall (s.extWait false px))

/-- The loaded image goes to its register: PX takes all 48 bits, any other register bits 47:8. -/
def State.loadWrite (s : State) (u : Ureg) (w : BitVec 48) : Act State :=
  if u = .px then .ok { s with data.px := w } else s.uregWrite true u (w.extractLsb' 8 40)

/-! ### Stores -/

/-- The 48-bit image of a register to be stored: PX has 48 bits of its own. -/
def State.storeImage (s : State) (u : Ureg) : Act (BitVec 48) :=
  if u = .px then .ok s.data.px
  else
    match s.uregRead u with
    | .ok d => .ok (d ++ 0#8)
    | .error e => .error e

/-- A store of a normal word; a word that does not exist keeps nothing. -/
def State.storeNormal (s : State) (pm px : Bool) (b : Bool) (off : Nat) (w : BitVec 48) : State :=
  if px || s.imdw b then
    if wideExists b off then s.queueWrite true (wideWrites b off (if px && pm then w else upper40 w)) else s
  else s.queueWrite false (narrowWrites b off (w.extractLsb' 16 32))

/-- A store of a 48-bit image over the PM bus (`pm`) or the DM bus; `px` when the register is PX. -/
def State.store (s : State) (pm px : Bool) (a : BitVec 32) (w : BitVec 48) : Act State :=
  match place s.env.id a with
  | .iop r => s.writeReg false px r (if px && !pm then upper40 w else w)
  | .remote =>
    if s.remoteReady then .ok (s.extTouch false) else .error (.stall (s.extWait true false))
  | .reserved => .ok s
  | .normal b off => .ok (s.storeNormal pm px b off w)
  | .short c => .ok (s.queueWrite false [(c, w.extractLsb' 16 16)])
  | .ext n =>
    if s.extReady px n then .ok ((if px then s.storeExtWide n w else s.storeExt n (w.extractLsb' 16 32)).extTouch px)
    else .error (.stall (s.extWait false px))

/-- A store of 32 immediate bits. R423 (42_immediate_move.md) has an IOP register receive them, R121 (a) of
11_state_iop.md says that this store cannot act on one: by the parameter Env.immToIop it does, as
after reset, or changes nothing (DESIGN CHOICE, assumption log 43). -/
def State.storeImm (s : State) (pm : Bool) (a data : BitVec 32) : Act State :=
  match place s.env.id a, s.env.immToIop with
  | .iop _, false => .ok s
  | _, _ => s.store pm false a (image32 data)

/-! ### Transfers -/

/-- A transfer between a universal register and memory: `d` stores, else loads; the state after the access, and what is
still to be written to the register. -/
def State.access (s : State) (g d : Bool) (u : Ureg) (a : BitVec 32) (site : Nat) : Act (Option (BitVec 48) × State) :=
  if d then
    match s.storeImage u with
    | .error e => .error e
    | .ok w =>
      match s.store g (decide (u = .px)) a w with
      | .ok t => .ok (none, t)
      | .error e => .error e
  else
    match s.load g u a site with
    | .ok (w, t) => .ok (some w, t)
    | .error e => .error e

/-- The register half of a transfer. -/
def State.settle (s : State) (u : Ureg) (v : Option (BitVec 48)) : Act State :=
  match v with
  | none => .ok s
  | some w => s.loadWrite u w

end Sys2Proof.Machine
end

