-- ==== Sys2Proof/Machine/Ops.lean ====
section
/-! DEFINITION. The operations of the sequencer: stacks, branches, entry to and return from an interrupt, reset
(10_state.md R38 to R45; 41_program_flow.md; 60_exceptions.md R670 to R675; 70_reset_and_hazards.md R901). -/

namespace Sys2Proof.Machine

/-! ### The PC stack (10_state.md R38, R39) -/

/-- `push_pc`: filling the 29th location requests SOVFI; a push on the full stack is lost and leaves PCSTKP = 31. -/
def State.pushPc (s : State) (a : BitVec 24) : State :=
  let n := s.stk.pcstkp
  if 30 ≤ n.toNat then { s with stk.pcstkp := 31 }
  else
    let t := { s with stk.pc := s.stk.pc.setIfInBounds n.toNat a, stk.pcstkp := n + 1 }
    if n = 28 then t.request 3 else t

/-- `pop_pc`: a pop of the empty stack is refused (U11). -/
def State.popPc (s : State) : Act State :=
  if s.pcEmpty then refuse .emptyPcStack else .ok { s with stk.pcstkp := s.stk.pcstkp - 1 }

/-! ### The loop stacks (R40, R41, R43) -/

/-- Push an entry and a count on the loop stacks, and with them the top of the loop, if it is known; on full stacks nothing
is saved, LSOV is set, SOVFI requested. -/
def State.pushLoop (s : State) (entry count : BitVec 32) (top : Option (BitVec 24)) : State :=
  let n := s.stk.depth.toNat
  if 6 ≤ n then { s.request 3 with sys.stky := s.sys.stky ||| 0x02000000 }
  else
    { s with
      stk.laddr := setSixth s.stk.laddr n entry
      stk.count := setSixth s.stk.count n count
      stk.initial := setSixth s.stk.initial n count
      stk.top := s.stk.top.setIfInBounds n top
      stk.depth := s.stk.depth + 1 }

/-- Pop the loop stacks; of empty ones it is refused (U11). -/
def State.popLoop (s : State) : Act State :=
  if s.looping then .ok { s with stk.depth := s.stk.depth - 1 } else refuse .emptyLoopStack

/-! ### The status stack (R44, R45) -/

/-- Push ASTAT and MODE1; a sixth pair is not saved, SSOV is set, SOVFI requested. -/
def State.pushStatus (s : State) : State :=
  if 5 ≤ s.stk.status.length then { s.request 3 with sys.stky := s.sys.stky ||| 0x00800000 }
  else { s with stk.status := (s.sys.astat, s.sys.mode1) :: s.stk.status }

/-- Pop ASTAT and MODE1; the flag pins' bits of ASTAT keep their value. Of the empty stack it is refused (U11). -/
def State.popStatus (s : State) : Act State :=
  match s.stk.status with
  | [] => refuse .emptyStatusStack
  | (astat, mode1) :: rest =>
    .ok { s with
      sys.astat := (astat &&& ~~~0x00780000#32) ||| (s.sys.astat &&& 0x00780000)
      sys.mode1 := mode1
      stk.status := rest
      tr.astatWritten := true }

/-! ### Branches (41_program_flow.md R381 to R385) -/

/-- A branch to `t`, delayed or not: the sequencer takes it at the end of the step. -/
def State.branchTo (s : State) (delayed : Bool) (t : BitVec 24) : State :=
  { s with tr.branch := if delayed then .delayed t else .nondelayed t }

/-- A call pushes the decode address, a delayed call the address after the fetch address (R382, R383). -/
def State.pushReturn (s : State) (delayed : Bool) : State :=
  s.pushPc (if delayed then s.pipe.faddr + 1 else s.pipe.daddr)

/-- The target of an indirect branch: I + M of DAG2, bit-reversed as any address of I8 (R385; 20_memory.md R248). -/
def State.indirectTarget (s : State) (pmi pmm : BitVec 3) : BitVec 24 :=
  (s.premodify true pmi (s.dagReg .m true pmm)).setWidth 24

/-- The targets of PC-relative branches (R385). -/
def State.relTarget (s : State) (d : BitVec 24) : BitVec 24 := s.pipe.pc + d
def State.rel6Target (s : State) (d : BitVec 6) : BitVec 24 := s.pipe.pc + d.signExtend 24

/-- `loop_abort`: the loop stacks and the PC stack are popped once; without a loop it is refused (R391; U18). -/
def State.loopAbort (s : State) : Act State := do (← s.popLoop).popPc

/-- `set_lrf(T)`: the loop re-entry flag (R393). -/
def State.setLrf (s : State) (t : BitVec 24) : State :=
  { s with pipe.lrf := s.looping && (decide (t = s.loopEnd) || decide (t = s.loopEnd - 1)) }

/-! ### Interrupts (60_exceptions.md) -/

/-- The lowest-numbered bit of a word that is set: the highest priority. -/
def lowestBit (v : BitVec 32) : Option Nat := (List.range 32).find? (v.getLsbD ·)

/-- Interrupts whose entry pushes the status stack: TMZHI, VIRPTI, IRQ2I, IRQ1I, IRQ0I (R671). -/
def pushesStatus (k : Nat) : Bool := decide (4 ≤ k) && decide (k ≤ 8)

/-- One bit of a word. -/
def bitOf (k : Nat) : BitVec 32 := 1#32 <<< k

/-- The base of the interrupt vector table (R652). -/
def State.vectorBase (s : State) : BitVec 24 :=
  if s.env.bootMode = .noboot ∧ s.syscon.getLsbD 2 = false then 0x020000 else 0x008000

/-- The vector of an interrupt (R653). -/
def State.vector (s : State) (k : Nat) : BitVec 24 :=
  if k = 5 then s.iop.sys.virpt.setWidth 24 else s.vectorBase + BitVec.ofNat 24 (4 * k)

/-- Taking interrupt `k`, whose vector is `v` (R670 to R672): the return address DADDR goes on the PC stack, ASTAT and
MODE1 on the status stack for the interrupts that push it, the latch bit is cleared and the bit of IMASKP set, the two
instructions behind the executed one are killed and the fetch goes to the vector; the core is no longer idle. No interrupt
is taken in the next two steps (R677). Taking one ends a boot (70_reset_and_hazards.md R905). -/
def State.takeInterrupt (s : State) (k : Nat) (v : BitVec 24) : State :=
  let t := s.pushPc s.pipe.daddr
  let t := if pushesStatus k then t.pushStatus else t
  { t with
    sys.irptl := t.sys.irptl &&& ~~~bitOf k
    sys.imaskp := t.sys.imaskp ||| bitOf k
    pipe.pc := s.pipe.daddr
    pipe.daddr := s.pipe.faddr
    pipe.faddr := v
    pipe.killP := true
    pipe.killD := true
    pipe.irP := none
    pipe.irD := none
    pipe.mode := .running
    pipe.slots := 0
    pipe.holdoff := 2
    iop.hid.booting := false
    iop.hid.bootRom := false }

/-- `clear_interrupt` (41_program_flow.md R392; 60_exceptions.md R675): the interrupt in service, the highest-priority
bit of IMASKP as it is in effect (10_state.md R24, R56), is over: its latch and mask pointer bits are cleared, the status
stack is popped if its entry pushed it, VIPD is cleared with VIRPTI (R690). With IMASKP = 0 nothing happens (D40). -/
def State.clearInterrupt (s : State) : Act State :=
  match lowestBit s.lat.imaskp with
  | none => .ok s
  | some k => do
    let t ← if pushesStatus k then s.popStatus else .ok s
    .ok { t with
      sys.irptl := t.sys.irptl &&& ~~~bitOf k
      sys.imaskp := t.sys.imaskp &&& ~~~bitOf k
      iop.sys.vipd := t.iop.sys.vipd && decide (k ≠ 5) }

/-- Return from an interrupt (41_program_flow.md R390): the return address is popped, the interrupt is over, the loop
re-entry flag is set as for RTS (LR) (D38), and the branch goes to the return address. -/
def State.returnFromInterrupt (s : State) (delayed : Bool) : Act State := do
  let t ← s.popPc
  let t ← t.clearInterrupt
  .ok ((t.setLrf s.pcTop).branchTo delayed s.pcTop)

/-- Return from a subroutine (R389). -/
def State.returnFromSub (s : State) (delayed lr : Bool) : Act State := do
  let t ← s.popPc
  .ok ((if lr then t.setLrf s.pcTop else t).branchTo delayed s.pcTop)

/-! ### Reset (70_reset_and_hazards.md R900, R901) -/

/-- The reset action: everything at its reset value but memory with the writes queued for it, the surroundings, whose flag
pins ASTAT shows (10_state.md R70; D8), and the SDRAM configuration, which only the RESET pin resets (D52). -/
def State.resetNow (s : State) : State :=
  let r := State.resetWith s.env.bootMode s.env.id
  { r with
    sys.astat := flagPins s.env.flags
    lat.astat := flagPins s.env.flags
    mem := s.mem
    shadow := s.shadow
    iop.hid.sdramUp := s.iop.hid.sdramUp && !s.tr.hardReset
    iop.hid.sdramCfg := if s.tr.hardReset then 0 else s.iop.hid.sdramCfg
    iop.hid.sdramDiv := if s.tr.hardReset then 0 else s.iop.hid.sdramDiv
    env := { s.env with irqPrev := 7 }
    free := s.free }

end Sys2Proof.Machine
end

