-- ==== Sys2Proof/Machine/ComputeRows.lean ====
section
/-! DEFINITION. The meanings of the rows of the COMPUTE field: fixed-point ALU (44_alu_fixed.md), floating-point ALU
(45_alu_float.md), multiplier (46_multiplier.md), shifter (47_shifter.md), multifunction (48_multifunction.md). -/

namespace Sys2Proof.Machine

/-- A compute operation alone: the unconditional Type 2 instruction that carries it (30_encoding.md R311). -/
def computeRow (s : State) (c : Compute) : Host.Outcome State Fault Refusal := finish s (.ok (s.compute c))

/-- compute ALU, 44_alu_fixed.md R475: `Rn = Rx + Ry` -/
def execAluAdd (rn rx ry : BitVec 4) (s : State) : Host.Outcome State Fault Refusal :=
  computeRow s (.alu .add rn rx ry)

/-- compute ALU, 44_alu_fixed.md R476: `Rn = Rx - Ry` -/
def execAluSub (rn rx ry : BitVec 4) (s : State) : Host.Outcome State Fault Refusal :=
  computeRow s (.alu .sub rn rx ry)

/-- compute ALU, 44_alu_fixed.md R477: `Rn = Rx + Ry + CI` -/
def execAluAddCi (rn rx ry : BitVec 4) (s : State) : Host.Outcome State Fault Refusal :=
  computeRow s (.alu .addCi rn rx ry)

/-- compute ALU, 44_alu_fixed.md R478: `Rn = Rx - Ry + CI - 1` -/
def execAluSubCi (rn rx ry : BitVec 4) (s : State) : Host.Outcome State Fault Refusal :=
  computeRow s (.alu .subCi rn rx ry)

/-- compute ALU, 44_alu_fixed.md R479: `Rn = (Rx + Ry)/2` -/
def execAluAvg (rn rx ry : BitVec 4) (s : State) : Host.Outcome State Fault Refusal :=
  computeRow s (.alu .avg rn rx ry)

/-- compute ALU, 44_alu_fixed.md R480: `COMP(Rx, Ry)` -/
def execAluComp (rn rx ry : BitVec 4) (s : State) : Host.Outcome State Fault Refusal :=
  computeRow s (.alu .comp rn rx ry)

/-- compute ALU, 44_alu_fixed.md R481: `Rn = Rx + CI` -/
def execAluIncCi (rn rx ry : BitVec 4) (s : State) : Host.Outcome State Fault Refusal :=
  computeRow s (.alu .incCi rn rx ry)

/-- compute ALU, 44_alu_fixed.md R482: `Rn = Rx + CI - 1` -/
def execAluDecCi (rn rx ry : BitVec 4) (s : State) : Host.Outcome State Fault Refusal :=
  computeRow s (.alu .decCi rn rx ry)

/-- compute ALU, 44_alu_fixed.md R483: `Rn = Rx + 1` -/
def execAluInc (rn rx ry : BitVec 4) (s : State) : Host.Outcome State Fault Refusal :=
  computeRow s (.alu .inc rn rx ry)

/-- compute ALU, 44_alu_fixed.md R484: `Rn = Rx - 1` -/
def execAluDec (rn rx ry : BitVec 4) (s : State) : Host.Outcome State Fault Refusal :=
  computeRow s (.alu .dec rn rx ry)

/-- compute ALU, 44_alu_fixed.md R485: `Rn = -Rx` -/
def execAluNeg (rn rx ry : BitVec 4) (s : State) : Host.Outcome State Fault Refusal :=
  computeRow s (.alu .neg rn rx ry)

/-- compute ALU, 44_alu_fixed.md R486: `Rn = ABS Rx` -/
def execAluAbs (rn rx ry : BitVec 4) (s : State) : Host.Outcome State Fault Refusal :=
  computeRow s (.alu .abs rn rx ry)

/-- compute ALU, 44_alu_fixed.md R487: `Rn = PASS Rx` -/
def execAluPass (rn rx ry : BitVec 4) (s : State) : Host.Outcome State Fault Refusal :=
  computeRow s (.alu .pass rn rx ry)

/-- compute ALU, 44_alu_fixed.md R488: `Rn = Rx AND Ry` -/
def execAluAnd (rn rx ry : BitVec 4) (s : State) : Host.Outcome State Fault Refusal :=
  computeRow s (.alu .and rn rx ry)

/-- compute ALU, 44_alu_fixed.md R489: `Rn = Rx OR Ry` -/
def execAluOr (rn rx ry : BitVec 4) (s : State) : Host.Outcome State Fault Refusal :=
  computeRow s (.alu .or rn rx ry)

/-- compute ALU, 44_alu_fixed.md R490: `Rn = Rx XOR Ry` -/
def execAluXor (rn rx ry : BitVec 4) (s : State) : Host.Outcome State Fault Refusal :=
  computeRow s (.alu .xor rn rx ry)

/-- compute ALU, 44_alu_fixed.md R491: `Rn = NOT Rx` -/
def execAluNot (rn rx ry : BitVec 4) (s : State) : Host.Outcome State Fault Refusal :=
  computeRow s (.alu .not rn rx ry)

/-- compute ALU, 44_alu_fixed.md R492: `Rn = MIN(Rx, Ry)` -/
def execAluMin (rn rx ry : BitVec 4) (s : State) : Host.Outcome State Fault Refusal :=
  computeRow s (.alu .min rn rx ry)

/-- compute ALU, 44_alu_fixed.md R493: `Rn = MAX(Rx, Ry)` -/
def execAluMax (rn rx ry : BitVec 4) (s : State) : Host.Outcome State Fault Refusal :=
  computeRow s (.alu .max rn rx ry)

/-- compute ALU, 44_alu_fixed.md R494: `Rn = CLIP Rx BY Ry` -/
def execAluClip (rn rx ry : BitVec 4) (s : State) : Host.Outcome State Fault Refusal :=
  computeRow s (.alu .clip rn rx ry)

/-- compute dual add/subtract, 48_multifunction.md R623: `Ra = Rx + Ry, Rs = Rx - Ry` -/
def execAluDual (rs ra rx ry : BitVec 4) (s : State) : Host.Outcome State Fault Refusal :=
  computeRow s (.dualAlu rs ra rx ry)

/-- compute ALU, 45_alu_float.md R506: `Fn = Fx + Fy` -/
def execFltAdd (rn rx ry : BitVec 4) (s : State) : Host.Outcome State Fault Refusal :=
  computeRow s (.flt .add rn rx ry)

/-- compute ALU, 45_alu_float.md R507: `Fn = Fx - Fy` -/
def execFltSub (rn rx ry : BitVec 4) (s : State) : Host.Outcome State Fault Refusal :=
  computeRow s (.flt .sub rn rx ry)

/-- compute ALU, 45_alu_float.md R508: `Fn = ABS(Fx + Fy)` -/
def execFltAbsAdd (rn rx ry : BitVec 4) (s : State) : Host.Outcome State Fault Refusal :=
  computeRow s (.flt .absAdd rn rx ry)

/-- compute ALU, 45_alu_float.md R509: `Fn = ABS(Fx - Fy)` -/
def execFltAbsSub (rn rx ry : BitVec 4) (s : State) : Host.Outcome State Fault Refusal :=
  computeRow s (.flt .absSub rn rx ry)

/-- compute ALU, 45_alu_float.md R510: `Fn = (Fx + Fy)/2` -/
def execFltAvg (rn rx ry : BitVec 4) (s : State) : Host.Outcome State Fault Refusal :=
  computeRow s (.flt .avg rn rx ry)

/-- compute ALU, 45_alu_float.md R511: `COMP(Fx, Fy)` -/
def execFltComp (rn rx ry : BitVec 4) (s : State) : Host.Outcome State Fault Refusal :=
  computeRow s (.flt .comp rn rx ry)

/-- compute ALU, 45_alu_float.md R512: `Fn = -Fx` -/
def execFltNeg (rn rx ry : BitVec 4) (s : State) : Host.Outcome State Fault Refusal :=
  computeRow s (.flt .neg rn rx ry)

/-- compute ALU, 45_alu_float.md R513: `Fn = ABS Fx` -/
def execFltAbs (rn rx ry : BitVec 4) (s : State) : Host.Outcome State Fault Refusal :=
  computeRow s (.flt .abs rn rx ry)

/-- compute ALU, 45_alu_float.md R514: `Fn = PASS Fx` -/
def execFltPass (rn rx ry : BitVec 4) (s : State) : Host.Outcome State Fault Refusal :=
  computeRow s (.flt .pass rn rx ry)

/-- compute ALU, 45_alu_float.md R515: `Fn = RND Fx` -/
def execFltRnd (rn rx ry : BitVec 4) (s : State) : Host.Outcome State Fault Refusal :=
  computeRow s (.flt .rnd rn rx ry)

/-- compute ALU, 45_alu_float.md R516: `Fn = SCALB Fx BY Ry` -/
def execFltScalb (rn rx ry : BitVec 4) (s : State) : Host.Outcome State Fault Refusal :=
  computeRow s (.flt .scalb rn rx ry)

/-- compute ALU, 45_alu_float.md R517: `Rn = MANT Fx` -/
def execFltMant (rn rx ry : BitVec 4) (s : State) : Host.Outcome State Fault Refusal :=
  computeRow s (.flt .mant rn rx ry)

/-- compute ALU, 45_alu_float.md R518: `Rn = LOGB Fx` -/
def execFltLogb (rn rx ry : BitVec 4) (s : State) : Host.Outcome State Fault Refusal :=
  computeRow s (.flt .logb rn rx ry)

/-- compute ALU, 45_alu_float.md R519: `Rn = FIX Fx` -/
def execFltFix (rn rx ry : BitVec 4) (s : State) : Host.Outcome State Fault Refusal :=
  computeRow s (.flt .fix rn rx ry)

/-- compute ALU, 45_alu_float.md R519: `Rn = FIX Fx BY Ry` -/
def execFltFixBy (rn rx ry : BitVec 4) (s : State) : Host.Outcome State Fault Refusal :=
  computeRow s (.flt .fixBy rn rx ry)

/-- compute ALU, 45_alu_float.md R520: `Rn = TRUNC Fx` -/
def execFltTrunc (rn rx ry : BitVec 4) (s : State) : Host.Outcome State Fault Refusal :=
  computeRow s (.flt .trunc rn rx ry)

/-- compute ALU, 45_alu_float.md R520: `Rn = TRUNC Fx BY Ry` -/
def execFltTruncBy (rn rx ry : BitVec 4) (s : State) : Host.Outcome State Fault Refusal :=
  computeRow s (.flt .truncBy rn rx ry)

/-- compute ALU, 45_alu_float.md R521: `Fn = FLOAT Rx` -/
def execFltFloat (rn rx ry : BitVec 4) (s : State) : Host.Outcome State Fault Refusal :=
  computeRow s (.flt .float rn rx ry)

/-- compute ALU, 45_alu_float.md R521: `Fn = FLOAT Rx BY Ry` -/
def execFltFloatBy (rn rx ry : BitVec 4) (s : State) : Host.Outcome State Fault Refusal :=
  computeRow s (.flt .floatBy rn rx ry)

/-- compute ALU, 45_alu_float.md R522: `Fn = RECIPS Fx` -/
def execFltRecips (rn rx ry : BitVec 4) (s : State) : Host.Outcome State Fault Refusal :=
  computeRow s (.flt .recips rn rx ry)

/-- compute ALU, 45_alu_float.md R523: `Fn = RSQRTS Fx` -/
def execFltRsqrts (rn rx ry : BitVec 4) (s : State) : Host.Outcome State Fault Refusal :=
  computeRow s (.flt .rsqrts rn rx ry)

/-- compute ALU, 45_alu_float.md R525: `Fn = Fx COPYSIGN Fy` -/
def execFltCopysign (rn rx ry : BitVec 4) (s : State) : Host.Outcome State Fault Refusal :=
  computeRow s (.flt .copysign rn rx ry)

/-- compute ALU, 45_alu_float.md R526: `Fn = MIN(Fx, Fy)` -/
def execFltMin (rn rx ry : BitVec 4) (s : State) : Host.Outcome State Fault Refusal :=
  computeRow s (.flt .min rn rx ry)

/-- compute ALU, 45_alu_float.md R527: `Fn = MAX(Fx, Fy)` -/
def execFltMax (rn rx ry : BitVec 4) (s : State) : Host.Outcome State Fault Refusal :=
  computeRow s (.flt .max rn rx ry)

/-- compute ALU, 45_alu_float.md R528: `Fn = CLIP Fx BY Fy` -/
def execFltClip (rn rx ry : BitVec 4) (s : State) : Host.Outcome State Fault Refusal :=
  computeRow s (.flt .clip rn rx ry)

/-- compute dual add/subtract, 48_multifunction.md R624: `Fa = Fx + Fy, Fs = Fx - Fy` -/
def execFltDual (rs ra rx ry : BitVec 4) (s : State) : Host.Outcome State Fault Refusal :=
  computeRow s (.dualFlt rs ra rx ry)

/-- compute multiplier, 46_multiplier.md R548: `Rn = Rx * Ry (mod2)` -/
def execMulRn (mod : Mod2) (rn rx ry : BitVec 4) (s : State) : Host.Outcome State Fault Refusal :=
  computeRow s (.mul (.rn mod) rn rx ry)

/-- compute multiplier, 46_multiplier.md R549: `MRF = Rx * Ry (mod2)` -/
def execMulMrf (mod : Mod2) (rn rx ry : BitVec 4) (s : State) : Host.Outcome State Fault Refusal :=
  computeRow s (.mul (.mrf mod) rn rx ry)

/-- compute multiplier, 46_multiplier.md R550: `MRB = Rx * Ry (mod2)` -/
def execMulMrb (mod : Mod2) (rn rx ry : BitVec 4) (s : State) : Host.Outcome State Fault Refusal :=
  computeRow s (.mul (.mrb mod) rn rx ry)

/-- compute multiplier, 46_multiplier.md R551: `Rn = MRF + Rx * Ry (mod2)` -/
def execMulRnMrfAdd (mod : Mod2) (rn rx ry : BitVec 4) (s : State) : Host.Outcome State Fault Refusal :=
  computeRow s (.mul (.rnMrfAdd mod) rn rx ry)

/-- compute multiplier, 46_multiplier.md R552: `Rn = MRB + Rx * Ry (mod2)` -/
def execMulRnMrbAdd (mod : Mod2) (rn rx ry : BitVec 4) (s : State) : Host.Outcome State Fault Refusal :=
  computeRow s (.mul (.rnMrbAdd mod) rn rx ry)

/-- compute multiplier, 46_multiplier.md R553: `MRF = MRF + Rx * Ry (mod2)` -/
def execMulMrfAdd (mod : Mod2) (rn rx ry : BitVec 4) (s : State) : Host.Outcome State Fault Refusal :=
  computeRow s (.mul (.mrfAdd mod) rn rx ry)

/-- compute multiplier, 46_multiplier.md R554: `MRB = MRB + Rx * Ry (mod2)` -/
def execMulMrbAdd (mod : Mod2) (rn rx ry : BitVec 4) (s : State) : Host.Outcome State Fault Refusal :=
  computeRow s (.mul (.mrbAdd mod) rn rx ry)

/-- compute multiplier, 46_multiplier.md R555: `Rn = MRF - Rx * Ry (mod2)` -/
def execMulRnMrfSub (mod : Mod2) (rn rx ry : BitVec 4) (s : State) : Host.Outcome State Fault Refusal :=
  computeRow s (.mul (.rnMrfSub mod) rn rx ry)

/-- compute multiplier, 46_multiplier.md R556: `Rn = MRB - Rx * Ry (mod2)` -/
def execMulRnMrbSub (mod : Mod2) (rn rx ry : BitVec 4) (s : State) : Host.Outcome State Fault Refusal :=
  computeRow s (.mul (.rnMrbSub mod) rn rx ry)

/-- compute multiplier, 46_multiplier.md R557: `MRF = MRF - Rx * Ry (mod2)` -/
def execMulMrfSub (mod : Mod2) (rn rx ry : BitVec 4) (s : State) : Host.Outcome State Fault Refusal :=
  computeRow s (.mul (.mrfSub mod) rn rx ry)

/-- compute multiplier, 46_multiplier.md R558: `MRB = MRB - Rx * Ry (mod2)` -/
def execMulMrbSub (mod : Mod2) (rn rx ry : BitVec 4) (s : State) : Host.Outcome State Fault Refusal :=
  computeRow s (.mul (.mrbSub mod) rn rx ry)

/-- compute multiplier, 46_multiplier.md R560: `Rn = SAT MRF (mod1)` -/
def execMulRnSatMrf (mod : Mod1) (rn rx ry : BitVec 4) (s : State) : Host.Outcome State Fault Refusal :=
  computeRow s (.mul (.rnSatMrf mod) rn rx ry)

/-- compute multiplier, 46_multiplier.md R561: `Rn = SAT MRB (mod1)` -/
def execMulRnSatMrb (mod : Mod1) (rn rx ry : BitVec 4) (s : State) : Host.Outcome State Fault Refusal :=
  computeRow s (.mul (.rnSatMrb mod) rn rx ry)

/-- compute multiplier, 46_multiplier.md R562: `MRF = SAT MRF (mod1)` -/
def execMulMrfSat (mod : Mod1) (rn rx ry : BitVec 4) (s : State) : Host.Outcome State Fault Refusal :=
  computeRow s (.mul (.mrfSat mod) rn rx ry)

/-- compute multiplier, 46_multiplier.md R563: `MRB = SAT MRB (mod1)` -/
def execMulMrbSat (mod : Mod1) (rn rx ry : BitVec 4) (s : State) : Host.Outcome State Fault Refusal :=
  computeRow s (.mul (.mrbSat mod) rn rx ry)

/-- compute multiplier, 46_multiplier.md R564: `Rn = RND MRF (mod1)` -/
def execMulRnRndMrf (signed : Bool) (rn rx ry : BitVec 4) (s : State) : Host.Outcome State Fault Refusal :=
  computeRow s (.mul (.rnRndMrf signed) rn rx ry)

/-- compute multiplier, 46_multiplier.md R565: `Rn = RND MRB (mod1)` -/
def execMulRnRndMrb (signed : Bool) (rn rx ry : BitVec 4) (s : State) : Host.Outcome State Fault Refusal :=
  computeRow s (.mul (.rnRndMrb signed) rn rx ry)

/-- compute multiplier, 46_multiplier.md R566: `MRF = RND MRF (mod1)` -/
def execMulMrfRnd (signed : Bool) (rn rx ry : BitVec 4) (s : State) : Host.Outcome State Fault Refusal :=
  computeRow s (.mul (.mrfRnd signed) rn rx ry)

/-- compute multiplier, 46_multiplier.md R567: `MRB = RND MRB (mod1)` -/
def execMulMrbRnd (signed : Bool) (rn rx ry : BitVec 4) (s : State) : Host.Outcome State Fault Refusal :=
  computeRow s (.mul (.mrbRnd signed) rn rx ry)

/-- compute multiplier, 46_multiplier.md R568: `MRF = 0` -/
def execMulMrfZero (rn rx ry : BitVec 4) (s : State) : Host.Outcome State Fault Refusal :=
  computeRow s (.mul .mrfZero rn rx ry)

/-- compute multiplier, 46_multiplier.md R568: `MRB = 0` -/
def execMulMrbZero (rn rx ry : BitVec 4) (s : State) : Host.Outcome State Fault Refusal :=
  computeRow s (.mul .mrbZero rn rx ry)

/-- compute multiplier, 46_multiplier.md R570: `Fn = Fx * Fy` -/
def execMulFloat (rn rx ry : BitVec 4) (s : State) : Host.Outcome State Fault Refusal :=
  computeRow s (.mul .fmul rn rx ry)

/-- compute shifter, 47_shifter.md R583: `Rn = LSHIFT Rx BY Ry` -/
def execShLshift (rn rx ry : BitVec 4) (s : State) : Host.Outcome State Fault Refusal :=
  computeRow s (.shift .lshift rn rx ry)

/-- compute shifter, 47_shifter.md R584: `Rn = Rn OR LSHIFT Rx BY Ry` -/
def execShOrLshift (rn rx ry : BitVec 4) (s : State) : Host.Outcome State Fault Refusal :=
  computeRow s (.shift .orLshift rn rx ry)

/-- compute shifter, 47_shifter.md R585: `Rn = ASHIFT Rx BY Ry` -/
def execShAshift (rn rx ry : BitVec 4) (s : State) : Host.Outcome State Fault Refusal :=
  computeRow s (.shift .ashift rn rx ry)

/-- compute shifter, 47_shifter.md R586: `Rn = Rn OR ASHIFT Rx BY Ry` -/
def execShOrAshift (rn rx ry : BitVec 4) (s : State) : Host.Outcome State Fault Refusal :=
  computeRow s (.shift .orAshift rn rx ry)

/-- compute shifter, 47_shifter.md R587: `Rn = ROT Rx BY Ry` -/
def execShRot (rn rx ry : BitVec 4) (s : State) : Host.Outcome State Fault Refusal :=
  computeRow s (.shift .rot rn rx ry)

/-- compute shifter, 47_shifter.md R588: `Rn = BCLR Rx BY Ry` -/
def execShBclr (rn rx ry : BitVec 4) (s : State) : Host.Outcome State Fault Refusal :=
  computeRow s (.shift .bclr rn rx ry)

/-- compute shifter, 47_shifter.md R589: `Rn = BSET Rx BY Ry` -/
def execShBset (rn rx ry : BitVec 4) (s : State) : Host.Outcome State Fault Refusal :=
  computeRow s (.shift .bset rn rx ry)

/-- compute shifter, 47_shifter.md R590: `Rn = BTGL Rx BY Ry` -/
def execShBtgl (rn rx ry : BitVec 4) (s : State) : Host.Outcome State Fault Refusal :=
  computeRow s (.shift .btgl rn rx ry)

/-- compute shifter, 47_shifter.md R591: `BTST Rx BY Ry` -/
def execShBtst (rn rx ry : BitVec 4) (s : State) : Host.Outcome State Fault Refusal :=
  computeRow s (.shift .btst rn rx ry)

/-- compute shifter, 47_shifter.md R592: `Rn = FDEP Rx BY Ry` -/
def execShFdep (rn rx ry : BitVec 4) (s : State) : Host.Outcome State Fault Refusal :=
  computeRow s (.shift .fdep rn rx ry)

/-- compute shifter, 47_shifter.md R593: `Rn = Rn OR FDEP Rx BY Ry` -/
def execShOrFdep (rn rx ry : BitVec 4) (s : State) : Host.Outcome State Fault Refusal :=
  computeRow s (.shift .orFdep rn rx ry)

/-- compute shifter, 47_shifter.md R594: `Rn = FDEP Rx BY Ry (SE)` -/
def execShFdepSe (rn rx ry : BitVec 4) (s : State) : Host.Outcome State Fault Refusal :=
  computeRow s (.shift .fdepSe rn rx ry)

/-- compute shifter, 47_shifter.md R595: `Rn = Rn OR FDEP Rx BY Ry (SE)` -/
def execShOrFdepSe (rn rx ry : BitVec 4) (s : State) : Host.Outcome State Fault Refusal :=
  computeRow s (.shift .orFdepSe rn rx ry)

/-- compute shifter, 47_shifter.md R596: `Rn = FEXT Rx BY Ry` -/
def execShFext (rn rx ry : BitVec 4) (s : State) : Host.Outcome State Fault Refusal :=
  computeRow s (.shift .fext rn rx ry)

/-- compute shifter, 47_shifter.md R597: `Rn = FEXT Rx BY Ry (SE)` -/
def execShFextSe (rn rx ry : BitVec 4) (s : State) : Host.Outcome State Fault Refusal :=
  computeRow s (.shift .fextSe rn rx ry)

/-- compute shifter, 47_shifter.md R598: `Rn = EXP Rx` -/
def execShExp (rn rx ry : BitVec 4) (s : State) : Host.Outcome State Fault Refusal :=
  computeRow s (.shift .exp rn rx ry)

/-- compute shifter, 47_shifter.md R599: `Rn = EXP Rx (EX)` -/
def execShExpEx (rn rx ry : BitVec 4) (s : State) : Host.Outcome State Fault Refusal :=
  computeRow s (.shift .expEx rn rx ry)

/-- compute shifter, 47_shifter.md R600: `Rn = LEFTZ Rx` -/
def execShLeftz (rn rx ry : BitVec 4) (s : State) : Host.Outcome State Fault Refusal :=
  computeRow s (.shift .leftz rn rx ry)

/-- compute shifter, 47_shifter.md R601: `Rn = LEFTO Rx` -/
def execShLefto (rn rx ry : BitVec 4) (s : State) : Host.Outcome State Fault Refusal :=
  computeRow s (.shift .lefto rn rx ry)

/-- compute shifter, 47_shifter.md R603: `Rn = FPACK Fx` -/
def execShFpack (rn rx ry : BitVec 4) (s : State) : Host.Outcome State Fault Refusal :=
  computeRow s (.shift .fpack rn rx ry)

/-- compute shifter, 47_shifter.md R604: `Fn = FUNPACK Rx` -/
def execShFunpack (rn rx ry : BitVec 4) (s : State) : Host.Outcome State Fault Refusal :=
  computeRow s (.shift .funpack rn rx ry)

/-- compute MR transfer, 46_multiplier.md R569: `Rk = MR0F` -/
def execMr0fRead (rk : BitVec 4) (s : State) : Host.Outcome State Fault Refusal :=
  computeRow s (.mrRead .mr0f rk)

/-- compute MR transfer, 46_multiplier.md R569: `MR0F = Rk` -/
def execMr0fWrite (rk : BitVec 4) (s : State) : Host.Outcome State Fault Refusal :=
  computeRow s (.mrWrite .mr0f rk)

/-- compute MR transfer, 46_multiplier.md R569: `Rk = MR1F` -/
def execMr1fRead (rk : BitVec 4) (s : State) : Host.Outcome State Fault Refusal :=
  computeRow s (.mrRead .mr1f rk)

/-- compute MR transfer, 46_multiplier.md R569: `MR1F = Rk` -/
def execMr1fWrite (rk : BitVec 4) (s : State) : Host.Outcome State Fault Refusal :=
  computeRow s (.mrWrite .mr1f rk)

/-- compute MR transfer, 46_multiplier.md R569: `Rk = MR2F` -/
def execMr2fRead (rk : BitVec 4) (s : State) : Host.Outcome State Fault Refusal :=
  computeRow s (.mrRead .mr2f rk)

/-- compute MR transfer, 46_multiplier.md R569: `MR2F = Rk` -/
def execMr2fWrite (rk : BitVec 4) (s : State) : Host.Outcome State Fault Refusal :=
  computeRow s (.mrWrite .mr2f rk)

/-- compute MR transfer, 46_multiplier.md R569: `Rk = MR0B` -/
def execMr0bRead (rk : BitVec 4) (s : State) : Host.Outcome State Fault Refusal :=
  computeRow s (.mrRead .mr0b rk)

/-- compute MR transfer, 46_multiplier.md R569: `MR0B = Rk` -/
def execMr0bWrite (rk : BitVec 4) (s : State) : Host.Outcome State Fault Refusal :=
  computeRow s (.mrWrite .mr0b rk)

/-- compute MR transfer, 46_multiplier.md R569: `Rk = MR1B` -/
def execMr1bRead (rk : BitVec 4) (s : State) : Host.Outcome State Fault Refusal :=
  computeRow s (.mrRead .mr1b rk)

/-- compute MR transfer, 46_multiplier.md R569: `MR1B = Rk` -/
def execMr1bWrite (rk : BitVec 4) (s : State) : Host.Outcome State Fault Refusal :=
  computeRow s (.mrWrite .mr1b rk)

/-- compute MR transfer, 46_multiplier.md R569: `Rk = MR2B` -/
def execMr2bRead (rk : BitVec 4) (s : State) : Host.Outcome State Fault Refusal :=
  computeRow s (.mrRead .mr2b rk)

/-- compute MR transfer, 46_multiplier.md R569: `MR2B = Rk` -/
def execMr2bWrite (rk : BitVec 4) (s : State) : Host.Outcome State Fault Refusal :=
  computeRow s (.mrWrite .mr2b rk)

/-- compute multiplier and ALU, 48_multifunction.md R626: `Rm = R3-0 * R7-4 (SSFR), Ra = R11-8 + R15-12` -/
def execParRmAdd (rm ra : BitVec 4) (rxm rym rxa rya : BitVec 2) (s : State) : Host.Outcome State Fault Refusal :=
  computeRow s (.mulAlu .rm .add rm ra rxm rym rxa rya)

/-- compute multiplier and ALU, 48_multifunction.md R626: `Rm = R3-0 * R7-4 (SSFR), Ra = R11-8 - R15-12` -/
def execParRmSub (rm ra : BitVec 4) (rxm rym rxa rya : BitVec 2) (s : State) : Host.Outcome State Fault Refusal :=
  computeRow s (.mulAlu .rm .sub rm ra rxm rym rxa rya)

/-- compute multiplier and ALU, 48_multifunction.md R626: `Rm = R3-0 * R7-4 (SSFR), Ra = (R11-8 + R15-12)/2` -/
def execParRmAvg (rm ra : BitVec 4) (rxm rym rxa rya : BitVec 2) (s : State) : Host.Outcome State Fault Refusal :=
  computeRow s (.mulAlu .rm .avg rm ra rxm rym rxa rya)

/-- compute multiplier and ALU, 48_multifunction.md R626: `MRF = MRF + R3-0 * R7-4 (SSF), Ra = R11-8 + R15-12` -/
def execParMrfAddAdd (rm ra : BitVec 4) (rxm rym rxa rya : BitVec 2) (s : State) : Host.Outcome State Fault Refusal :=
  computeRow s (.mulAlu .mrfAdd .add rm ra rxm rym rxa rya)

/-- compute multiplier and ALU, 48_multifunction.md R626: `MRF = MRF + R3-0 * R7-4 (SSF), Ra = R11-8 - R15-12` -/
def execParMrfAddSub (rm ra : BitVec 4) (rxm rym rxa rya : BitVec 2) (s : State) : Host.Outcome State Fault Refusal :=
  computeRow s (.mulAlu .mrfAdd .sub rm ra rxm rym rxa rya)

/-- compute multiplier and ALU, 48_multifunction.md R626: `MRF = MRF + R3-0 * R7-4 (SSF), Ra = (R11-8 + R15-12)/2` -/
def execParMrfAddAvg (rm ra : BitVec 4) (rxm rym rxa rya : BitVec 2) (s : State) : Host.Outcome State Fault Refusal :=
  computeRow s (.mulAlu .mrfAdd .avg rm ra rxm rym rxa rya)

/-- compute multiplier and ALU, 48_multifunction.md R626: `Rm = MRF + R3-0 * R7-4 (SSFR), Ra = R11-8 + R15-12` -/
def execParRmMrfAddAdd (rm ra : BitVec 4) (rxm rym rxa rya : BitVec 2) (s : State) :
    Host.Outcome State Fault Refusal :=
  computeRow s (.mulAlu .rmMrfAdd .add rm ra rxm rym rxa rya)

/-- compute multiplier and ALU, 48_multifunction.md R626: `Rm = MRF + R3-0 * R7-4 (SSFR), Ra = R11-8 - R15-12` -/
def execParRmMrfAddSub (rm ra : BitVec 4) (rxm rym rxa rya : BitVec 2) (s : State) :
    Host.Outcome State Fault Refusal :=
  computeRow s (.mulAlu .rmMrfAdd .sub rm ra rxm rym rxa rya)

/-- compute multiplier and ALU, 48_multifunction.md R626: `Rm = MRF + R3-0 * R7-4 (SSFR), Ra = (R11-8 + R15-12)/2` -/
def execParRmMrfAddAvg (rm ra : BitVec 4) (rxm rym rxa rya : BitVec 2) (s : State) :
    Host.Outcome State Fault Refusal :=
  computeRow s (.mulAlu .rmMrfAdd .avg rm ra rxm rym rxa rya)

/-- compute multiplier and ALU, 48_multifunction.md R626: `MRF = MRF - R3-0 * R7-4 (SSF), Ra = R11-8 + R15-12` -/
def execParMrfSubAdd (rm ra : BitVec 4) (rxm rym rxa rya : BitVec 2) (s : State) : Host.Outcome State Fault Refusal :=
  computeRow s (.mulAlu .mrfSub .add rm ra rxm rym rxa rya)

/-- compute multiplier and ALU, 48_multifunction.md R626: `MRF = MRF - R3-0 * R7-4 (SSF), Ra = R11-8 - R15-12` -/
def execParMrfSubSub (rm ra : BitVec 4) (rxm rym rxa rya : BitVec 2) (s : State) : Host.Outcome State Fault Refusal :=
  computeRow s (.mulAlu .mrfSub .sub rm ra rxm rym rxa rya)

/-- compute multiplier and ALU, 48_multifunction.md R626: `MRF = MRF - R3-0 * R7-4 (SSF), Ra = (R11-8 + R15-12)/2` -/
def execParMrfSubAvg (rm ra : BitVec 4) (rxm rym rxa rya : BitVec 2) (s : State) : Host.Outcome State Fault Refusal :=
  computeRow s (.mulAlu .mrfSub .avg rm ra rxm rym rxa rya)

/-- compute multiplier and ALU, 48_multifunction.md R626: `Rm = MRF - R3-0 * R7-4 (SSFR), Ra = R11-8 + R15-12` -/
def execParRmMrfSubAdd (rm ra : BitVec 4) (rxm rym rxa rya : BitVec 2) (s : State) :
    Host.Outcome State Fault Refusal :=
  computeRow s (.mulAlu .rmMrfSub .add rm ra rxm rym rxa rya)

/-- compute multiplier and ALU, 48_multifunction.md R626: `Rm = MRF - R3-0 * R7-4 (SSFR), Ra = R11-8 - R15-12` -/
def execParRmMrfSubSub (rm ra : BitVec 4) (rxm rym rxa rya : BitVec 2) (s : State) :
    Host.Outcome State Fault Refusal :=
  computeRow s (.mulAlu .rmMrfSub .sub rm ra rxm rym rxa rya)

/-- compute multiplier and ALU, 48_multifunction.md R626: `Rm = MRF - R3-0 * R7-4 (SSFR), Ra = (R11-8 + R15-12)/2` -/
def execParRmMrfSubAvg (rm ra : BitVec 4) (rxm rym rxa rya : BitVec 2) (s : State) :
    Host.Outcome State Fault Refusal :=
  computeRow s (.mulAlu .rmMrfSub .avg rm ra rxm rym rxa rya)

/-- compute multiplier and ALU, 48_multifunction.md R627: `Fm = F3-0 * F7-4, Fa = F11-8 + F15-12` -/
def execParFltAdd (rm ra : BitVec 4) (rxm rym rxa rya : BitVec 2) (s : State) : Host.Outcome State Fault Refusal :=
  computeRow s (.mulFlt .add rm ra rxm rym rxa rya)

/-- compute multiplier and ALU, 48_multifunction.md R627: `Fm = F3-0 * F7-4, Fa = F11-8 - F15-12` -/
def execParFltSub (rm ra : BitVec 4) (rxm rym rxa rya : BitVec 2) (s : State) : Host.Outcome State Fault Refusal :=
  computeRow s (.mulFlt .sub rm ra rxm rym rxa rya)

/-- compute multiplier and ALU, 48_multifunction.md R627: `Fm = F3-0 * F7-4, Fa = FLOAT R11-8 BY R15-12` -/
def execParFltFloatBy (rm ra : BitVec 4) (rxm rym rxa rya : BitVec 2) (s : State) :
    Host.Outcome State Fault Refusal :=
  computeRow s (.mulFlt .floatBy rm ra rxm rym rxa rya)

/-- compute multiplier and ALU, 48_multifunction.md R627: `Fm = F3-0 * F7-4, Ra = FIX F11-8 BY R15-12` -/
def execParFltFixBy (rm ra : BitVec 4) (rxm rym rxa rya : BitVec 2) (s : State) : Host.Outcome State Fault Refusal :=
  computeRow s (.mulFlt .fixBy rm ra rxm rym rxa rya)

/-- compute multiplier and ALU, 48_multifunction.md R627: `Fm = F3-0 * F7-4, Fa = (F11-8 + F15-12)/2` -/
def execParFltAvg (rm ra : BitVec 4) (rxm rym rxa rya : BitVec 2) (s : State) : Host.Outcome State Fault Refusal :=
  computeRow s (.mulFlt .avg rm ra rxm rym rxa rya)

/-- compute multiplier and ALU, 48_multifunction.md R627: `Fm = F3-0 * F7-4, Fa = ABS F11-8` -/
def execParFltAbs (rm ra : BitVec 4) (rxm rym rxa rya : BitVec 2) (s : State) : Host.Outcome State Fault Refusal :=
  computeRow s (.mulFlt .abs rm ra rxm rym rxa rya)

/-- compute multiplier and ALU, 48_multifunction.md R627: `Fm = F3-0 * F7-4, Fa = MAX(F11-8, F15-12)` -/
def execParFltMax (rm ra : BitVec 4) (rxm rym rxa rya : BitVec 2) (s : State) : Host.Outcome State Fault Refusal :=
  computeRow s (.mulFlt .max rm ra rxm rym rxa rya)

/-- compute multiplier and ALU, 48_multifunction.md R627: `Fm = F3-0 * F7-4, Fa = MIN(F11-8, F15-12)` -/
def execParFltMin (rm ra : BitVec 4) (rxm rym rxa rya : BitVec 2) (s : State) : Host.Outcome State Fault Refusal :=
  computeRow s (.mulFlt .min rm ra rxm rym rxa rya)

/-- compute multiplier and dual add/subtract, 48_multifunction.md R629: `Rm = R3-0 * R7-4 (SSFR), Ra = R11-8 + R15-12,
Rs = R11-8 - R15-12` -/
def execParMulDual (rs rm ra : BitVec 4) (rxm rym rxa rya : BitVec 2) (s : State) :
    Host.Outcome State Fault Refusal :=
  computeRow s (.mulDualAlu rs rm ra rxm rym rxa rya)

/-- compute multiplier and dual add/subtract, 48_multifunction.md R628: `Fm = F3-0 * F7-4, Fa = F11-8 + F15-12, Fs =
F11-8 - F15-12` -/
def execParFltDual (rs rm ra : BitVec 4) (rxm rym rxa rya : BitVec 2) (s : State) :
    Host.Outcome State Fault Refusal :=
  computeRow s (.mulDualFlt rs rm ra rxm rym rxa rya)

end Sys2Proof.Machine
end

