-- ==== Sys2Proof/Machine/Moves.lean ====
section
/-! DEFINITION. The meanings of the instructions that move data: Types 1 to 7 (40_compute_move.md) and 14 to 17
(42_immediate_move.md). -/

namespace Sys2Proof.Machine

/-! ### What the types share -/

/-- A conditional instruction (30_encoding.md R287): without its condition nothing happens. -/
def State.given (s : State) (cond : BitVec 5) (f : State → Act State) : Act State :=
  if s.cond cond then f (s.noteCond cond) else .ok (s.noteCond cond)

/-- A conditional access of external memory, or of the other processor's space, that is not made: the processor tries to
become bus master all the same (61_dma_extport.md R753). -/
def State.seekBus (s : State) (a : BitVec 32) : State :=
  match place s.env.id a with
  | .ext _ | .remote => { s with iop.hid.busWait := true }
  | _ => s

/-- A conditional instruction that makes an access at `a` (30_encoding.md R287; 20_memory.md R257). -/
def State.givenAccess (s : State) (cond : BitVec 5) (a : BitVec 32) (f : State → Act State) : Act State :=
  if s.cond cond then f (s.noteCond cond) else .ok ((s.noteCond cond).seekBus a)

/-- The address of a transfer through an index register: postmodify (`u`) or premodify (R357). -/
def State.indexedAddr (s : State) (u g : Bool) (i : BitVec 3) (mv : BitVec 32) : BitVec 32 :=
  if u then s.postAddr g i else s.premodify g i mv

/-- One transfer with a parallel operation (40_compute_move.md R350): the access first, with the values the registers
had, then the results of `c`, then the loaded value, then the index update `upd`. -/
def State.transfer (s : State) (g d : Bool) (u : Ureg) (a : BitVec 32) (c upd : State → State) : Act State :=
  match s.access g d u a 1 with
  | .error e => .error e
  | .ok (v, t) =>
    match (c t).settle u v with
    | .error e => .error e
    | .ok w => .ok (upd w)

/-- A transfer through an index register with modifier `mv`: premodify without update, or postmodify (R357). -/
def State.indexed (s : State) (u g d : Bool) (r : Ureg) (i : BitVec 3) (mv : BitVec 32) (c : State → State) : Act State :=
  s.transfer g d r (s.indexedAddr u g i mv) c
    (fun t => if u then t.postmodify g i mv else t)

/-- An immediate shift (40_compute_move.md R362). -/
def State.shiftImm (s : State) (op : ShiftImmOp) (dataex : BitVec 4) (data : BitVec 8) (rn rx : BitVec 4) : State :=
  s.shift op.toShiftOp rn rx (shiftImmediate op dataex data)

/-- Type 6 without a transfer. -/
def State.shiftImmAlone (s : State) (op : ShiftImmOp) (cond : BitVec 5) (dataex : BitVec 4) (data : BitVec 8)
    (rn rx : BitVec 4) : Host.Outcome State Fault Refusal :=
  finish s (s.given cond fun t => .ok (t.shiftImm op dataex data rn rx))

/-- Type 6 with a transfer: a postmodify access in parallel with the shift. -/
def State.shiftImmMove (s : State) (op : ShiftImmOp) (i m : BitVec 3) (cond : BitVec 5) (g d : Bool)
    (dataex dreg : BitVec 4) (data : BitVec 8) (rn rx : BitVec 4) : Host.Outcome State Fault Refusal :=
  finish s (s.givenAccess cond (s.indexedAddr true g i (s.dagReg .m g m)) fun t =>
    t.indexed true g d (.r dreg) i (t.dagReg .m g m) (·.shiftImm op dataex data rn rx))

/-- The two transfers of Type 1 (R355): the DM access before the PM access; a DM load wins over a PM load of the same
register (R353). -/
def State.dualMove (s : State) (dmd : Bool) (dmi dmm : BitVec 3) (pmd : Bool) (dmDreg : BitVec 4) (pmi pmm : BitVec 3)
    (pmDreg : BitVec 4) (c : Compute) : Act State := do
  let (v1, t) ← s.access false dmd (.r dmDreg) (s.postAddr false dmi) 1
  let (v2, t) ← t.access true pmd (.r pmDreg) (s.postAddr true pmi) 2
  let t ← (t.compute c).settle (.r pmDreg) v2
  let t ← t.settle (.r dmDreg) v1
  .ok ((t.postmodify false dmi (s.dagReg .m false dmm)).postmodify true pmi (s.dagReg .m true pmm))

/-! ### Group I: Types 1 to 7 (40_compute_move.md) -/

/-- Type 1, 40_compute_move.md R355: `compute, DM(Ia,Mb) = dreg1 | dreg1 = DM(Ia,Mb), PM(Ic,Md) = dreg2 | dreg2 =
PM(Ic,Md);` -/
def execDmPmDualMove (dmd : Bool) (dmi dmm : BitVec 3) (pmd : Bool) (dmDreg : BitVec 4) (pmi pmm : BitVec 3) (pmDreg : BitVec 4) (c : Compute) (s : State) :
    Host.Outcome State Fault Refusal :=
  finish s (s.dualMove dmd dmi dmm pmd dmDreg pmi pmm pmDreg c)

/-- Type 2, 40_compute_move.md R356: `IF COND compute;` -/
def execCompute (cond : BitVec 5) (c : Compute) (s : State) : Host.Outcome State Fault Refusal :=
  finish s (s.given cond fun t => .ok (t.compute c))

/-- Type 3, 40_compute_move.md R357: `IF COND compute, DM|PM(Ia,Mb) | DM|PM(Mb,Ia) = ureg | ureg = ...;`. A store of a
register of the DAG that forms the address, and a load of one with update, are refused (10_state.md R36; U10). -/
def execUregMemMoveM (u : Bool) (i m : BitVec 3) (cond : BitVec 5) (g d : Bool) (ureg : Ureg) (c : Compute) (s : State) :
    Host.Outcome State Fault Refusal :=
  finish s (s.givenAccess cond (s.indexedAddr u g i (s.dagReg .m g m)) fun t =>
    if uregInDag ureg g && (d || u) then refuse .sameDagTransfer
    else t.indexed u g d ureg i (t.dagReg .m g m) (·.compute c))

/-- Type 4, 40_compute_move.md R358: `IF COND compute, DM|PM(Ia,<data6>) | DM|PM(<data6>,Ia) = dreg | dreg = ...;` -/
def execDregMemMoveImm6 (i : BitVec 3) (g d u : Bool) (cond : BitVec 5) (data : BitVec 6) (dreg : BitVec 4) (c : Compute) (s : State) :
    Host.Outcome State Fault Refusal :=
  finish s (s.givenAccess cond (s.indexedAddr u g i (imm6 data)) fun t =>
    t.indexed u g d (.r dreg) i (imm6 data) (·.compute c))

/-- Type 5, 40_compute_move.md R359: `IF COND compute, ureg1 = ureg2;` -/
def execUregUregMove (src : Ureg) (cond : BitVec 5) (dst : Ureg) (c : Compute) (s : State) :
    Host.Outcome State Fault Refusal :=
  finish s (s.given cond fun t =>
    match t.uregRead src with
    | .error e => .error e
    | .ok v => (t.compute c).uregWrite false dst v)

/-- Type 6 (no memory transfer), 40_compute_move.md R362: `LSHIFT_imm` -/
def execLshiftImm (cond : BitVec 5) (dataex : BitVec 4) (data : BitVec 8) (rn rx : BitVec 4) (s : State) :
    Host.Outcome State Fault Refusal :=
  s.shiftImmAlone .lshift cond dataex data rn rx

/-- Type 6 (with memory transfer), 40_compute_move.md R362: `LSHIFT_imm_with_move` -/
def execLshiftImmMove (i m : BitVec 3) (cond : BitVec 5) (g d : Bool) (dataex dreg : BitVec 4) (data : BitVec 8) (rn rx : BitVec 4) (s : State) :
    Host.Outcome State Fault Refusal :=
  s.shiftImmMove .lshift i m cond g d dataex dreg data rn rx

/-- Type 6 (no memory transfer), 40_compute_move.md R362: `OR_LSHIFT_imm` -/
def execOrLshiftImm (cond : BitVec 5) (dataex : BitVec 4) (data : BitVec 8) (rn rx : BitVec 4) (s : State) :
    Host.Outcome State Fault Refusal :=
  s.shiftImmAlone .orLshift cond dataex data rn rx

/-- Type 6 (with memory transfer), 40_compute_move.md R362: `OR_LSHIFT_imm_with_move` -/
def execOrLshiftImmMove (i m : BitVec 3) (cond : BitVec 5) (g d : Bool) (dataex dreg : BitVec 4) (data : BitVec 8) (rn rx : BitVec 4) (s : State) :
    Host.Outcome State Fault Refusal :=
  s.shiftImmMove .orLshift i m cond g d dataex dreg data rn rx

/-- Type 6 (no memory transfer), 40_compute_move.md R362: `ASHIFT_imm` -/
def execAshiftImm (cond : BitVec 5) (dataex : BitVec 4) (data : BitVec 8) (rn rx : BitVec 4) (s : State) :
    Host.Outcome State Fault Refusal :=
  s.shiftImmAlone .ashift cond dataex data rn rx

/-- Type 6 (with memory transfer), 40_compute_move.md R362: `ASHIFT_imm_with_move` -/
def execAshiftImmMove (i m : BitVec 3) (cond : BitVec 5) (g d : Bool) (dataex dreg : BitVec 4) (data : BitVec 8) (rn rx : BitVec 4) (s : State) :
    Host.Outcome State Fault Refusal :=
  s.shiftImmMove .ashift i m cond g d dataex dreg data rn rx

/-- Type 6 (no memory transfer), 40_compute_move.md R362: `OR_ASHIFT_imm` -/
def execOrAshiftImm (cond : BitVec 5) (dataex : BitVec 4) (data : BitVec 8) (rn rx : BitVec 4) (s : State) :
    Host.Outcome State Fault Refusal :=
  s.shiftImmAlone .orAshift cond dataex data rn rx

/-- Type 6 (with memory transfer), 40_compute_move.md R362: `OR_ASHIFT_imm_with_move` -/
def execOrAshiftImmMove (i m : BitVec 3) (cond : BitVec 5) (g d : Bool) (dataex dreg : BitVec 4) (data : BitVec 8) (rn rx : BitVec 4) (s : State) :
    Host.Outcome State Fault Refusal :=
  s.shiftImmMove .orAshift i m cond g d dataex dreg data rn rx

/-- Type 6 (no memory transfer), 40_compute_move.md R362: `ROT_imm` -/
def execRotImm (cond : BitVec 5) (dataex : BitVec 4) (data : BitVec 8) (rn rx : BitVec 4) (s : State) :
    Host.Outcome State Fault Refusal :=
  s.shiftImmAlone .rot cond dataex data rn rx

/-- Type 6 (with memory transfer), 40_compute_move.md R362: `ROT_imm_with_move` -/
def execRotImmMove (i m : BitVec 3) (cond : BitVec 5) (g d : Bool) (dataex dreg : BitVec 4) (data : BitVec 8) (rn rx : BitVec 4) (s : State) :
    Host.Outcome State Fault Refusal :=
  s.shiftImmMove .rot i m cond g d dataex dreg data rn rx

/-- Type 6 (no memory transfer), 40_compute_move.md R362: `BCLR_imm` -/
def execBclrImm (cond : BitVec 5) (dataex : BitVec 4) (data : BitVec 8) (rn rx : BitVec 4) (s : State) :
    Host.Outcome State Fault Refusal :=
  s.shiftImmAlone .bclr cond dataex data rn rx

/-- Type 6 (with memory transfer), 40_compute_move.md R362: `BCLR_imm_with_move` -/
def execBclrImmMove (i m : BitVec 3) (cond : BitVec 5) (g d : Bool) (dataex dreg : BitVec 4) (data : BitVec 8) (rn rx : BitVec 4) (s : State) :
    Host.Outcome State Fault Refusal :=
  s.shiftImmMove .bclr i m cond g d dataex dreg data rn rx

/-- Type 6 (no memory transfer), 40_compute_move.md R362: `BSET_imm` -/
def execBsetImm (cond : BitVec 5) (dataex : BitVec 4) (data : BitVec 8) (rn rx : BitVec 4) (s : State) :
    Host.Outcome State Fault Refusal :=
  s.shiftImmAlone .bset cond dataex data rn rx

/-- Type 6 (with memory transfer), 40_compute_move.md R362: `BSET_imm_with_move` -/
def execBsetImmMove (i m : BitVec 3) (cond : BitVec 5) (g d : Bool) (dataex dreg : BitVec 4) (data : BitVec 8) (rn rx : BitVec 4) (s : State) :
    Host.Outcome State Fault Refusal :=
  s.shiftImmMove .bset i m cond g d dataex dreg data rn rx

/-- Type 6 (no memory transfer), 40_compute_move.md R362: `BTGL_imm` -/
def execBtglImm (cond : BitVec 5) (dataex : BitVec 4) (data : BitVec 8) (rn rx : BitVec 4) (s : State) :
    Host.Outcome State Fault Refusal :=
  s.shiftImmAlone .btgl cond dataex data rn rx

/-- Type 6 (with memory transfer), 40_compute_move.md R362: `BTGL_imm_with_move` -/
def execBtglImmMove (i m : BitVec 3) (cond : BitVec 5) (g d : Bool) (dataex dreg : BitVec 4) (data : BitVec 8) (rn rx : BitVec 4) (s : State) :
    Host.Outcome State Fault Refusal :=
  s.shiftImmMove .btgl i m cond g d dataex dreg data rn rx

/-- Type 6 (no memory transfer), 40_compute_move.md R362: `BTST_imm` -/
def execBtstImm (cond : BitVec 5) (dataex : BitVec 4) (data : BitVec 8) (rn rx : BitVec 4) (s : State) :
    Host.Outcome State Fault Refusal :=
  s.shiftImmAlone .btst cond dataex data rn rx

/-- Type 6 (with memory transfer), 40_compute_move.md R362: `BTST_imm_with_move` -/
def execBtstImmMove (i m : BitVec 3) (cond : BitVec 5) (g d : Bool) (dataex dreg : BitVec 4) (data : BitVec 8) (rn rx : BitVec 4) (s : State) :
    Host.Outcome State Fault Refusal :=
  s.shiftImmMove .btst i m cond g d dataex dreg data rn rx

/-- Type 6 (no memory transfer), 40_compute_move.md R362: `FDEP_imm` -/
def execFdepImm (cond : BitVec 5) (dataex : BitVec 4) (data : BitVec 8) (rn rx : BitVec 4) (s : State) :
    Host.Outcome State Fault Refusal :=
  s.shiftImmAlone .fdep cond dataex data rn rx

/-- Type 6 (with memory transfer), 40_compute_move.md R362: `FDEP_imm_with_move` -/
def execFdepImmMove (i m : BitVec 3) (cond : BitVec 5) (g d : Bool) (dataex dreg : BitVec 4) (data : BitVec 8) (rn rx : BitVec 4) (s : State) :
    Host.Outcome State Fault Refusal :=
  s.shiftImmMove .fdep i m cond g d dataex dreg data rn rx

/-- Type 6 (no memory transfer), 40_compute_move.md R362: `OR_FDEP_imm` -/
def execOrFdepImm (cond : BitVec 5) (dataex : BitVec 4) (data : BitVec 8) (rn rx : BitVec 4) (s : State) :
    Host.Outcome State Fault Refusal :=
  s.shiftImmAlone .orFdep cond dataex data rn rx

/-- Type 6 (with memory transfer), 40_compute_move.md R362: `OR_FDEP_imm_with_move` -/
def execOrFdepImmMove (i m : BitVec 3) (cond : BitVec 5) (g d : Bool) (dataex dreg : BitVec 4) (data : BitVec 8) (rn rx : BitVec 4) (s : State) :
    Host.Outcome State Fault Refusal :=
  s.shiftImmMove .orFdep i m cond g d dataex dreg data rn rx

/-- Type 6 (no memory transfer), 40_compute_move.md R362: `FDEP_SE_imm` -/
def execFdepSeImm (cond : BitVec 5) (dataex : BitVec 4) (data : BitVec 8) (rn rx : BitVec 4) (s : State) :
    Host.Outcome State Fault Refusal :=
  s.shiftImmAlone .fdepSe cond dataex data rn rx

/-- Type 6 (with memory transfer), 40_compute_move.md R362: `FDEP_SE_imm_with_move` -/
def execFdepSeImmMove (i m : BitVec 3) (cond : BitVec 5) (g d : Bool) (dataex dreg : BitVec 4) (data : BitVec 8) (rn rx : BitVec 4) (s : State) :
    Host.Outcome State Fault Refusal :=
  s.shiftImmMove .fdepSe i m cond g d dataex dreg data rn rx

/-- Type 6 (no memory transfer), 40_compute_move.md R362: `OR_FDEP_SE_imm` -/
def execOrFdepSeImm (cond : BitVec 5) (dataex : BitVec 4) (data : BitVec 8) (rn rx : BitVec 4) (s : State) :
    Host.Outcome State Fault Refusal :=
  s.shiftImmAlone .orFdepSe cond dataex data rn rx

/-- Type 6 (with memory transfer), 40_compute_move.md R362: `OR_FDEP_SE_imm_with_move` -/
def execOrFdepSeImmMove (i m : BitVec 3) (cond : BitVec 5) (g d : Bool) (dataex dreg : BitVec 4) (data : BitVec 8) (rn rx : BitVec 4) (s : State) :
    Host.Outcome State Fault Refusal :=
  s.shiftImmMove .orFdepSe i m cond g d dataex dreg data rn rx

/-- Type 6 (no memory transfer), 40_compute_move.md R362: `FEXT_imm` -/
def execFextImm (cond : BitVec 5) (dataex : BitVec 4) (data : BitVec 8) (rn rx : BitVec 4) (s : State) :
    Host.Outcome State Fault Refusal :=
  s.shiftImmAlone .fext cond dataex data rn rx

/-- Type 6 (with memory transfer), 40_compute_move.md R362: `FEXT_imm_with_move` -/
def execFextImmMove (i m : BitVec 3) (cond : BitVec 5) (g d : Bool) (dataex dreg : BitVec 4) (data : BitVec 8) (rn rx : BitVec 4) (s : State) :
    Host.Outcome State Fault Refusal :=
  s.shiftImmMove .fext i m cond g d dataex dreg data rn rx

/-- Type 6 (no memory transfer), 40_compute_move.md R362: `FEXT_SE_imm` -/
def execFextSeImm (cond : BitVec 5) (dataex : BitVec 4) (data : BitVec 8) (rn rx : BitVec 4) (s : State) :
    Host.Outcome State Fault Refusal :=
  s.shiftImmAlone .fextSe cond dataex data rn rx

/-- Type 6 (with memory transfer), 40_compute_move.md R362: `FEXT_SE_imm_with_move` -/
def execFextSeImmMove (i m : BitVec 3) (cond : BitVec 5) (g d : Bool) (dataex dreg : BitVec 4) (data : BitVec 8) (rn rx : BitVec 4) (s : State) :
    Host.Outcome State Fault Refusal :=
  s.shiftImmMove .fextSe i m cond g d dataex dreg data rn rx

/-- Type 7, 40_compute_move.md R364: `IF COND compute, MODIFY(Ia,Mb);` -/
def execModify (g : Bool) (cond : BitVec 5) (i m : BitVec 3) (c : Compute) (s : State) :
    Host.Outcome State Fault Refusal :=
  finish s (s.given cond fun t => .ok ((t.compute c).postmodify g i (t.dagReg .m g m)))

/-! ### Group III: Types 14 to 17 (42_immediate_move.md) -/

/-- Type 14, 42_immediate_move.md R421: `DM|PM(<addr32>) = ureg | ureg = DM|PM(<addr32>);`. The PM bus carries 24 bits
of the address. -/
def execUregMemDirect (g d : Bool) (ureg : Ureg) (addr : BitVec 32) (s : State) : Host.Outcome State Fault Refusal :=
  finish s (s.transfer g d ureg (dagTrunc g addr) id id)

/-- Type 15, 42_immediate_move.md R422: `DM|PM(<data32>,Ia) = ureg | ureg = DM|PM(<data32>,Ia);`. A register of the
DAG that forms the address is refused in both directions (U10). -/
def execUregMemImm32 (g : Bool) (i : BitVec 3) (d : Bool) (ureg : Ureg) (data : BitVec 32) (s : State) :
    Host.Outcome State Fault Refusal :=
  if uregInDag ureg g then .refused .sameDagTransfer
  else finish s (s.transfer g d ureg (s.premodify g i data) id id)

/-- Type 16, 42_immediate_move.md R423: `DM|PM(Ia,Mb) = <data32>;` -/
def execMemImm32Store (i m : BitVec 3) (g : Bool) (data : BitVec 32) (s : State) : Host.Outcome State Fault Refusal :=
  finish s (match s.storeImm g (s.postAddr g i) data with
    | .error e => .error e
    | .ok t => .ok (t.postmodify g i (s.dagReg .m g m)))

/-- Type 17, 42_immediate_move.md R424: `ureg = <data32>;` -/
def execUregImm32 (ureg : Ureg) (data : BitVec 32) (s : State) : Host.Outcome State Fault Refusal :=
  finish s (s.uregWrite false ureg (bus32 data))

end Sys2Proof.Machine
end

