-- ==== Sys2Proof/Machine/Flow.lean ====
section
/-! DEFINITION. The meanings of the instructions that control the flow of the program: Types 8 to 13
(41_program_flow.md). -/

namespace Sys2Proof.Machine

/-! ### What the types share -/

/-- A jump that is taken (41_program_flow.md R386). -/
def State.jumpTo (s : State) (a ci j : Bool) (t : BitVec 24) : Act State := do
  let s ← if a then s.loopAbort else .ok s
  let s ← if ci then s.clearInterrupt else .ok s
  .ok (s.branchTo j t)

/-- A call that is taken (R386). -/
def State.callTo (s : State) (j : Bool) (t : BitVec 24) : Act State := .ok ((s.pushReturn j).branchTo j t)

/-- Compute with a branch (R387): without ELSE the compute operation goes with the branch, with ELSE it replaces it. The
compute operation acts first, so a status pop of the branch has the last word on ASTAT (assumption log 22). -/
def State.branchElse (s : State) (cond : BitVec 5) (e : Bool) (c : Compute) (f : State → Act State) : Act State :=
  let t := s.noteCond cond
  if s.cond cond then f (if e then t else t.compute c) else .ok (if e then t.compute c else t)

/-- Type 10 (R388): a nondelayed jump, or else compute with a postmodify DM transfer. The jump leaves an external access
unmade (61_dma_extport.md R753). -/
def State.jumpElseMove (s : State) (d : Bool) (dmi dmm : BitVec 3) (cond : BitVec 5) (target : BitVec 24)
    (dreg : BitVec 4) (c : Compute) : Act State :=
  let t := s.noteCond cond
  if s.cond cond then .ok ((t.branchTo false target).seekBus (s.postAddr false dmi))
  else t.indexed true false d (.r dreg) dmi (t.dagReg .m false dmm) (·.compute c)

/-- The type bits of a counter loop, by its length (R394). -/
def counterType (len : BitVec 24) : BitVec 2 := if len = 1 then 1 else if len = 2 then 2 else 3

/-- A DO UNTIL (R394, R395): the loop stacks get the end address with its code and type, and the count; the PC stack
gets the top of the loop. In a delay slot, with an end that does not lie after it, or with the end of the loop it stands
in, it is refused (R384, R400, U18). -/
def State.startLoop (s : State) (len : BitVec 24) (code : BitVec 5) (kind : BitVec 2) (count : BitVec 32) : Act State :=
  if s.pipe.slots ≠ 0 then refuse .delaySlot
  else if len.toInt ≤ 0 || (s.looping && decide (s.loopEnd = s.pipe.pc + len)) then refuse .loopEnd
  else
    let e := s.pipe.pc + len
    let t := (s.pushLoop (kind ++ 0#1 ++ code ++ e) count (some (s.pipe.pc + 1))).pushPc (s.pipe.pc + 1)
    .ok (if s.stk.depth.toNat < 6 then { t with tr.loopStarted := some (e, kind) } else t)

/-! ### Types 8 and 9 (41_program_flow.md R386, R387) -/

/-- Type 8, 41_program_flow.md R386: `IF COND JUMP <addr24> (DB)(LA)(CI);` -/
def execJumpDirect (a : Bool) (cond : BitVec 5) (j ci : Bool) (addr : BitVec 24) (s : State) :
    Host.Outcome State Fault Refusal :=
  finish s (s.given cond fun t => t.jumpTo a ci j addr)

/-- Type 8, 41_program_flow.md R386: `IF COND JUMP (PC,<reladdr24>) (DB)(LA)(CI);` -/
def execJumpPcrel (a : Bool) (cond : BitVec 5) (j ci : Bool) (reladdr : BitVec 24) (s : State) :
    Host.Outcome State Fault Refusal :=
  finish s (s.given cond fun t => t.jumpTo a ci j (s.relTarget reladdr))

/-- Type 9, 41_program_flow.md R387: `IF COND JUMP (Md,Ic) (DB)(LA)(CI), compute | ELSE compute;` -/
def execJumpIndirect (a : Bool) (cond : BitVec 5) (pmi pmm : BitVec 3) (j e ci : Bool) (c : Compute) (s : State) :
    Host.Outcome State Fault Refusal :=
  finish s (s.branchElse cond e c fun t => t.jumpTo a ci j (s.indirectTarget pmi pmm))

/-- Type 9, 41_program_flow.md R387: `IF COND JUMP (PC,<reladdr6>) (DB)(LA)(CI), compute | ELSE compute;` -/
def execJumpPcrel6 (a : Bool) (cond : BitVec 5) (reladdr : BitVec 6) (j e ci : Bool) (c : Compute) (s : State) :
    Host.Outcome State Fault Refusal :=
  finish s (s.branchElse cond e c fun t => t.jumpTo a ci j (s.rel6Target reladdr))

/-- Type 8, 41_program_flow.md R386: `IF COND CALL <addr24> (DB)(LA)(CI);`. (LA) and (CI) are ignored. -/
def execCallDirect (_a : Bool) (cond : BitVec 5) (j _ci : Bool) (addr : BitVec 24) (s : State) :
    Host.Outcome State Fault Refusal :=
  finish s (s.given cond fun t => t.callTo j addr)

/-- Type 8, 41_program_flow.md R386: `IF COND CALL (PC,<reladdr24>) (DB)(LA)(CI);`. (LA) and (CI) are ignored. -/
def execCallPcrel (_a : Bool) (cond : BitVec 5) (j _ci : Bool) (reladdr : BitVec 24) (s : State) :
    Host.Outcome State Fault Refusal :=
  finish s (s.given cond fun t => t.callTo j (s.relTarget reladdr))

/-- Type 9, 41_program_flow.md R387: `IF COND CALL (Md,Ic) (DB)(LA)(CI), compute | ELSE compute;`. (LA) and (CI) are
ignored. -/
def execCallIndirect (_a : Bool) (cond : BitVec 5) (pmi pmm : BitVec 3) (j e _ci : Bool) (c : Compute) (s : State) :
    Host.Outcome State Fault Refusal :=
  finish s (s.branchElse cond e c fun t => t.callTo j (s.indirectTarget pmi pmm))

/-- Type 9, 41_program_flow.md R387: `IF COND CALL (PC,<reladdr6>) (DB)(LA)(CI), compute | ELSE compute;`. (LA) and
(CI) are ignored. -/
def execCallPcrel6 (_a : Bool) (cond : BitVec 5) (reladdr : BitVec 6) (j e _ci : Bool) (c : Compute) (s : State) :
    Host.Outcome State Fault Refusal :=
  finish s (s.branchElse cond e c fun t => t.callTo j (s.rel6Target reladdr))

/-! ### Types 10 and 11 (R388 to R390) -/

/-- Type 10, 41_program_flow.md R388: `IF COND JUMP (Md,Ic), ELSE compute, DM(Ia,Mb) = dreg | dreg = DM(Ia,Mb);` -/
def execJumpIndirectElseMove (d : Bool) (dmi dmm : BitVec 3) (cond : BitVec 5) (pmi pmm : BitVec 3) (dreg : BitVec 4) (c : Compute) (s : State) :
    Host.Outcome State Fault Refusal :=
  finish s (s.jumpElseMove d dmi dmm cond (s.indirectTarget pmi pmm) dreg c)

/-- Type 10, 41_program_flow.md R388: `IF COND JUMP (PC,<reladdr6>), ELSE compute, DM(Ia,Mb) = dreg | dreg =
DM(Ia,Mb);` -/
def execJumpPcrel6ElseMove (d : Bool) (dmi dmm : BitVec 3) (cond : BitVec 5) (reladdr : BitVec 6) (dreg : BitVec 4) (c : Compute) (s : State) :
    Host.Outcome State Fault Refusal :=
  finish s (s.jumpElseMove d dmi dmm cond (s.rel6Target reladdr) dreg c)

/-- Type 11, 41_program_flow.md R389: `IF COND RTS (DB)(LR), compute | ELSE compute;` -/
def execRts (cond : BitVec 5) (j e lr : Bool) (c : Compute) (s : State) : Host.Outcome State Fault Refusal :=
  finish s (s.branchElse cond e c fun t => t.returnFromSub j lr)

/-- Type 11, 41_program_flow.md R390: `IF COND RTI (DB), compute | ELSE compute;` -/
def execRti (cond : BitVec 5) (j e : Bool) (c : Compute) (s : State) : Host.Outcome State Fault Refusal :=
  finish s (s.branchElse cond e c fun t => t.returnFromInterrupt j)

/-! ### Types 12 and 13 (R394, R395) -/

/-- Type 12, 41_program_flow.md R394: `LCNTR = <data16>, DO <addr24>|(PC,<reladdr24>) UNTIL LCE;` -/
def execLcntrImmDo (data : BitVec 16) (reladdr : BitVec 24) (s : State) : Host.Outcome State Fault Refusal :=
  finish s (s.startLoop reladdr 15 (counterType reladdr) (data.setWidth 32))

/-- Type 12, 41_program_flow.md R394: `LCNTR = ureg, DO <addr24>|(PC,<reladdr24>) UNTIL LCE;` -/
def execLcntrUregDo (ureg : Ureg) (reladdr : BitVec 24) (s : State) : Host.Outcome State Fault Refusal :=
  finish s (match s.uregRead ureg with
    | .error e => .error e
    | .ok v => s.startLoop reladdr 15 (counterType reladdr) (v.extractLsb' 8 32))

/-- Type 13, 41_program_flow.md R395: `DO <addr24>|(PC,<reladdr24>) UNTIL termination;`. The count pushed is LCNTR. -/
def execDoUntil (term : BitVec 5) (reladdr : BitVec 24) (s : State) : Host.Outcome State Fault Refusal :=
  finish s (s.startLoop reladdr term (if term = 15 then counterType reladdr else 0)
    (sixth s.stk.count s.stk.depth.toNat))

end Sys2Proof.Machine
end

