-- ==== Sys2Proof/Machine/Misc.lean ====
section
/-! DEFINITION. The meanings of Types 18 to 24 (43_misc.md). -/

namespace Sys2Proof.Machine

/-! ### Type 18 (43_misc.md R440) -/

/-- A bit operation that writes the register through `UregWrite`. -/
def State.bitWrite (s : State) (r : Sreg) (f : BitVec 32 → BitVec 32) : Act State := s.sregWrite r (f (s.sregRead r))

/-- Type 18, 43_misc.md R440: `BIT SET sreg <data32>;` -/
def execBitSet (sreg : Sreg) (data : BitVec 32) (s : State) : Host.Outcome State Fault Refusal :=
  finish s (s.bitWrite sreg (· ||| data))

/-- Type 18, 43_misc.md R440: `BIT CLR sreg <data32>;` -/
def execBitClr (sreg : Sreg) (data : BitVec 32) (s : State) : Host.Outcome State Fault Refusal :=
  finish s (s.bitWrite sreg (· &&& ~~~data))

/-- Type 18, 43_misc.md R440: `BIT TGL sreg <data32>;` -/
def execBitTgl (sreg : Sreg) (data : BitVec 32) (s : State) : Host.Outcome State Fault Refusal :=
  finish s (s.bitWrite sreg (· ^^^ data))

/-- Type 18, 43_misc.md R440: `BIT TST sreg <data32>;` -/
def execBitTst (sreg : Sreg) (data : BitVec 32) (s : State) : Host.Outcome State Fault Refusal :=
  finish s (.ok (s.setBtf (decide (s.sregRead sreg &&& data = data))))

/-- Type 18, 43_misc.md R440: `BIT XOR sreg <data32>;` -/
def execBitXor (sreg : Sreg) (data : BitVec 32) (s : State) : Host.Outcome State Fault Refusal :=
  finish s (.ok (s.setBtf (decide (s.sregRead sreg = data))))

/-! ### Type 19 (R441, R442) -/

/-- Type 19, 43_misc.md R441: `MODIFY(Ia,<data32>);` -/
def execModifyImm (g : Bool) (i : BitVec 3) (data : BitVec 32) (s : State) : Host.Outcome State Fault Refusal :=
  finish s (.ok (s.postmodify g i data))

/-- Type 19, 43_misc.md R442: `BITREV(Ia,<data32>);` -/
def execBitrevImm (g : Bool) (i : BitVec 3) (data : BitVec 32) (s : State) : Host.Outcome State Fault Refusal :=
  finish s (.ok (s.setDagReg .i g i (dagReverse g (dagTrunc g (s.dagReg .i g i + data)))))

/-! ### Type 20 (R445 to R449) -/

/-- Every cache entry is invalid, for the very next instruction too, of which R449 does not say whether it still finds the old
entries (DESIGN CHOICE, assumption log 81). -/
def State.flush (s : State) : State :=
  { s with
    cache := s.cache.map fun c =>
      { c with first := { c.first with valid := false }, second := { c.second with valid := false } } }

/-- The operations of a Type 20 word, one bit each; a push with a pop of the same stack is refused (U18). PUSH LOOP
makes an entry of any value (U19) with LCNTR as its count; PUSH PCSTK pushes the address of the next instruction. -/
def State.stackOps (s : State) (lpu lpo spu spo ppu ppo fc : Bool) : Act State :=
  if (lpu && lpo) || (spu && spo) || (ppu && ppo) then refuse .pushPop
  else do
    let t := if lpu then s.pushLoop ((freeAt s 4).setWidth 32) (sixth s.stk.count s.stk.depth.toNat) none else s
    let t ← if lpo then t.popLoop else .ok t
    let t := if spu then t.pushStatus else t
    let t ← if spo then t.popStatus else .ok t
    let t := if ppu then t.pushPc (s.pipe.pc + 1) else t
    let t ← if ppo then t.popPc else .ok t
    .ok (if fc then t.flush else t)

/-- Type 20, 43_misc.md R447: `PUSH_LOOP` -/
def execPushLoop (lpo spu spo ppu ppo fc : Bool) (s : State) : Host.Outcome State Fault Refusal :=
  finish s (s.stackOps true lpo spu spo ppu ppo fc)

/-- Type 20, 43_misc.md R447: `POP_LOOP` -/
def execPopLoop (spu spo ppu ppo fc : Bool) (s : State) : Host.Outcome State Fault Refusal :=
  finish s (s.stackOps false true spu spo ppu ppo fc)

/-- Type 20, 43_misc.md R448: `PUSH_STS` -/
def execPushSts (spo ppu ppo fc : Bool) (s : State) : Host.Outcome State Fault Refusal :=
  finish s (s.stackOps false false true spo ppu ppo fc)

/-- Type 20, 43_misc.md R448: `POP_STS` -/
def execPopSts (ppu ppo fc : Bool) (s : State) : Host.Outcome State Fault Refusal :=
  finish s (s.stackOps false false false true ppu ppo fc)

/-- Type 20, 43_misc.md R446: `PUSH_PCSTK` -/
def execPushPcstk (ppo fc : Bool) (s : State) : Host.Outcome State Fault Refusal :=
  finish s (s.stackOps false false false false true ppo fc)

/-- Type 20, 43_misc.md R446: `POP_PCSTK` -/
def execPopPcstk (fc : Bool) (s : State) : Host.Outcome State Fault Refusal :=
  finish s (s.stackOps false false false false false true fc)

/-- Type 20, 43_misc.md R449: `FLUSH_CACHE` -/
def execFlushCache (fc : Bool) (s : State) : Host.Outcome State Fault Refusal :=
  finish s (s.stackOps false false false false false false fc)

/-! ### Types 21 to 24 (R450 to R454) -/

/-- The core stops executing; not in a delay slot (41_program_flow.md R384; U18). -/
def State.halt (s : State) (m : CoreMode) : Act State :=
  if s.pipe.slots ≠ 0 then refuse .delaySlot else .ok { s with pipe.mode := m }

/-- CJUMP: R2 gets the frame pointer I6, I6 the stack pointer I7, and a delayed branch is taken. -/
def State.cjump (s : State) (t : BitVec 24) : State :=
  ((s.setRreg 2 (bus32 (s.dagReg .i false 6))).setDagReg .i false 6 (s.dagReg .i false 7)).branchTo true t

/-- Type 21, 43_misc.md R450: `NOP` -/
def execNop (s : State) : Host.Outcome State Fault Refusal :=
  finish s (.ok s)

/-- Type 22, 43_misc.md R451: `IDLE` -/
def execIdle (s : State) : Host.Outcome State Fault Refusal :=
  finish s (s.halt .idle)

/-- Type 23, 43_misc.md R452: `IDLE16` -/
def execIdle16 (s : State) : Host.Outcome State Fault Refusal :=
  finish s (s.halt .idle16)

/-- Type 24, 43_misc.md R453: `CJUMP <addr24> (DB);` -/
def execCjumpDirect (addr : BitVec 24) (s : State) : Host.Outcome State Fault Refusal :=
  finish s (.ok (s.cjump addr))

/-- Type 24, 43_misc.md R453: `CJUMP (PC,<reladdr24>) (DB);` -/
def execCjumpPcrel (reladdr : BitVec 24) (s : State) : Host.Outcome State Fault Refusal :=
  finish s (.ok (s.cjump (s.relTarget reladdr)))

/-- Type 24, 43_misc.md R454: `RFRAME` -/
def execRframe (s : State) : Host.Outcome State Fault Refusal :=
  finish s (s.transfer false false (.i 6) (s.dagReg .i false 6) id
    (fun t => t.setDagReg .i false 7 (s.dagReg .i false 6)))

end Sys2Proof.Machine
end

