-- ==== Sys2Proof/Machine/Dispatch.lean ====
section
/-! DEFINITION. One arm per instruction. -/

namespace Sys2Proof.Machine

/-- The effect of an instruction on the state of its step. -/
def exec (i : Instr) (s : State) : Host.Outcome State Fault Refusal :=
  match i with
  | .dmPmDualMove dmd dmi dmm pmd dmDreg pmi pmm pmDreg c => Sys2Proof.Machine.execDmPmDualMove dmd dmi dmm pmd dmDreg pmi pmm pmDreg c s
  | .compute cond c => Sys2Proof.Machine.execCompute cond c s
  | .uregMemMoveM u ia m cond g d ureg c => Sys2Proof.Machine.execUregMemMoveM u ia m cond g d ureg c s
  | .dregMemMoveImm6 ia g d u cond data dreg c => Sys2Proof.Machine.execDregMemMoveImm6 ia g d u cond data dreg c s
  | .uregUregMove src cond dst c => Sys2Proof.Machine.execUregUregMove src cond dst c s
  | .lshiftImm cond dataex data rn rx => Sys2Proof.Machine.execLshiftImm cond dataex data rn rx s
  | .lshiftImmMove ia m cond g d dataex dreg data rn rx => Sys2Proof.Machine.execLshiftImmMove ia m cond g d dataex dreg data rn rx s
  | .orLshiftImm cond dataex data rn rx => Sys2Proof.Machine.execOrLshiftImm cond dataex data rn rx s
  | .orLshiftImmMove ia m cond g d dataex dreg data rn rx => Sys2Proof.Machine.execOrLshiftImmMove ia m cond g d dataex dreg data rn rx s
  | .ashiftImm cond dataex data rn rx => Sys2Proof.Machine.execAshiftImm cond dataex data rn rx s
  | .ashiftImmMove ia m cond g d dataex dreg data rn rx => Sys2Proof.Machine.execAshiftImmMove ia m cond g d dataex dreg data rn rx s
  | .orAshiftImm cond dataex data rn rx => Sys2Proof.Machine.execOrAshiftImm cond dataex data rn rx s
  | .orAshiftImmMove ia m cond g d dataex dreg data rn rx => Sys2Proof.Machine.execOrAshiftImmMove ia m cond g d dataex dreg data rn rx s
  | .rotImm cond dataex data rn rx => Sys2Proof.Machine.execRotImm cond dataex data rn rx s
  | .rotImmMove ia m cond g d dataex dreg data rn rx => Sys2Proof.Machine.execRotImmMove ia m cond g d dataex dreg data rn rx s
  | .bclrImm cond dataex data rn rx => Sys2Proof.Machine.execBclrImm cond dataex data rn rx s
  | .bclrImmMove ia m cond g d dataex dreg data rn rx => Sys2Proof.Machine.execBclrImmMove ia m cond g d dataex dreg data rn rx s
  | .bsetImm cond dataex data rn rx => Sys2Proof.Machine.execBsetImm cond dataex data rn rx s
  | .bsetImmMove ia m cond g d dataex dreg data rn rx => Sys2Proof.Machine.execBsetImmMove ia m cond g d dataex dreg data rn rx s
  | .btglImm cond dataex data rn rx => Sys2Proof.Machine.execBtglImm cond dataex data rn rx s
  | .btglImmMove ia m cond g d dataex dreg data rn rx => Sys2Proof.Machine.execBtglImmMove ia m cond g d dataex dreg data rn rx s
  | .btstImm cond dataex data rn rx => Sys2Proof.Machine.execBtstImm cond dataex data rn rx s
  | .btstImmMove ia m cond g d dataex dreg data rn rx => Sys2Proof.Machine.execBtstImmMove ia m cond g d dataex dreg data rn rx s
  | .fdepImm cond dataex data rn rx => Sys2Proof.Machine.execFdepImm cond dataex data rn rx s
  | .fdepImmMove ia m cond g d dataex dreg data rn rx => Sys2Proof.Machine.execFdepImmMove ia m cond g d dataex dreg data rn rx s
  | .orFdepImm cond dataex data rn rx => Sys2Proof.Machine.execOrFdepImm cond dataex data rn rx s
  | .orFdepImmMove ia m cond g d dataex dreg data rn rx => Sys2Proof.Machine.execOrFdepImmMove ia m cond g d dataex dreg data rn rx s
  | .fdepSeImm cond dataex data rn rx => Sys2Proof.Machine.execFdepSeImm cond dataex data rn rx s
  | .fdepSeImmMove ia m cond g d dataex dreg data rn rx => Sys2Proof.Machine.execFdepSeImmMove ia m cond g d dataex dreg data rn rx s
  | .orFdepSeImm cond dataex data rn rx => Sys2Proof.Machine.execOrFdepSeImm cond dataex data rn rx s
  | .orFdepSeImmMove ia m cond g d dataex dreg data rn rx => Sys2Proof.Machine.execOrFdepSeImmMove ia m cond g d dataex dreg data rn rx s
  | .fextImm cond dataex data rn rx => Sys2Proof.Machine.execFextImm cond dataex data rn rx s
  | .fextImmMove ia m cond g d dataex dreg data rn rx => Sys2Proof.Machine.execFextImmMove ia m cond g d dataex dreg data rn rx s
  | .fextSeImm cond dataex data rn rx => Sys2Proof.Machine.execFextSeImm cond dataex data rn rx s
  | .fextSeImmMove ia m cond g d dataex dreg data rn rx => Sys2Proof.Machine.execFextSeImmMove ia m cond g d dataex dreg data rn rx s
  | .modify g cond ia m c => Sys2Proof.Machine.execModify g cond ia m c s
  | .jumpDirect a cond j ci addr => Sys2Proof.Machine.execJumpDirect a cond j ci addr s
  | .jumpPcrel a cond j ci reladdr => Sys2Proof.Machine.execJumpPcrel a cond j ci reladdr s
  | .jumpIndirect a cond pmi pmm j e ci c => Sys2Proof.Machine.execJumpIndirect a cond pmi pmm j e ci c s
  | .jumpPcrel6 a cond reladdr j e ci c => Sys2Proof.Machine.execJumpPcrel6 a cond reladdr j e ci c s
  | .callDirect a cond j ci addr => Sys2Proof.Machine.execCallDirect a cond j ci addr s
  | .callPcrel a cond j ci reladdr => Sys2Proof.Machine.execCallPcrel a cond j ci reladdr s
  | .callIndirect a cond pmi pmm j e ci c => Sys2Proof.Machine.execCallIndirect a cond pmi pmm j e ci c s
  | .callPcrel6 a cond reladdr j e ci c => Sys2Proof.Machine.execCallPcrel6 a cond reladdr j e ci c s
  | .jumpIndirectElseMove d dmi dmm cond pmi pmm dreg c => Sys2Proof.Machine.execJumpIndirectElseMove d dmi dmm cond pmi pmm dreg c s
  | .jumpPcrel6ElseMove d dmi dmm cond reladdr dreg c => Sys2Proof.Machine.execJumpPcrel6ElseMove d dmi dmm cond reladdr dreg c s
  | .rts cond j e lr c => Sys2Proof.Machine.execRts cond j e lr c s
  | .rti cond j e c => Sys2Proof.Machine.execRti cond j e c s
  | .lcntrImmDo data reladdr => Sys2Proof.Machine.execLcntrImmDo data reladdr s
  | .lcntrUregDo ureg reladdr => Sys2Proof.Machine.execLcntrUregDo ureg reladdr s
  | .doUntil term reladdr => Sys2Proof.Machine.execDoUntil term reladdr s
  | .uregMemDirect g d ureg addr => Sys2Proof.Machine.execUregMemDirect g d ureg addr s
  | .uregMemImm32 g ia d ureg data => Sys2Proof.Machine.execUregMemImm32 g ia d ureg data s
  | .memImm32Store ia m g data => Sys2Proof.Machine.execMemImm32Store ia m g data s
  | .uregImm32 ureg data => Sys2Proof.Machine.execUregImm32 ureg data s
  | .bitSet sreg data => Sys2Proof.Machine.execBitSet sreg data s
  | .bitClr sreg data => Sys2Proof.Machine.execBitClr sreg data s
  | .bitTgl sreg data => Sys2Proof.Machine.execBitTgl sreg data s
  | .bitTst sreg data => Sys2Proof.Machine.execBitTst sreg data s
  | .bitXor sreg data => Sys2Proof.Machine.execBitXor sreg data s
  | .modifyImm g ia data => Sys2Proof.Machine.execModifyImm g ia data s
  | .bitrevImm g ia data => Sys2Proof.Machine.execBitrevImm g ia data s
  | .pushLoop lpo spu spo ppu ppo fc => Sys2Proof.Machine.execPushLoop lpo spu spo ppu ppo fc s
  | .popLoop spu spo ppu ppo fc => Sys2Proof.Machine.execPopLoop spu spo ppu ppo fc s
  | .pushSts spo ppu ppo fc => Sys2Proof.Machine.execPushSts spo ppu ppo fc s
  | .popSts ppu ppo fc => Sys2Proof.Machine.execPopSts ppu ppo fc s
  | .pushPcstk ppo fc => Sys2Proof.Machine.execPushPcstk ppo fc s
  | .popPcstk fc => Sys2Proof.Machine.execPopPcstk fc s
  | .flushCache fc => Sys2Proof.Machine.execFlushCache fc s
  | .nop => Sys2Proof.Machine.execNop s
  | .idle => Sys2Proof.Machine.execIdle s
  | .idle16 => Sys2Proof.Machine.execIdle16 s
  | .cjumpDirect addr => Sys2Proof.Machine.execCjumpDirect addr s
  | .cjumpPcrel reladdr => Sys2Proof.Machine.execCjumpPcrel reladdr s
  | .rframe => Sys2Proof.Machine.execRframe s
  | .aluAdd rn rx ry => Sys2Proof.Machine.execAluAdd rn rx ry s
  | .aluSub rn rx ry => Sys2Proof.Machine.execAluSub rn rx ry s
  | .aluAddCi rn rx ry => Sys2Proof.Machine.execAluAddCi rn rx ry s
  | .aluSubCi rn rx ry => Sys2Proof.Machine.execAluSubCi rn rx ry s
  | .aluAvg rn rx ry => Sys2Proof.Machine.execAluAvg rn rx ry s
  | .aluComp rn rx ry => Sys2Proof.Machine.execAluComp rn rx ry s
  | .aluIncCi rn rx ry => Sys2Proof.Machine.execAluIncCi rn rx ry s
  | .aluDecCi rn rx ry => Sys2Proof.Machine.execAluDecCi rn rx ry s
  | .aluInc rn rx ry => Sys2Proof.Machine.execAluInc rn rx ry s
  | .aluDec rn rx ry => Sys2Proof.Machine.execAluDec rn rx ry s
  | .aluNeg rn rx ry => Sys2Proof.Machine.execAluNeg rn rx ry s
  | .aluAbs rn rx ry => Sys2Proof.Machine.execAluAbs rn rx ry s
  | .aluPass rn rx ry => Sys2Proof.Machine.execAluPass rn rx ry s
  | .aluAnd rn rx ry => Sys2Proof.Machine.execAluAnd rn rx ry s
  | .aluOr rn rx ry => Sys2Proof.Machine.execAluOr rn rx ry s
  | .aluXor rn rx ry => Sys2Proof.Machine.execAluXor rn rx ry s
  | .aluNot rn rx ry => Sys2Proof.Machine.execAluNot rn rx ry s
  | .aluMin rn rx ry => Sys2Proof.Machine.execAluMin rn rx ry s
  | .aluMax rn rx ry => Sys2Proof.Machine.execAluMax rn rx ry s
  | .aluClip rn rx ry => Sys2Proof.Machine.execAluClip rn rx ry s
  | .aluDual rs ra rx ry => Sys2Proof.Machine.execAluDual rs ra rx ry s
  | .fltAdd rn rx ry => Sys2Proof.Machine.execFltAdd rn rx ry s
  | .fltSub rn rx ry => Sys2Proof.Machine.execFltSub rn rx ry s
  | .fltAbsAdd rn rx ry => Sys2Proof.Machine.execFltAbsAdd rn rx ry s
  | .fltAbsSub rn rx ry => Sys2Proof.Machine.execFltAbsSub rn rx ry s
  | .fltAvg rn rx ry => Sys2Proof.Machine.execFltAvg rn rx ry s
  | .fltComp rn rx ry => Sys2Proof.Machine.execFltComp rn rx ry s
  | .fltNeg rn rx ry => Sys2Proof.Machine.execFltNeg rn rx ry s
  | .fltAbs rn rx ry => Sys2Proof.Machine.execFltAbs rn rx ry s
  | .fltPass rn rx ry => Sys2Proof.Machine.execFltPass rn rx ry s
  | .fltRnd rn rx ry => Sys2Proof.Machine.execFltRnd rn rx ry s
  | .fltScalb rn rx ry => Sys2Proof.Machine.execFltScalb rn rx ry s
  | .fltMant rn rx ry => Sys2Proof.Machine.execFltMant rn rx ry s
  | .fltLogb rn rx ry => Sys2Proof.Machine.execFltLogb rn rx ry s
  | .fltFix rn rx ry => Sys2Proof.Machine.execFltFix rn rx ry s
  | .fltFixBy rn rx ry => Sys2Proof.Machine.execFltFixBy rn rx ry s
  | .fltTrunc rn rx ry => Sys2Proof.Machine.execFltTrunc rn rx ry s
  | .fltTruncBy rn rx ry => Sys2Proof.Machine.execFltTruncBy rn rx ry s
  | .fltFloat rn rx ry => Sys2Proof.Machine.execFltFloat rn rx ry s
  | .fltFloatBy rn rx ry => Sys2Proof.Machine.execFltFloatBy rn rx ry s
  | .fltRecips rn rx ry => Sys2Proof.Machine.execFltRecips rn rx ry s
  | .fltRsqrts rn rx ry => Sys2Proof.Machine.execFltRsqrts rn rx ry s
  | .fltCopysign rn rx ry => Sys2Proof.Machine.execFltCopysign rn rx ry s
  | .fltMin rn rx ry => Sys2Proof.Machine.execFltMin rn rx ry s
  | .fltMax rn rx ry => Sys2Proof.Machine.execFltMax rn rx ry s
  | .fltClip rn rx ry => Sys2Proof.Machine.execFltClip rn rx ry s
  | .fltDual rs ra rx ry => Sys2Proof.Machine.execFltDual rs ra rx ry s
  | .mulRn mod rn rx ry => Sys2Proof.Machine.execMulRn mod rn rx ry s
  | .mulMrf mod rn rx ry => Sys2Proof.Machine.execMulMrf mod rn rx ry s
  | .mulMrb mod rn rx ry => Sys2Proof.Machine.execMulMrb mod rn rx ry s
  | .mulRnMrfAdd mod rn rx ry => Sys2Proof.Machine.execMulRnMrfAdd mod rn rx ry s
  | .mulRnMrbAdd mod rn rx ry => Sys2Proof.Machine.execMulRnMrbAdd mod rn rx ry s
  | .mulMrfAdd mod rn rx ry => Sys2Proof.Machine.execMulMrfAdd mod rn rx ry s
  | .mulMrbAdd mod rn rx ry => Sys2Proof.Machine.execMulMrbAdd mod rn rx ry s
  | .mulRnMrfSub mod rn rx ry => Sys2Proof.Machine.execMulRnMrfSub mod rn rx ry s
  | .mulRnMrbSub mod rn rx ry => Sys2Proof.Machine.execMulRnMrbSub mod rn rx ry s
  | .mulMrfSub mod rn rx ry => Sys2Proof.Machine.execMulMrfSub mod rn rx ry s
  | .mulMrbSub mod rn rx ry => Sys2Proof.Machine.execMulMrbSub mod rn rx ry s
  | .mulRnSatMrf mod rn rx ry => Sys2Proof.Machine.execMulRnSatMrf mod rn rx ry s
  | .mulRnSatMrb mod rn rx ry => Sys2Proof.Machine.execMulRnSatMrb mod rn rx ry s
  | .mulMrfSat mod rn rx ry => Sys2Proof.Machine.execMulMrfSat mod rn rx ry s
  | .mulMrbSat mod rn rx ry => Sys2Proof.Machine.execMulMrbSat mod rn rx ry s
  | .mulRnRndMrf signed rn rx ry => Sys2Proof.Machine.execMulRnRndMrf signed rn rx ry s
  | .mulRnRndMrb signed rn rx ry => Sys2Proof.Machine.execMulRnRndMrb signed rn rx ry s
  | .mulMrfRnd signed rn rx ry => Sys2Proof.Machine.execMulMrfRnd signed rn rx ry s
  | .mulMrbRnd signed rn rx ry => Sys2Proof.Machine.execMulMrbRnd signed rn rx ry s
  | .mulMrfZero rn rx ry => Sys2Proof.Machine.execMulMrfZero rn rx ry s
  | .mulMrbZero rn rx ry => Sys2Proof.Machine.execMulMrbZero rn rx ry s
  | .mulFloat rn rx ry => Sys2Proof.Machine.execMulFloat rn rx ry s
  | .shLshift rn rx ry => Sys2Proof.Machine.execShLshift rn rx ry s
  | .shOrLshift rn rx ry => Sys2Proof.Machine.execShOrLshift rn rx ry s
  | .shAshift rn rx ry => Sys2Proof.Machine.execShAshift rn rx ry s
  | .shOrAshift rn rx ry => Sys2Proof.Machine.execShOrAshift rn rx ry s
  | .shRot rn rx ry => Sys2Proof.Machine.execShRot rn rx ry s
  | .shBclr rn rx ry => Sys2Proof.Machine.execShBclr rn rx ry s
  | .shBset rn rx ry => Sys2Proof.Machine.execShBset rn rx ry s
  | .shBtgl rn rx ry => Sys2Proof.Machine.execShBtgl rn rx ry s
  | .shBtst rn rx ry => Sys2Proof.Machine.execShBtst rn rx ry s
  | .shFdep rn rx ry => Sys2Proof.Machine.execShFdep rn rx ry s
  | .shOrFdep rn rx ry => Sys2Proof.Machine.execShOrFdep rn rx ry s
  | .shFdepSe rn rx ry => Sys2Proof.Machine.execShFdepSe rn rx ry s
  | .shOrFdepSe rn rx ry => Sys2Proof.Machine.execShOrFdepSe rn rx ry s
  | .shFext rn rx ry => Sys2Proof.Machine.execShFext rn rx ry s
  | .shFextSe rn rx ry => Sys2Proof.Machine.execShFextSe rn rx ry s
  | .shExp rn rx ry => Sys2Proof.Machine.execShExp rn rx ry s
  | .shExpEx rn rx ry => Sys2Proof.Machine.execShExpEx rn rx ry s
  | .shLeftz rn rx ry => Sys2Proof.Machine.execShLeftz rn rx ry s
  | .shLefto rn rx ry => Sys2Proof.Machine.execShLefto rn rx ry s
  | .shFpack rn rx ry => Sys2Proof.Machine.execShFpack rn rx ry s
  | .shFunpack rn rx ry => Sys2Proof.Machine.execShFunpack rn rx ry s
  | .mr0fRead rk => Sys2Proof.Machine.execMr0fRead rk s
  | .mr0fWrite rk => Sys2Proof.Machine.execMr0fWrite rk s
  | .mr1fRead rk => Sys2Proof.Machine.execMr1fRead rk s
  | .mr1fWrite rk => Sys2Proof.Machine.execMr1fWrite rk s
  | .mr2fRead rk => Sys2Proof.Machine.execMr2fRead rk s
  | .mr2fWrite rk => Sys2Proof.Machine.execMr2fWrite rk s
  | .mr0bRead rk => Sys2Proof.Machine.execMr0bRead rk s
  | .mr0bWrite rk => Sys2Proof.Machine.execMr0bWrite rk s
  | .mr1bRead rk => Sys2Proof.Machine.execMr1bRead rk s
  | .mr1bWrite rk => Sys2Proof.Machine.execMr1bWrite rk s
  | .mr2bRead rk => Sys2Proof.Machine.execMr2bRead rk s
  | .mr2bWrite rk => Sys2Proof.Machine.execMr2bWrite rk s
  | .parRmAdd rm ra rxm rym rxa rya => Sys2Proof.Machine.execParRmAdd rm ra rxm rym rxa rya s
  | .parRmSub rm ra rxm rym rxa rya => Sys2Proof.Machine.execParRmSub rm ra rxm rym rxa rya s
  | .parRmAvg rm ra rxm rym rxa rya => Sys2Proof.Machine.execParRmAvg rm ra rxm rym rxa rya s
  | .parMrfAddAdd rm ra rxm rym rxa rya => Sys2Proof.Machine.execParMrfAddAdd rm ra rxm rym rxa rya s
  | .parMrfAddSub rm ra rxm rym rxa rya => Sys2Proof.Machine.execParMrfAddSub rm ra rxm rym rxa rya s
  | .parMrfAddAvg rm ra rxm rym rxa rya => Sys2Proof.Machine.execParMrfAddAvg rm ra rxm rym rxa rya s
  | .parRmMrfAddAdd rm ra rxm rym rxa rya => Sys2Proof.Machine.execParRmMrfAddAdd rm ra rxm rym rxa rya s
  | .parRmMrfAddSub rm ra rxm rym rxa rya => Sys2Proof.Machine.execParRmMrfAddSub rm ra rxm rym rxa rya s
  | .parRmMrfAddAvg rm ra rxm rym rxa rya => Sys2Proof.Machine.execParRmMrfAddAvg rm ra rxm rym rxa rya s
  | .parMrfSubAdd rm ra rxm rym rxa rya => Sys2Proof.Machine.execParMrfSubAdd rm ra rxm rym rxa rya s
  | .parMrfSubSub rm ra rxm rym rxa rya => Sys2Proof.Machine.execParMrfSubSub rm ra rxm rym rxa rya s
  | .parMrfSubAvg rm ra rxm rym rxa rya => Sys2Proof.Machine.execParMrfSubAvg rm ra rxm rym rxa rya s
  | .parRmMrfSubAdd rm ra rxm rym rxa rya => Sys2Proof.Machine.execParRmMrfSubAdd rm ra rxm rym rxa rya s
  | .parRmMrfSubSub rm ra rxm rym rxa rya => Sys2Proof.Machine.execParRmMrfSubSub rm ra rxm rym rxa rya s
  | .parRmMrfSubAvg rm ra rxm rym rxa rya => Sys2Proof.Machine.execParRmMrfSubAvg rm ra rxm rym rxa rya s
  | .parFltAdd rm ra rxm rym rxa rya => Sys2Proof.Machine.execParFltAdd rm ra rxm rym rxa rya s
  | .parFltSub rm ra rxm rym rxa rya => Sys2Proof.Machine.execParFltSub rm ra rxm rym rxa rya s
  | .parFltFloatBy rm ra rxm rym rxa rya => Sys2Proof.Machine.execParFltFloatBy rm ra rxm rym rxa rya s
  | .parFltFixBy rm ra rxm rym rxa rya => Sys2Proof.Machine.execParFltFixBy rm ra rxm rym rxa rya s
  | .parFltAvg rm ra rxm rym rxa rya => Sys2Proof.Machine.execParFltAvg rm ra rxm rym rxa rya s
  | .parFltAbs rm ra rxm rym rxa rya => Sys2Proof.Machine.execParFltAbs rm ra rxm rym rxa rya s
  | .parFltMax rm ra rxm rym rxa rya => Sys2Proof.Machine.execParFltMax rm ra rxm rym rxa rya s
  | .parFltMin rm ra rxm rym rxa rya => Sys2Proof.Machine.execParFltMin rm ra rxm rym rxa rya s
  | .parMulDual rs rm ra rxm rym rxa rya => Sys2Proof.Machine.execParMulDual rs rm ra rxm rym rxa rya s
  | .parFltDual rs rm ra rxm rym rxa rya => Sys2Proof.Machine.execParFltDual rs rm ra rxm rym rxa rya s

end Sys2Proof.Machine
end

