-- ==== Sys2Proof/Machine/Timers.lean ====
section
/-! DEFINITION. The two programmable timers (60_exceptions.md R694 to R699). -/

namespace Sys2Proof.Machine

/-- The latch bit of a timer's interrupt: TMZHI or TMZLI by INT_HI (R697). -/
def timerIrq (mode2 : BitVec 32) (x : Bool) : Nat := if mode2.getLsbD (if x then 13 else 8) then 4 else 23

/-- A timer sets a sticky bit and requests its interrupt; `expired` names CNT_EXP/CNT_OVF, else PULSE_CAP (R698). -/
def State.timerEvent (s : State) (x expired : Bool) : State :=
  let bit := (if x then 14 else 12) + (if expired then 1 else 0)
  { s.request (timerIrq s.lat.mode2 x) with sys.stky := s.sys.stky ||| (1#32 <<< bit) }

/-- A tick in PWMOUT mode (R695). Enabling resets the counter; a period of 0 or not above the width, or a count above
the period, is refused (U22). -/
def State.tickPwm (s : State) (x : Bool) : Act State :=
  let t := s.iop.timer x
  if !t.enabled then
    if t.period = 0 || t.period ≤ t.width then refuse .timerMisuse
    else .ok (s.setTimer x { t with enabled := true, count := 1, pin := s.env.pwm.getLsbD x.toNat })
  else if t.period < t.count then refuse .timerMisuse
  else if t.count = t.period then .ok ((s.setTimer x { t with pwm := false, count := 1 }).timerEvent x true)
  else .ok (s.setTimer x { t with pwm := t.pwm || decide (t.count = t.width), count := t.count + 1 })

/-- A tick in WIDTH_CNT mode (R696). The first captured period after enabling is any value. A count that reaches
0xFFFFFFFF before the awaited edge is an overflow; with PERIOD_CNT = 0 no edge is awaited between the trailing edge, where
the width is captured, and the next leading one. When PWMOUT is changed while the timer stays enabled, the count goes on
and the pin is compared with its level of the last tick in this mode, which R696 does not say (DESIGN CHOICE, assumption
log 62). -/
def State.tickWidth (s : State) (x : Bool) : State :=
  let t := s.iop.timer x
  let pin := s.env.pwm.getLsbD x.toNat
  let falling := s.lat.mode2.getLsbD (if x then 14 else 9)
  let byPeriod := s.lat.mode2.getLsbD (if x then 10 else 3)
  let leading := if falling then t.pin && !pin else !t.pin && pin
  let trailing := if falling then !t.pin && pin else t.pin && !pin
  if !t.enabled then s.setTimer x { t with enabled := true, counting := false, pin := pin }
  else if leading then
    let p := if t.counting then t.count else (freeAt s (20 + x.toNat)).setWidth 32
    let s := s.setTimer x { t with period := p, count := 1, counting := true, pin := pin }
    if byPeriod then s.timerEvent x false else s
  else if trailing then
    let s := s.setTimer x { t with width := t.count, pin := pin }
    if byPeriod then s else s.timerEvent x false
  else if t.counting then
    let s := s.setTimer x { t with count := t.count + 1, pin := pin }
    let awaited := byPeriod || pin != falling
    if t.count + 1 = 0xFFFFFFFF && awaited then s.timerEvent x true else s
  else s.setTimer x { t with pin := pin }

/-- One tick of a timer; a disabled timer does nothing and its registers hold (R694). -/
def State.tick (s : State) (x : Bool) : Act State :=
  if s.lat.mode2.getLsbD (if x then 11 else 5) then
    if s.lat.mode2.getLsbD (if x then 12 else 7) then s.tickPwm x else .ok (s.tickWidth x)
  else if (s.iop.timer x).enabled then .ok (s.setTimer x { s.iop.timer x with enabled := false, counting := false })
  else .ok s

/-- Ticks of both timers. -/
def State.ticks (s : State) : Nat → Act State
  | 0 => .ok s
  | n + 1 => do
    let s ← s.tick false
    let s ← s.tick true
    { s with free := s.free + 1 }.ticks n

end Sys2Proof.Machine
end

