-- ==== Sys2Proof/Machine/Dma.lean ====
section
/-! DEFINITION. The actions of the I/O processor: DMA transfers, chain loading, transfers on the external bus
(61_dma_extport.md). -/

namespace Sys2Proof.Machine

/-! ### Internal side (R736, R737) -/

/-- The width of the internal words of a channel at a place (R736): 48 by DTYPE, else that of the block. -/
def State.dmaWidth (s : State) (c : Fin 10) (p : Place) : Nat :=
  if 8 ≤ c.val && (s.iop.ep (chanB c)).dtype then 48
  else
    match p with
    | .normal b _ => if s.imdw b then 40 else 32
    | _ => 32

/-- Read internal memory over the I/O bus, left-justified; anything but a normal word gives any value (20_memory.md
R204, R215). -/
def State.ioRead (s : State) (p : Place) (width site : Nat) : BitVec 48 :=
  match p with
  | .normal b off =>
    if width = 32 then image32 (s.readNarrow b off)
    else if !wideExists b off then (freeAt s site).setWidth 48
    else if width = 40 then (s.readWide b off).extractLsb' 8 40 ++ 0#8
    else s.readWide b off
  | _ => (freeAt s site).setWidth 48

/-- Write internal memory over the I/O bus; anything but a normal word keeps nothing. -/
def State.ioWrite (s : State) (p : Place) (width : Nat) (w : BitVec 48) : State :=
  match p with
  | .normal b off =>
    if width = 32 then s.queueWrite false (narrowWrites b off (w.extractLsb' 16 32))
    else if !wideExists b off then s
    else if width = 40 then s.queueWrite true (wideWrites b off (w.extractLsb' 8 40 ++ 0#8))
    else s.queueWrite true (wideWrites b off w)
  | _ => s

/-- Channel 8 packs bytes: EPROM booting, or reads with BSO = 1 (R790; 70_reset_and_hazards.md R904). -/
def State.byteMode (s : State) (x : Bool) : Bool :=
  !x && (s.iop.hid.bootRom || s.syscon.getLsbD 1)

/-- The packing of an external port channel for its own transfers. -/
def State.ownPacking (s : State) (x : Bool) : Packing :=
  if s.byteMode x then .group 6 8 false else (s.iop.ep x).packing

/-- The packing mode and the width agree (R736; U23). -/
def State.widthAgrees (s : State) (x : Bool) (width : Nat) : Bool :=
  match s.ownPacking x with
  | .whole => true
  | .group parts bits _ => decide (parts * bits = width)
  | .pair => decide (width = 48)

/-- The index after a transfer (R737): when its address, the exact sum, is past the end of the block it wraps to the start
of it; else the low 17 bits of the sum stay, also below the start. -/
def State.nextIndex (s : State) (ii : BitVec 17) (im : BitVec 16) : BitVec 17 :=
  let a := (s.dmaAddr ii).toNat
  let next : Int := a + im.toInt
  let offset : BitVec 17 := if s.env.dmaOffset then 0x8000 else 0
  if decide (0x8000 ≤ a) && decide (a ≤ 0x9FFF) && decide (0x9FFF < next) then 0x08000 - offset
  else if decide (0xC000 ≤ a) && decide (a ≤ 0xDFFF) && decide (0xDFFF < next) then 0x0C000 - offset
  else ii + im.signExtend 17

/-- The channel moves data into memory. -/
def State.receives (s : State) (c : Fin 10) : Bool :=
  if c.val < 8 then decide (c.val < 4) else !(s.iop.ep (chanB c)).tran

/-- A channel requests a transfer on the internal bus (R734); a disabled one is not granted it. -/
def State.dmaReady (s : State) (c : Fin 10) : Bool :=
  let d := s.chan c
  if !d.run || d.chainReq || !(s.den c || s.chen c) then false
  else if c.val < 4 then !((s.iop.sport (chanPort c)).rx (chanB c)).queue.isEmpty
  else if c.val < 8 then decide (((s.iop.sport (chanPort c)).tx (chanB c)).queue.length < 2)
  else
    let e := s.iop.ep (chanB c)
    if e.extern then false
    else if e.tran then e.room && !e.intDone
    else !e.fifo.isEmpty

/-- Take a word from the buffer of a receiving channel. -/
def State.popBuffer (s : State) (c : Fin 10) : BitVec 48 × State :=
  if c.val < 8 then
    let p := s.iop.sport (chanPort c)
    let r := p.rx (chanB c)
    (image32 (r.queue.headD (plainWord 0)).word, s.setSport (chanPort c) (p.setRx (chanB c) { r with queue := r.queue.tail }))
  else
    let e := s.iop.ep (chanB c)
    (e.fifo.headD 0, s.setEp (chanB c) { e with fifo := e.fifo.tail })

/-- Give a word to the buffer of a transmitting channel. -/
def State.pushBuffer (s : State) (c : Fin 10) (w : BitVec 48) : State :=
  if c.val < 8 then
    let p := s.iop.sport (chanPort c)
    let t := p.tx (chanB c)
    let v := newTx p (chanB c) (w.extractLsb' 16 32)
    s.setSport (chanPort c) (p.setTx (chanB c) { t with queue := t.queue ++ [v], loaded := true })
  else
    let e := s.iop.ep (chanB c)
    s.setEp (chanB c) { e with fifo := e.fifo ++ [w] }

/-- Index and count after a transfer, and the end of the count (R736). -/
def State.dmaAdvance (s : State) (c : Fin 10) : State :=
  let d := s.chan c
  let s := s.setChan c { d with ii := s.nextIndex d.ii d.im, c := d.c - 1 }
  if d.c = 1 then
    let s := if c.val < 8 then s else s.setEp (chanB c) { s.iop.ep (chanB c) with intDone := true }
    s.endOfCount c
  else s

/-- `dmaXfer(c)`: one word between internal memory and the buffer of a channel (R736). -/
def State.dmaXfer (s : State) (c : Fin 10) : Act State :=
  let p := place 0 (s.dmaAddr (s.chan c).ii)
  let width := s.dmaWidth c p
  if 8 ≤ c.val && !s.widthAgrees (chanB c) width then refuse .dmaWidth
  else if s.receives c then
    let (w, s) := s.popBuffer c
    .ok ((s.ioWrite p width w).dmaAdvance c)
  else .ok ((s.pushBuffer c (s.ioRead p width 22)).dmaAdvance c)

/-! ### Chain loading (R740) -/

/-- The parameter registers in the order a transfer control block loads them. -/
def tcbOrder (c : Fin 10) : List DmaParam :=
  if c.val < 8 then [.ii, .im, .c, .cp, .gp] else [.ii, .im, .c, .cp, .gp, .ei, .em, .ec]

/-- Start or continue the load of a transfer control block by one word. -/
def State.tcbLoad (s : State) (c : Fin 10) (k : Nat) : State :=
  let base := if k = 0 then (s.chan c).cp.extractLsb' 0 17 else s.iop.hid.tcbBase
  let w := s.ioRead (place 0 (s.dmaAddr base - BitVec.ofNat 32 k)) 32 22
  match (tcbOrder c)[k]? with
  | none => { s with iop.hid.tcb := none }
  | some r =>
    let s := s.setDmaParam c r (w.extractLsb' 16 32)
    if k + 1 < (tcbOrder c).length then { s with iop.hid.tcb := some (c, k + 1), iop.hid.tcbBase := base }
    else
      let s := s.setChan c { s.chan c with chainReq := false, run := true }
      let s := if c.val < 8 then s
        else s.setEp (chanB c) { s.iop.ep (chanB c) with extDone := false, intDone := false }
      { s with iop.hid.tcb := none }

/-! ### The slave write FIFO (R757) -/

/-- The packing of a host access of EPBx (R775); reserved combinations are refused (U33). -/
def State.hostPacking (s : State) (x : Bool) : Act Packing :=
  let hbw := s.syscon.extractLsb' 4 2
  let msw := s.syscon.getLsbD 6
  let pm := (s.iop.ep x).pmode
  if hbw = 3 || pm = 0 then refuse .hostPacking
  else if pm = 1 then .ok (if hbw = 0 then .whole else if hbw = 1 then .group 2 16 msw else .group 4 8 msw)
  else .ok (if hbw = 0 then .pair else if hbw = 1 then .group 3 16 msw else .group 6 8 msw)

/-- A word enters EPBx, whatever TRAN (assumption log 55): one of a host is an internal word, one of the other processor an
external word, which the buffer packs by DMACx; none while the buffer is full (with BHD = 1 the word is lost, R746, R760).
-/
def State.feedEpb (s : State) (host x : Bool) (w : BitVec 48) : Option State :=
  let e := s.iop.ep x
  if e.room then some (s.setEp x (if host then { e with fifo := e.fifo ++ [w] } else e.feed e.packing (w.extractLsb' 16 32)))
  else if s.bhd then some s
  else none

/-- Right after a flush of the buffer an access of EPBx from outside is refused: it may come before the flush or after it
(R733; U39). -/
def State.outsideFlush (s : State) (x : Bool) : Act Unit :=
  if (s.iop.ep x).unsure 13 then refuse .dmacLatency else .ok ()

/-- `swfDrain`: the oldest buffered external write reaches its register; none when it must wait. -/
def State.swfDrain (s : State) : Act (Option State) :=
  match s.iop.hid.swf with
  | [] => .ok none
  | (host, r, d) :: rest =>
    let t := { s with iop.hid.swf := rest }
    match iopRegAt r with
    | .epb x => do
      s.outsideFlush x
      .ok (t.feedEpb host x d)
    | _ =>
      match t.writeReg true false r d with
      | .ok t => .ok (some t)
      | .error (.stall _) => .ok none
      | .error e => .error e

/-! ### External side (R744, R747 to R749, R790) -/

/-- An address of the four external banks (20_memory.md R202). -/
def inBanks (a : BitVec 32) : Bool := decide (0x20000 ≤ a.toNat) && decide (a.toNat < 0x4000000)

/-- What a DMA transfer reads at an external address: boot space with BSO or while booting, a bank, or nothing known. Boot
space drives DATA7-0 only; what the other lines hold R271 and R790 do not say, and they give any value (DESIGN CHOICE,
assumption log 59). -/
def State.extDmaRead (s : State) (boot : Bool) (a : BitVec 32) : BitVec 32 :=
  if boot then (freeAt s 23).extractLsb' 8 24 ++ readByte s.mem (romBase + (a.extractLsb' 0 24).toNat)
  else if inBanks a then s.extWord a.toNat 23
  else (freeAt s 23).setWidth 32

/-- What a DMA transfer writes at an external address. -/
def State.extDmaWrite (s : State) (boot : Bool) (a w : BitVec 32) : State :=
  if boot then { s with mem := writeByte s.mem (romBase + (a.extractLsb' 0 24).toNat) (w.extractLsb' 0 8) }
  else if inBanks a then s.storeExt a.toNat w
  else s

/-- An external port channel could use the external bus (R744, R747 to R749). -/
def State.extWants (s : State) (x : Bool) : Bool :=
  let e := s.iop.ep x
  let run := (s.chan (epChan x)).run
  let requested := !e.hshake || !e.requests.isEmpty
  if e.extern then run && !e.requests.isEmpty
  else if e.master then
    run && !e.extDone && requested && (if e.tran then (e.next (s.ownPacking x)).isSome else e.room)
  else if e.hshake then
    e.dmaOn && !e.requests.isEmpty && (if e.tran then (e.next (s.ownPacking x)).isSome else e.room)
  else false

/-- External index and count after a transfer (R744). -/
def ExtPort.extAdvance (e : ExtPort) : ExtPort :=
  { e with ei := e.ei + e.em, ec := e.ec - 1, extDone := e.extDone || decide (e.ec = 1),
           requests := if e.hshake then e.requests.tail else e.requests }

/-- The counted end of an external transfer. -/
def State.extCounted (s : State) (x : Bool) (last : Bool) : State :=
  if last then
    if (s.iop.ep x).extern then s.endOfSequence (epChan x) else s.endOfCount (epChan x)
  else s

/-- The transfers of a buffer on the external bus go to boot space: with BSO = 1, and EPROM booting (R790). -/
def State.bootSpace (s : State) (x : Bool) : Bool := s.syscon.getLsbD 1 || (!x && s.iop.hid.bootRom)

/-- External handshake mode: a word between external memory and the device (R749). Channel 8 does not write with BSO = 1
(R790; U28). On the bank of the SDRAM, where the mode is not supported, the transfer is made as on any other: R749 and R811 do
not say what happens there (DESIGN CHOICE, assumption log 79). -/
def State.extDevice (s : State) (x : Bool) : Act State :=
  let e := s.iop.ep x
  if !e.tran && s.byteMode x then refuse .bsoWrite
  else
    let s1 :=
      if e.tran then { s with env.driven := s.extDmaRead (s.bootSpace x) e.ei }
      else s.extDmaWrite (s.bootSpace x) e.ei (e.requests.headD 0)
    .ok ((s1.setEp x e.extAdvance).extCounted x (decide (e.ec = 1)))

/-- Master and paced master mode: a word between the external bus and the buffer (R744, R748). In paced master mode, which
is not allowed on the bank of the SDRAM, the transfer is made there as on any other: R748 does not say what happens (DESIGN
CHOICE, assumption log 79). -/
def State.extMaster (s : State) (x : Bool) : Act State :=
  let e := s.iop.ep x
  let boot := s.bootSpace x
  let last := decide (e.ec = 1)
  if e.tran then
    if s.byteMode x then refuse .bsoWrite
    else
      match e.next (s.ownPacking x) with
      | none => .ok s
      | some (w, e1) => .ok (((s.extDmaWrite boot e.ei w).setEp x e1.extAdvance).extCounted x last)
  else
    .ok ((s.setEp x (e.feed (s.ownPacking x) (s.extDmaRead boot e.ei)).extAdvance).extCounted x last)

/-- Handshake mode: a granted request (R747); with BSO = 1 channel 8 packs bytes and does not write (R790; U28). -/
def State.extGrant (s : State) (x : Bool) : Act State :=
  let e := s.iop.ep x
  if e.tran then
    if s.byteMode x then refuse .bsoWrite
    else
      match e.next (s.ownPacking x) with
      | none => .ok s
      | some (w, e1) => .ok { s.setEp x { e1 with requests := e.requests.tail } with env.driven := w }
  else .ok (s.setEp x { e.feed (s.ownPacking x) (e.requests.headD 0) with requests := e.requests.tail })

/-- One word of a channel on the external bus. -/
def State.extXfer (s : State) (x : Bool) : Act State := do
  let e := s.iop.ep x
  let s ← if e.extern then s.extDevice x else if e.master then s.extMaster x else s.extGrant x
  .ok { s.extCount 1 with iop.hid.dmaHeld := false }

/-! ### One action (R735) -/

/-- The first channel of a list that requests. -/
def State.firstReady (s : State) : List (Fin 10) → Option (Fin 10)
  | [] => none
  | c :: cs => if s.dmaReady c then some c else s.firstReady cs

/-- The first channel of a list with a chain load requested. -/
def State.firstChain (s : State) : List (Fin 10) → Option (Fin 10)
  | [] => none
  | c :: cs => if (s.chan c).chainReq then some c else s.firstChain cs

/-- All channels in order. -/
def allChans : List (Fin 10) := [0, 1, 2, 3, 4, 5, 6, 7, 8, 9]
def sportChans : List (Fin 10) := [0, 1, 2, 3, 4, 5, 6, 7]

/-- The external port channels by priority. -/
def State.epOrder (s : State) : List (Fin 10) := if s.iop.hid.nineFirst then [9, 8] else [8, 9]

/-- After a transfer of an external port channel the other gets the higher priority when DCPR = 1. -/
def State.rotate (s : State) (c : Fin 10) : State :=
  if s.syscon.getLsbD 18 then { s with iop.hid.nineFirst := decide (c = 8) } else s

/-- One use of the internal I/O bus, the first enabled one in the order of Table 6-15; none if there is none. A buffered
external write comes after the chain loads (assumption log 9). -/
def State.busAction (s : State) : Act (Option State) :=
  match s.iop.hid.tcb with
  | some (c, k) => .ok (some (s.tcbLoad c k))
  | none =>
    match s.firstReady sportChans with
    | some c => do .ok (some (← s.dmaXfer c))
    | none =>
      match s.firstChain allChans with
      | some c => .ok (some (s.tcbLoad c 0))
      | none => do
        match ← s.swfDrain with
        | some t => .ok (some t)
        | none =>
          match s.firstReady s.epOrder with
          | some c => do .ok (some ((← s.dmaXfer c).rotate c))
          | none => .ok none

/-- A transfer of an external port channel on the external bus can end: ACK is raised or, by the mode of the bank or of
boot space, not needed (20_memory.md R267); multiprocessor space needs it (R269), and an access of any other address does
not stall (R204). A grant in handshake mode is no access of an address and does not look at ACK (R747; DEDUCED, assumption
log 49). -/
def State.extXferAcked (s : State) (x : Bool) : Bool :=
  let e := s.iop.ep x
  if !(e.extern || e.master) then true
  else if s.bootSpace x then s.env.ack || s.iop.sys.wait.getLsbD 20
  else if inBanks e.ei then s.acked e.ei.toNat
  else if 0x100 ≤ e.ei.toNat && decide (e.ei.toNat < 0x300) then s.env.ack
  else true

/-- A channel of the I/O processor could use the external bus: an access of it is pending (R753). -/
def State.extPending (s : State) : Bool := s.extWants false || s.extWants true

/-- A DMA word is on the external bus and held off (R753, R777): it ends there before the bus is given up. -/
def State.dmaInBus (s : State) : Bool := s.iop.hid.dmaHeld && s.extPending

/-- The I/O processor leaves the external bus to the other processor: its core asks for it (CPA, R755), or BCNT has
reached 0 (R754). An access in progress is completed first (R753). -/
def State.yields (s : State) : Bool :=
  !s.dmaInBus
    && ((s.env.cpaConnected && s.iop.hid.otherCoreReq) || (s.counting && decide (s.iop.sys.bcnt = 0) && !s.busLock))

/-- One use of the external bus by the I/O processor; none if there is none. It waits for the bus, and on the bus for ACK.
The priority of the two channels rotates after it as on the internal bus (R735). -/
def State.extAction (s : State) : Act (Option State) :=
  let a := chanB (s.epOrder.headD 8)
  let x := if s.extWants a then a else !a
  if !s.extWants x then .ok none
  else if !s.busReady || s.yields then .ok (some { s with iop.hid.busWait := true })
  else if !s.extXferAcked x then .ok (some { s with iop.hid.busWait := true, iop.hid.dmaHeld := true })
  else do .ok (some ((← s.extXfer x).rotate (epChan x)))

/-- Some action of the I/O processor is due (for IDLE16, U20). -/
def State.actionDue (s : State) : Bool :=
  s.iop.hid.tcb.isSome || (s.firstReady allChans).isSome || (s.firstChain allChans).isSome
    || !s.iop.hid.swf.isEmpty || s.extPending

/-- Actions of the I/O processor beside a step: `n` on each of the two buses, each with free values of its own. -/
def State.actions (s : State) : Nat → Act State
  | 0 => .ok s
  | n + 1 =>
    if s.pipe.mode = .idle16 && s.actionDue then refuse .idle16Activity
    else do
      let s := (← s.busAction).getD s
      let s := (← s.extAction).getD s
      { s with free := s.free + 1 }.actions n

end Sys2Proof.Machine
end

