-- ==== Sys2Proof/Machine/Environment.lean ====
section
/-! DEFINITION. What the outside world does: pins, accesses from a host or the other processor, arbitration for the
external bus, requests of devices, serial words (61_dma_extport.md sections 6 and 7; 60_exceptions.md R660, R706). -/

namespace Sys2Proof.Machine

/-! ### Accesses of IOP registers from outside (61_dma_extport.md R770) -/

/-- A write from outside enters the slave write FIFO; a full one holds it (R757). -/
def State.swfPush (s : State) (host : Bool) (r : BitVec 8) (d : BitVec 48) : Option State :=
  if s.iop.hid.swf.length < 4 then some { s with iop.hid.swf := s.iop.hid.swf ++ [(host, r, d)] } else none

/-- A 32-bit write by the other processor: held while this one is bus master (R753); a single processor has no other. -/
def State.procWrite (s : State) (r : BitVec 8) (d : BitVec 32) : Option State :=
  if s.env.id = 0 then some s else if s.busMaster || s.iop.sys.hstm then none else s.swfPush false r (image32 d)

/-- An external word leaves EPBx for an external reader; none while there is none, any value with BHD = 1 (R746,
R760). -/
def State.driveEpb (s : State) (x : Bool) (k : Packing) : Option State :=
  match (s.iop.ep x).next k with
  | some (v, e) => some { s.setEp x e with env.driven := v }
  | none => if s.bhd then some { s with env.driven := (freeAt s 24).setWidth 32 } else none

/-- A register is read for an external master; a buffer without data holds the read. -/
def State.driveReg (s : State) (r : BitVec 8) : Act (Option State) :=
  match s.readReg false r 24 with
  | .ok (w, t) => .ok (some { t with env.driven := w.extractLsb' 16 32 })
  | .error (.stall _) => .ok none
  | .error e => .error e

/-- A read by the other processor, answered once the slave write FIFO is empty (R770). -/
def State.procRead (s : State) (r : BitVec 8) : Act (Option State) :=
  if s.env.id = 0 then .ok (some s)
  else if s.busMaster || s.iop.sys.hstm || !s.iop.hid.swf.isEmpty then .ok none
  else
    match iopRegAt r with
    | .epb x => do
      s.outsideFlush x
      .ok (s.driveEpb x (s.iop.ep x).packing)
    | _ => s.driveReg r

/-- How many external words make one packed access of a register other than EPBx, and their width (R772). -/
def State.hostParts (s : State) : Nat × Nat :=
  let hbw := s.syscon.extractLsb' 4 2
  if hbw = 0 then (1, 32) else if hbw = 1 then (2, 16) else (4, 8)

/-- One external word of a packed access has passed, `es` is what the host packing register holds now; with nothing in it
the access is over (R774). -/
def State.hostPart (s : State) (r : BitVec 8) (write : Bool) (es : List (BitVec 32)) : State :=
  { s with
    iop.hid.hostWord := true
    iop.hid.hostReg := r
    iop.hid.hostWrite := write
    iop.hid.hostParts := es
    iop.hid.hostCount := if es.isEmpty then 0 else s.iop.hid.hostCount + 1 }

/-- The host packing register as one of a buffer (R775). -/
def State.hostPack (s : State) : PackReg := ⟨s.iop.hid.hostParts, stageOf s.iop.hid.hostCount⟩

/-- A host writes an external word of EPBx: it is packed in the host packing register, and a complete internal word enters
the slave write FIFO; a full one holds it (R757, R774, R775). -/
def State.hostToEpb (s : State) (r : BitVec 8) (k : Packing) (d : BitVec 32) : Option State :=
  let (v, p) := s.hostPack.feed k d
  let t := s.hostPart r true p.words
  match v with
  | none => some t
  | some w => t.swfPush true r w

/-- A host reads an external word of EPBx: an internal word leaves the buffer for the host packing register when that has
none to drive. None while the buffer has none either; with BHD = 1 any word (R746, R760, R775). -/
def State.hostFromEpb (s : State) (r : BitVec 8) (x : Bool) (k : Packing) : Option State :=
  let e := s.iop.ep x
  let dry := e.fifo.isEmpty
  match s.hostPack.next k (if dry && s.bhd then [(freeAt s 24).setWidth 48] else e.fifo) with
  | none => none
  | some (v, p, f) =>
    some ({ s.setEp x { e with fifo := if dry then [] else f } with env.driven := v }.hostPart r false p.words)

/-- A host access that leaves out a step of the change of HBW (R773; U39): SYSCON is at address 0. -/
def HbwStage.excludes (g : HbwStage) (r : BitVec 8) (write : Bool) : Bool :=
  match g with
  | .idle => false
  | .readBack => decide (r ≠ 0) || write
  | .writeAgain => decide (r ≠ 0) || !write
  | .hold _ => true

/-- A host access that the rules exclude: the reserved width (U33), the start of another packed access within one (R774;
U29), or one out of order in a change of HBW. -/
def State.hostBad (s : State) (r : BitVec 8) (write : Bool) : Bool :=
  decide (s.syscon.extractLsb' 4 2 = 3)
    || (decide (s.iop.hid.hostCount ≠ 0) && (decide (s.iop.hid.hostReg ≠ r) || s.iop.hid.hostWrite != write))
    || s.iop.hid.hbw.excludes r write

/-- A host may access the registers: it has the bus, or this is a single processor (R771) that has not locked it (R756). -/
def State.hostMay (s : State) : Bool := s.iop.sys.hstm || (decide (s.env.id = 0) && !s.busLock)

/-- Whether a host access can go on now: it needs the bus, waits for a flush of the host packing, and is refused while the
core writes HPFLSH (R774; U29). -/
def State.hostGate (s : State) (r : BitVec 8) (write : Bool) : Act Bool :=
  if !s.hostMay then .ok false
  else if s.iop.hid.coreFlush then refuse .hostPacking
  else if s.iop.hid.hostFlush ≠ 0 then .ok false
  else if s.hostBad r write then refuse .hostPacking
  else .ok true

/-- Where a complete host write leaves the change of HBW (R773): a new HBW in SYSCON begins it, the same again goes on
with it; none when it should be the same and is not. -/
def State.hbwAfterWrite (s : State) (r : BitVec 8) (v : BitVec 32) : Option HbwStage :=
  let same := decide (v.extractLsb' 4 2 = s.iop.sys.syscon.extractLsb' 4 2)
  match s.iop.hid.hbw with
  | .writeAgain => if same then some (.hold 5) else none
  | g => some (if decide (r = 0) && !same then .readBack else g)

/-- Where a host read leaves the change of HBW, once all parts have been driven. -/
def State.hbwAfterRead (s : State) : State :=
  if s.iop.hid.hbw = .readBack ∧ s.iop.hid.hostParts = [] then { s with iop.hid.hbw := .writeAgain } else s

/-- The second write of SYSCON in a change of HBW flushes a read-back that is not complete, as one made in the packing of
before is (R773). -/
def State.flushReadBack (s : State) (r : BitVec 8) : State :=
  if s.iop.hid.hbw = .readBack ∧ r = 0 ∧ s.iop.hid.hostReg = 0 ∧ s.iop.hid.hostCount ≠ 0 ∧ !s.iop.hid.hostWrite then
    { s with iop.hid.hostParts := [], iop.hid.hostCount := 0, iop.hid.hbw := .writeAgain }
  else s

/-- One external word of a host write: the last part brings the write of a register (R772), a complete internal word that
of EPBx (R775). -/
def State.hostWrite (s : State) (r : BitVec 8) (d : BitVec 32) : Act (Option State) :=
  let s := s.flushReadBack r
  match s.hostGate r true with
  | .error e => .error e
  | .ok false => .ok none
  | .ok true =>
    match iopRegAt r with
    | .epb x => do
      s.outsideFlush x
      .ok (s.hostToEpb r (← s.hostPacking x) d)
    | _ =>
      let (parts, bits) := s.hostParts
      let es := s.iop.hid.hostParts ++ [d]
      if es.length < parts then .ok (some (s.hostPart r true es))
      else
        let v := BitVec.ofNat 32 (joinParts bits (if s.syscon.getLsbD 6 then es else es.reverse) 0)
        match s.hbwAfterWrite r v with
        | none => refuse .hostPacking
        | some g =>
          .ok (({ s with iop.hid.hbw := g }.hostPart r true []).swfPush true r (image32 v))

/-- One external word of a host read: the register is read for the first part (R772). -/
def State.hostRead (s : State) (r : BitVec 8) : Act (Option State) :=
  match s.hostGate r false with
  | .error e => .error e
  | .ok false => .ok none
  | .ok true =>
    if !s.iop.hid.swf.isEmpty then .ok none
    else
    match iopRegAt r with
    | .epb x => do
      s.outsideFlush x
      .ok (s.hostFromEpb r x (← s.hostPacking x))
    | _ => do
      let (parts, bits) := s.hostParts
      match s.iop.hid.hostParts with
      | p :: ps => .ok (some ({ s with env.driven := p }.hostPart r false ps).hbwAfterRead)
      | [] =>
        match ← s.driveReg r with
        | none => .ok none
        | some t =>
          let es := splitParts bits parts t.env.driven.toNat
          let es := if s.syscon.getLsbD 6 then es.reverse else es
          .ok (some ({ t with env.driven := es.headD 0 }.hostPart r false es.tail).hbwAfterRead)

/-! ### The external bus (R752 to R756, R771, R777) -/

/-- An external access of this master is in progress (R771): a word of its core or of DMA that ACK holds off. SBTS with HBR
suspends the one of the core, not the one of DMA (R777); one that SBTS aborted goes on at once when SBTS is deasserted
(20_memory.md R270). -/
def State.inProgress (s : State) : Bool := s.dmaInBus || (s.iop.hid.coreWait.begun && !s.env.sbts)

/-- HBR: the host gets the bus once the access in progress is over, unless the bus is locked (R756, R771) or the
arbitration of a processor with an ID is not yet synchronised (R752). It gives it back, but not between the two bytes of a
pair it writes over an 8-bit bus (R774). A core access of the other processor's space in progress when the host gets the
bus, which it gets then under SBTS alone, is refused, whichever of SBTS and HBR came first (R777; U30). Whether U30 also
means a DMA word of that space, held by ACK, R777 does not say: here the host waits for it, as for any word of DMA (DESIGN
CHOICE, assumption log 74); nor whether it means an access of the other processor to this one that is held: here the host
gets the bus and the held access goes on afterwards (DESIGN CHOICE, assumption log 84). With a channel in external handshake
mode, for which R778 says that the host cannot use HBR, HBR is granted all the same, and the counted requests wait until the
host has gone (DESIGN CHOICE, assumption log 85). -/
def State.hostBus (s : State) (on : Bool) : Act (Option State) :=
  let h := s.iop.hid
  if on then
    if (s.busMaster && (s.busLock || s.inProgress)) || (decide (s.env.id ≠ 0) && !s.iop.sys.bsyn) then .ok none
    else if decide (s.env.id ≠ 0) && h.coreWait.transfer then refuse .sbtsTransfer
    else .ok (some { s with iop.sys.hstm := true })
  else if s.iop.sys.hstm && h.hostWrite && decide (h.hostCount % 2 = 1) && decide (s.syscon.extractLsb' 4 2 = 2) then
    refuse .hostPacking
  else .ok (some { s with iop.sys.hstm := false })

/-- The other processor asks for the bus while this one is master. -/
def State.busRequest (s : State) (core : Bool) : State :=
  if s.env.id ≠ 0 ∧ s.iop.sys.crbm = s.env.id then
    { s with iop.hid.otherReq := true, iop.hid.otherCoreReq := core }
  else s

/-- The other processor no longer asks for the bus. -/
def State.busWithdraw (s : State) : State := { s with iop.hid.otherReq := false, iop.hid.otherCoreReq := false }

/-- This processor becomes bus master and loads BCNT (R754). -/
def State.gainBus (s : State) : State :=
  { s with iop.sys.crbm := s.env.id, iop.sys.bcnt := s.iop.sys.bmax, iop.hid.lastUsed := false }

/-- This processor asserts its bus request: its core waits for the bus, or waited for it last, an access of DMA is pending,
or it wants to lock the bus (R753, R756). -/
def State.requestsBus (s : State) : Bool :=
  s.iop.hid.busWait || s.iop.hid.coreWait.ofBus || s.extPending || s.busLock

/-- The other processor gives up the bus: this one takes it if it requests it (R753). -/
def State.busRelease (s : State) : Option State :=
  if s.env.id = 0 ∨ !s.iop.sys.bsyn ∨ s.iop.sys.crbm = s.env.id then some s
  else if s.iop.sys.hstm then none
  else some (if s.requestsBus then s.gainBus else s)

/-- The arbitration logic of a processor with an ID synchronises (R752). -/
def State.busSync (s : State) (master : BitVec 2) : State :=
  if s.env.id = 0 ∨ s.iop.sys.bsyn then s
  else
    let t := { s with iop.sys.bsyn := true, iop.sys.crbm := master }
    if master = s.env.id then t.gainBus else t

/-- This processor is master by arbitration, and nothing but its own use of the bus keeps it so (R753, R756, R771). -/
def State.mayRelease (s : State) : Bool :=
  decide (s.env.id ≠ 0) && s.iop.sys.bsyn && decide (s.iop.sys.crbm = s.env.id) && !s.iop.sys.hstm && !s.busLock

/-- This master has no external access in progress or pending (R753). -/
def State.busIdle (s : State) : Bool := !s.iop.hid.extUsed && !s.iop.hid.busWait && !s.extPending

/-- This master deasserts its bus request for the other processor: it has no external access in progress or pending
(R753), BCNT has reached 0 and no access is held off by ACK or SBTS (R754), or it gives way to a core access of the other
while its own core has none pending (R755). A word of DMA that is held off on the bus is completed first (R753). -/
def State.releases (s : State) : Bool :=
  let h := s.iop.hid
  let held := decide (h.coreWait = .bus) || h.coreWait.begun
  !s.dmaInBus
    && (s.busIdle
      || (decide (s.iop.sys.bmax ≠ 0) && decide (s.iop.sys.bcnt = 0) && !held)
      || decide (h.coreWait = .count)
      || (s.env.cpaConnected && h.otherCoreReq && !held))

/-- The bus goes to the other processor at the end of the step (R753). -/
def State.handsOver (s : State) : Bool := s.mayRelease && s.iop.hid.otherReq && s.releases

/-- The bus at the end of a step: the transition to the other processor when it requests and this master releases; a
master that stops using the bus loads BCNT anew also when no one requests it (R753, R754; 11_state_iop.md R138). -/
def State.arbitrate (s : State) : State :=
  if s.handsOver then
    { s with
      iop.sys.crbm := 3 - s.env.id
      iop.sys.bcnt := s.iop.sys.bmax
      iop.hid.lastUsed := false
      iop.hid.otherReq := false
      iop.hid.otherCoreReq := false }
  else if s.mayRelease && s.busIdle then
    { s with iop.sys.bcnt := s.iop.sys.bmax, iop.hid.lastUsed := false }
  else s

/-! ### Events -/

/-- A falling edge on DMARx: counted while DMA is enabled; a seventh request is refused (R747; U26). Right after the write
that enables DMA it may be ignored, and right after a flush it may be flushed (R733; treatment 'draw'). -/
def State.dmaRequest (s : State) (x : Bool) (d : BitVec 32) : Act State :=
  let e := s.iop.ep x
  let sure := ((e.den && !e.unsure 0) || (e.chen && !e.unsure 1)) && !e.unsure 13
  if !e.dmaOn || (!sure && choiceAt s 11) then .ok s
  else if e.requests.length < 6 then .ok (s.setEp x { e with requests := e.requests ++ [d] })
  else refuse .dmaRequests

/-- Another bus master writes external memory: one master at a time, so it waits while this processor is master
(20_memory.md R263); a host cannot reach the SDRAM (61_dma_extport.md R816). -/
def State.extStore (s : State) (a d : BitVec 32) : Option State :=
  if s.busMaster then none
  else if inBanks a && !(s.iop.sys.hstm && s.inSdram a.toNat) then some (s.storeExt a.toNat d)
  else some s

/-- A device changes a word that it answers for itself; SDRAM is no such device. -/
def State.deviceWord (s : State) (a d : BitVec 32) : State :=
  if inBanks a && !s.inSdram a.toNat then { s with mem := writeExt s.mem a.toNat d } else s

/-- The RESET pin: at the end of the step also what a software reset leaves alone starts anew (92_eei_decisions.md D52). -/
def State.resetPin (s : State) : State := { s with tr.reset := true, tr.hardReset := true }

/-- Activity on the buses and ports of the processor, which is refused in IDLE16 (43_misc.md R452; U20): not a change of
pins, a reset, or what happens among other masters and devices. -/
def ExtEvent.activity : ExtEvent → Bool
  | .pins _ _ _ | .reset | .sbts _ | .ack _ | .extStore _ _ | .deviceWord _ _ | .sdramOn => false
  | _ => true

/-- One event; none when it cannot happen yet. -/
def State.event (s : State) (e : ExtEvent) : Act (Option State) :=
  if s.pipe.mode = .idle16 && e.activity then refuse .idle16Activity
  else
    match e with
    | .pins irq flags pwm => .ok (some { s with env.irq := irq, env.flags := flags, env.pwm := pwm })
    | .reset => .ok (some s.resetPin)
    | .procWrite r d => .ok (s.procWrite r d)
    | .procRead r => s.procRead r
    | .hostWrite r d => s.hostWrite r d
    | .hostRead r => s.hostRead r
    | .hostBus on => s.hostBus on
    | .sbts on => .ok (some { s with env.sbts := on })
    | .busRequest core => .ok (some (s.busRequest core))
    | .busWithdraw => .ok (some s.busWithdraw)
    | .busRelease => .ok s.busRelease
    | .busSync m => .ok (some (s.busSync m))
    | .dmaRequest x d => do .ok (some (← s.dmaRequest x d))
    | .rxWord x z v => .ok (some (s.setSport x ((s.iop.sport x).rxWord z v)))
    | .txFrame x => .ok (some (s.setSport x (s.iop.sport x).txFrame))
    | .frameStart x => .ok (some (s.setSport x (s.iop.sport x).frameStart))
    | .slot x v =>
      if (s.iop.sport x).badSlot then refuse .sportWord else .ok (some (s.setSport x ((s.iop.sport x).slot v)))
    | .extStore a d => .ok (s.extStore a d)
    | .deviceWord a d => .ok (some (s.deviceWord a d))
    | .ack on => .ok (some { s with env.ack := on })
    | .sdramOn => .ok (some (if s.env.id = 0 then s else { s with iop.hid.sdramUp := true }))

/-- Who makes an event: a host, the other processor, or the pins and devices, whose events wait for nothing. -/
inductive EventAgent where
  | host | processor | device
  deriving DecidableEq, Repr

/-- The agent of an event. -/
def ExtEvent.agent : ExtEvent → EventAgent
  | .hostWrite _ _ | .hostRead _ | .hostBus _ => .host
  | .procWrite _ _ | .procRead _ | .busRequest _ | .busWithdraw | .busRelease | .busSync _ | .extStore _ _ | .sdramOn =>
    .processor
  | _ => .device

/-- Events in order; one that cannot happen yet waits, and the later ones of its agent behind it, while those of the
others go on: `held` are the events that wait. Each has free values of its own. -/
def State.eventsFrom (s : State) (held : List ExtEvent) : List ExtEvent → Act State
  | [] => .ok { s with env.waiting := held }
  | e :: es => do
    if held.any fun f => decide (f.agent = e.agent) then s.eventsFrom (held ++ [e]) es
    else
      match ← s.event e with
      | none => s.eventsFrom (held ++ [e]) es
      | some t => State.eventsFrom { t with free := t.free + 1 } held es

/-- The events of a step. -/
def State.events (s : State) (es : List ExtEvent) : Act State := s.eventsFrom [] es

/-! ### What goes on by itself -/

/-- A step is over for the change of HBW. -/
def HbwStage.elapse : HbwStage → HbwStage
  | .hold n => if n ≤ 1 then .idle else .hold (n - 1)
  | g => g

/-- A step is over for what counts steps: the latency of DMACx (R733), the flush of the host packing (R774), the change of
HBW (R773), companding in place (62_serial_ports.md R850). -/
def State.elapse (s : State) : State :=
  let t := if s.iop.hid.hostFlush.getLsbD 0 then s.flushHost else s
  { t with
    iop.ep0 := t.iop.ep0.elapse
    iop.ep1 := t.iop.ep1.elapse
    iop.sport0 := t.iop.sport0.elapse
    iop.sport1 := t.iop.sport1.elapse
    iop.hid.hostFlush := s.iop.hid.hostFlush >>> 1
    iop.hid.hbw := s.iop.hid.hbw.elapse }

/-! ### Sampling of the pins (60_exceptions.md R660, R703 to R706) -/

/-- The request of one IRQ pin: a falling edge when edge-sensitive, else the low level (R660). -/
def State.irqPin (s : State) (n : Nat) : Bool :=
  let low := !s.env.irq.getLsbD n
  if s.lat.mode2.getLsbD n then low && s.env.irqPrev.getLsbD n else low

/-- The bits of IRPTL the IRQ pins request: IRQ2 to IRQ0 are bits 6 to 8. -/
def State.irqRequests (s : State) : BitVec 32 :=
  flagBits [s.irqPin 2, s.irqPin 1, s.irqPin 0] 6

/-- FLAG3-0 as inputs show in ASTAT bits 22:19 (10_state.md R52), FLAG11-4 in IOSTAT (11_state_iop.md R161). -/
def State.sampleFlags (s : State) : State :=
  let out := (s.lat.mode2.extractLsb' 15 4).setWidth 32 <<< 19
  let mask := 0x00780000#32 &&& ~~~out
  let astat := (s.sys.astat &&& ~~~mask) ||| (flagPins s.env.flags &&& mask)
  let inp := (~~~(s.iop.sys.ioctl.extractLsb' 0 8)).setWidth 32
  let iostat := (s.iop.sys.iostat &&& ~~~inp) ||| ((s.env.flags.extractLsb' 4 8).setWidth 32 &&& inp)
  { s with sys.astat := astat, iop.sys.iostat := iostat }

/-- The pins are sampled at the end of a step. -/
def State.sample (s : State) : State :=
  let s := s.sampleFlags
  { s with
    tr.requests := s.tr.requests ||| s.irqRequests
    env.irqPrev := s.env.irq }

end Sys2Proof.Machine
end

