-- ==== Sys2Proof/Machine/Sequencer.lean ====
section
/-! DEFINITION. The sequencer between instructions: fetching through the instruction cache, the loop test, the choice of
the next fetch address, the selection of an interrupt (41_program_flow.md R380, R381, R396 to R399; 60_exceptions.md
R657, R677; 20_memory.md R260, R262). -/

namespace Sys2Proof.Machine

/-! ### Instruction words in memory -/

/-- The instruction word at a program address (20_memory.md R211, R233); where there is no instruction memory, any
value. -/
def State.codeWord (s : State) (a : BitVec 24) (site : Nat) : BitVec 48 :=
  match place s.env.id (a.setWidth 32) with
  | .normal b off => if wideExists b off then s.readWide b off else (freeAt s site).setWidth 48
  | .ext n => s.extWideWord n site
  | _ => (freeAt s site).setWidth 48

/-- A program address lies in external memory. -/
def State.isExternal (s : State) (a : BitVec 24) : Bool :=
  match place s.env.id (a.setWidth 32) with
  | .ext _ => true
  | _ => false

/-! ### The instruction cache (10_state.md R61) -/

/-- The set of an address. -/
def State.cacheSet (s : State) (a : BitVec 24) : CacheSet := s.cache.get (a.extractLsb' 0 4).toFin

/-- Replace the set of an address. -/
def State.setCacheSet (s : State) (a : BitVec 24) (c : CacheSet) : State :=
  { s with cache := s.cache.set (a.extractLsb' 0 4).toNat c (a.extractLsb' 0 4).isLt }

/-- An entry holds the instruction of an address. -/
def CacheEntry.holds (e : CacheEntry) (a : BitVec 24) : Bool := e.valid && decide (e.tag = a.extractLsb' 4 20)

/-- The cached word of an address; using an entry makes the other one the next to be replaced. -/
def CacheSet.find (c : CacheSet) (a : BitVec 24) : Option (BitVec 48 × CacheSet) :=
  if c.first.holds a then some (c.first.word, { c with replaceNext := true })
  else if c.second.holds a then some (c.second.word, { c with replaceNext := false })
  else none

/-- A word enters the set in place of the entry named by the LRU bit. -/
def CacheSet.insert (c : CacheSet) (a : BitVec 24) (w : BitVec 48) : CacheSet :=
  let e : CacheEntry := ⟨true, a.extractLsb' 4 20, w⟩
  if c.replaceNext then { c with second := e, replaceNext := false } else { c with first := e, replaceNext := true }

/-! ### Fetching -/

/-- A fetch past the cache; external memory is fetched from when the bus is there. -/
def State.fetchPlain (s : State) (a : BitVec 24) (site : Nat) : Act (Fetched × State) :=
  if s.isExternal a then
    if s.extReady true a.toNat then .ok (⟨s.codeWord a site, false⟩, s.extTouch true)
    else .error (.stall (s.extWait false true))
  else .ok (⟨s.codeWord a site, false⟩, s)

/-- A fetch; `pm` when the instruction at PC makes a PM-bus data access, so that the cache, unless it is disabled,
supplies the word or, unless it is frozen, takes it in (R61; 20_memory.md R260, R262). -/
def State.fetch (s : State) (a : BitVec 24) (pm : Bool) (site : Nat) : Act (Fetched × State) :=
  if pm && !s.lat.mode2.getLsbD 4 then
    match (s.cacheSet a).find a with
    | some (w, c) => .ok (⟨w, true⟩, s.setCacheSet a c)
    | none =>
      match s.fetchPlain a site with
      | .error e => .error e
      | .ok (f, t) =>
        .ok (f, if s.lat.mode2.getLsbD 19 then t else t.setCacheSet a ((t.cacheSet a).insert a f.word))
  else s.fetchPlain a site

/-- The word that executes: a word overwritten in memory since it was fetched may be the old or the new one, unless the
cache supplied it (20_memory.md R262; U15). -/
def State.wordAtPc (s : State) (f : Fetched) : BitVec 48 :=
  if f.cached then f.word
  else
    let now := s.codeWord s.pipe.pc 8
    if f.word = now then now else if choiceAt s 6 then f.word else now

/-- The transfer of an immediate shift with one (40_compute_move.md R362): its index register, condition and DAG. -/
def shiftTransfer : Instr → Option (BitVec 3 × BitVec 5 × Bool)
  | .lshiftImmMove i _ c g _ _ _ _ _ _ | .orLshiftImmMove i _ c g _ _ _ _ _ _ | .ashiftImmMove i _ c g _ _ _ _ _ _
  | .orAshiftImmMove i _ c g _ _ _ _ _ _ | .rotImmMove i _ c g _ _ _ _ _ _ | .bclrImmMove i _ c g _ _ _ _ _ _
  | .bsetImmMove i _ c g _ _ _ _ _ _ | .btglImmMove i _ c g _ _ _ _ _ _ | .btstImmMove i _ c g _ _ _ _ _ _
  | .fdepImmMove i _ c g _ _ _ _ _ _ | .orFdepImmMove i _ c g _ _ _ _ _ _ | .fdepSeImmMove i _ c g _ _ _ _ _ _
  | .orFdepSeImmMove i _ c g _ _ _ _ _ _ | .fextImmMove i _ c g _ _ _ _ _ _ | .fextSeImmMove i _ c g _ _ _ _ _ _ =>
    some (i, c, g)
  | _ => none

/-- The instruction makes a PM-bus data access, be its condition true or not (20_memory.md section 4). -/
def pmAccess : Instr → Bool
  | .dmPmDualMove _ _ _ _ _ _ _ _ _ => true
  | .uregMemMoveM _ _ _ _ g _ _ _ | .dregMemMoveImm6 _ g _ _ _ _ _ _ | .uregMemDirect g _ _ _ | .uregMemImm32 g _ _ _ _
  | .memImm32Store _ _ g _ => g
  | i => (shiftTransfer i).any fun x => x.2.2

/-! ### The loop test (41_program_flow.md R381, R396 to R399) -/

/-- What a step does with the current loop. -/
inductive LoopStep where
  /-- The end of the loop is not being fetched. -/
  | pass
  /-- Back to the top, without a test (R393, R397). -/
  | reenter
  /-- Back to the top; a counter loop counts. -/
  | again
  /-- The loop ends. -/
  | exit
  /-- A pass of a counter loop of one or two instructions is over, and more follow (R399). -/
  | shortAgain
  /-- The last pass of such a loop is over. -/
  | shortExit
  deriving DecidableEq, Repr

/-- The current loop is one of a single instruction that is not counted: its top is its end (R397). -/
def State.loneLoop (s : State) : Bool := s.looping && decide (s.loopType = 0) && decide (s.pcTop = s.loopEnd)

/-- The instruction at PC executes, and it is the last of the current loop. -/
def State.endExecutes (s : State) : Bool := !s.pipe.killP && decide (s.pipe.pc = s.loopEnd)

/-- The decision of this step, on the state before it. A loop of one or two instructions with a count is decided when
its last instruction executes (assumption log 12). One of a single instruction that is not counted is tested by each
execution of it, the first one too, and by no other step (R397; 92_eei_decisions.md D39): while it is fetched again after
an interrupt it is not. -/
def State.loopStep (s : State) : LoopStep :=
  if s.pipe.mode ≠ .running ∨ !s.looping then .pass
  else if s.shortLoop then
    if s.endExecutes then (if s.curlcntr = 1 then .shortExit else .shortAgain)
    else .pass
  else if s.pipe.faddr ≠ s.loopEnd then .pass
  else if s.pipe.lrf || (s.loneLoop && !s.endExecutes) then .reenter
  else if s.term (s.laddr.extractLsb' 24 5) then .exit
  else .again

/-- A loop back needs the top entry of the PC stack, and the end of a loop pops it and the loop stacks: where software has
emptied them the step is refused, as a pop of an empty stack is (U11; DESIGN CHOICE, assumption log 53). `u` is the state
after the instruction. -/
def State.loopRefusal (s u : State) (l : LoopStep) : Option Refusal :=
  match l with
  | .pass | .shortAgain => none
  | .reenter | .again => if s.pcEmpty then some .emptyPcStack else none
  | .exit | .shortExit =>
    if s.pcEmpty || u.pcEmpty then some .emptyPcStack else if u.looping then none else some .emptyLoopStack

/-- `NL`: the next fetch address without a branch (R381 items 1 and 3). -/
def State.nextFetch (s : State) (l : LoopStep) : BitVec 24 :=
  match l with
  | .reenter | .again => s.pcTop
  | _ => s.pipe.faddr + 1

/-- Remove from the PC stack of `u` the entry that was the top at `s`, also from under one pushed since. Of a loop that ends
in the step of a nondelayed CALL, and in that of a PUSH PCSTK, it is the loop's own entry that goes (R382; 43_misc.md R446
do not say which); the push counts first: from 28 entries it requests SOVFI, from 30 it loses its address, though the loop
then leaves room (DESIGN CHOICE, assumption logs 77 and 78). -/
def State.dropPc (u s : State) : State :=
  let k := s.stk.pcstkp.toNat - 1
  if s.stk.pcstkp < u.stk.pcstkp ∧ u.stk.pcstkp.toNat ≤ 30 then
    { u with stk.pc := u.stk.pc.setIfInBounds k (u.stk.pc.toList.getD (k + 1) 0), stk.pcstkp := u.stk.pcstkp - 1 }
  else if u.stk.pcstkp = 0 then u
  else { u with stk.pcstkp := u.stk.pcstkp - 1 }

/-- The same for the loop stacks: of a PUSH LOOP in the step that ends a loop the pushed entry stays (43_misc.md R447 does
not say; DESIGN CHOICE, assumption log 78). -/
def State.dropLoop (u s : State) : State :=
  let k := s.stk.depth.toNat - 1
  if s.stk.depth < u.stk.depth then
    { u with
      stk.laddr := setSixth u.stk.laddr k (sixth u.stk.laddr (k + 1))
      stk.count := setSixth u.stk.count k (sixth u.stk.count (k + 1))
      stk.initial := setSixth u.stk.initial k (sixth u.stk.initial (k + 1))
      stk.top := u.stk.top.setIfInBounds k (u.stk.top.toList.getD (k + 1) none)
      stk.depth := u.stk.depth - 1 }
  else if u.stk.depth = 0 then u
  else { u with stk.depth := u.stk.depth - 1 }

/-- The count of a counter loop after a pass that does not end it (R398). If the instruction has written CURLCNTR in the step
of the test, which is refused at e - 2 and can so be only after a branch to the end of the loop, the spec does not say how
the write and the decrement meet: any value (DESIGN CHOICE, assumption log 76). -/
def State.countAfter (s u : State) : BitVec 32 :=
  if u.tr.countWritten then (freeAt s 12).setWidth 32 else s.curlcntr - 1

/-- The bookkeeping of a loop decision made at `s`, on the state `u` after the instruction. What counts down is the entry of
the loop tested: of a PUSH LOOP in that step the one under the pushed entry, of a POP LOOP the popped one, which reads as
LCNTR (R398 and 43_misc.md R447 do not say; DESIGN CHOICE, assumption log 78). -/
def State.loopCount (u s : State) (l : LoopStep) : State :=
  match l with
  | .pass | .reenter => u
  | .again | .shortAgain =>
    if s.loopType = 0 then u
    else { u with stk.count := setSixth u.stk.count (s.stk.depth.toNat - 1) (s.countAfter u) }
  | .exit | .shortExit => (u.dropLoop s).dropPc s

/-- The last pass of a short loop ends with two lost cycles, like a nondelayed branch to the instruction after it: the
loop ran too few times (R399), or an enclosing loop ends within two instructions, whose test is then still to come
(assumption log 12). As after such a branch no interrupt is taken in this step and in the next, for which the rules
say the last iteration, one cycle of it, or nothing (R399; 60_exceptions.md R677; DESIGN CHOICE, assumption log 82). -/
def State.shortOverhead (s u : State) (l : LoopStep) : Bool :=
  let initial := sixth s.stk.initial (s.stk.depth.toNat - 1)
  decide (l = .shortExit)
    && ((decide (s.loopType = 1) && (decide (initial = 1) || decide (initial = 2)))
      || (decide (s.loopType = 2) && decide (initial = 1))
      || (u.looping && !u.shortLoop && (decide (u.loopEnd = s.loopEnd + 1) || decide (u.loopEnd = s.loopEnd + 2))))

/-! ### Interrupt selection (60_exceptions.md R657, R677) -/

/-- The interrupts that end IDLE16: IRQ2-0 and the timers (43_misc.md R452). -/
def idle16Mask : BitVec 32 := 0x008001D0

/-- `tmask` (R657, R673, R674). -/
def State.tmask (s : State) : BitVec 32 :=
  match lowestBit s.sys.imaskp with
  | none => s.sys.imask
  | some top => if s.sys.mode1.getLsbD 11 then s.sys.imask &&& (bitOf top - 1) else 0

/-- The interrupt R657 selects: the lowest-numbered pending one, if interrupts are enabled. The end of a boot is taken
whatever the enable bit (70_reset_and_hazards.md R905). -/
def State.selected (s : State) : Option Nat :=
  let cand := s.sys.irptl &&& s.tmask &&& ~~~3#32
  let cand := if s.pipe.mode = .idle16 then cand &&& idle16Mask else cand
  let cand :=
    if s.sys.mode1.getLsbD 12 then cand else if s.iop.hid.booting then cand &&& bitOf 16 else 0
  lowestBit cand

/-- The third-to-last pass of a loop of one instruction, while it runs (a core that is idle there passes through no
iteration: 43_misc.md R451, R452): of a counter loop the one that begins with a count of 3, else the one whose test is
true, as two more follow it (R397). -/
def State.thirdToLast (s : State) : Bool :=
  decide (s.pipe.mode = .running) && s.endExecutes
    && ((s.shortLoop && decide (s.loopType = 1) && decide (s.curlcntr = 3))
      || (s.loneLoop && decide (s.loopStep = .exit)))

/-- A step takes no interrupt (R677): after an entry or a branch, in a branch, and in the third-to-last pass of a loop of
one instruction. -/
def State.heldOff (s : State) (branch : Bool) : Bool :=
  decide (s.pipe.holdoff ≠ 0) || branch || s.thirdToLast

/-! ### Advancing (R380, R381) -/

/-- The pipeline moves on: `s` is the state before the instruction, `f` the word at FADDR, `nf` the next fetch address,
`kill` when the two instructions behind are to be NOPs. -/
def State.shift3 (u s : State) (f : Fetched) (nf : BitVec 24) (kill : Bool) : State :=
  let kP := s.pipe.killD || kill
  { u with
    pipe.pc := s.pipe.daddr
    pipe.killP := kP
    pipe.irP := if kP then none else u.pipe.irD
    pipe.daddr := s.pipe.faddr
    pipe.killD := kill
    pipe.irD := if kill then none else some f
    pipe.faddr := nf }

/-- The word at a decode address that the sequencer set anew. -/
def State.redecode (u s : State) (d f : BitVec 24) : State :=
  if u.pipe.daddr = d then { u with pipe.faddr := f }
  else { u with pipe.daddr := d, pipe.faddr := f, pipe.irD := some ⟨s.codeWord d 9, false⟩ }

/-- The first pass of a loop of one or two instructions that is not counted (R397): a one-instruction loop holds the
decode and fetch address at its end, a two-instruction loop fetches its top next. -/
def State.enterLoop (u s : State) : State :=
  match u.tr.loopStarted with
  | none => u
  | some (e, kind) =>
    if kind ≠ 0 then u
    else if e = s.pipe.pc + 1 then u.redecode s e e
    else if e = s.pipe.pc + 2 then { u with pipe.faddr := s.pipe.pc + 1 }
    else u

/-- The addresses behind the next instruction while it stands in a counter loop of one or two instructions (R399,
Tables 3-11 to 3-14): they follow from how many passes are left. -/
def State.settleShort (u s : State) : State :=
  let e := u.loopEnd
  let c := u.curlcntr
  if !u.shortLoop || u.pipe.killP || u.pipe.killD || decide (u.pipe.slots ≠ 0) then u
  else if u.loopType = 1 then
    if u.pipe.pc = e then
      u.redecode s (if c = 1 then e + 1 else e) (if c = 1 then e + 2 else if c = 2 then e + 1 else e)
    else u
  else if u.pipe.pc = e - 1 then u.redecode s e (if c = 1 then e + 1 else e - 1)
  else if u.pipe.pc = e then u.redecode s (if c = 1 then e + 1 else e - 1) (if c = 1 then e + 2 else e)
  else u

/-- The instruction is a DO UNTIL of a loop of one instruction, whose end is being fetched before it is a loop. -/
def State.startsHere (s u : State) : Bool :=
  match u.tr.loopStarted with
  | some (e, _) => decide (e = s.pipe.pc + 1)
  | none => false

/-- What the step from `s`, whose instruction leads to `u`, does with the current loop. -/
def State.loopDecision (s u : State) : LoopStep := if s.startsHere u then .pass else s.loopStep

/-- The end of the core's part of a step: `s` is the state before the instruction, `u` after it, `f` the word at FADDR
(60_exceptions.md R720 items 3 to 5: what is decided here is decided on `s`, the vector too). -/
def State.sequence (s u : State) (f : Fetched) : State :=
  let l := s.loopDecision u
  let u := if s.startsHere u then { u with pipe.lrf := s.pipe.lrf } else u.loopCount s l
  let branch : Branch := match u.tr.branch with
    | .none => if s.shortOverhead u l then .nondelayed (s.loopEnd + 1) else .none
    | b => b
  match if s.heldOff (decide (branch ≠ .none)) then none else s.selected with
  | some k => u.takeInterrupt k (s.vector k)
  | none =>
    let u := { u with pipe.holdoff := if s.pipe.holdoff = 0 then 0 else s.pipe.holdoff - 1 }
    if u.pipe.mode ≠ .running then u
    else
      match branch with
      | .none =>
        let u := { u with pipe.slots := if s.pipe.slots = 0 then 0 else s.pipe.slots - 1 }
        ((u.shift3 s f (s.nextFetch l) false).enterLoop s).settleShort s
      | .nondelayed t => { u.shift3 s f t true with pipe.slots := 0, pipe.holdoff := 1 }
      | .delayed t => { u.shift3 s f t false with pipe.slots := 2, pipe.holdoff := 1 }

end Sys2Proof.Machine
end

