-- ==== Sys2Proof/Machine/Stall.lean ====
section
/-! DEFINITION. Which steps may last longer than one cycle: the stalls, wait states and idle cycles of
70_reset_and_hazards.md R922 and R933. Only they let the timers tick more than once in a step (60_exceptions.md R699;
92_eei_decisions.md D45). -/

namespace Sys2Proof.Machine

/-! ### What an instruction uses -/

/-- The instruction writes a universal register of a kind, from memory, a register or an immediate. -/
def State.writesUreg (s : State) (p : Ureg → Bool) : Instr → Bool
  | .uregMemMoveM _ _ _ cond _ d u _ => !d && p u && s.cond cond
  | .uregUregMove _ cond u _ => p u && s.cond cond
  | .uregMemDirect _ d u _ | .uregMemImm32 _ _ d u _ => !d && p u
  | .uregImm32 u _ => p u
  | _ => false

/-- The instruction loads a register of an address generator (10_state.md R35); CJUMP and RFRAME load I6 and I7. -/
def State.loadsDag (s : State) (g : Bool) : Instr → Bool
  | .cjumpDirect _ | .cjumpPcrel _ | .rframe => !g
  | i => s.writesUreg (uregInDag · g) i

/-- The instruction uses an address generator for an address, a modify or an indirect branch (R35). -/
def usesDag (g : Bool) : Instr → Bool
  | .dmPmDualMove .. => true
  | .uregMemMoveM _ _ _ _ h _ _ _ | .dregMemMoveImm6 _ h _ _ _ _ _ _ | .uregMemImm32 h _ _ _ _ | .memImm32Store _ _ h _
  | .modify h _ _ _ _ | .modifyImm h _ _ | .bitrevImm h _ _ => h == g
  | .jumpIndirect .. | .callIndirect .. => g
  | .jumpIndirectElseMove .. => true
  | .jumpPcrel6ElseMove .. | .rframe => !g
  | i => (shiftTransfer i).any fun x => x.2.2 == g

/-- A data access: on the PM bus or the DM bus, of PX, at an address. -/
structure DataAccess where
  pm : Bool
  px : Bool
  addr : BitVec 32
  deriving DecidableEq, Repr

/-- The data accesses the instruction makes at `s`. -/
def State.dataAccesses (s : State) : Instr → List DataAccess
  | .dmPmDualMove _ dmi _ _ _ pmi _ _ _ => [⟨false, false, s.postAddr false dmi⟩, ⟨true, false, s.postAddr true pmi⟩]
  | .uregMemMoveM b i m cond g _ u _ =>
    if s.cond cond then [⟨g, decide (u = .px), s.indexedAddr b g i (s.dagReg .m g m)⟩] else []
  | .dregMemMoveImm6 i g _ b cond data _ _ => if s.cond cond then [⟨g, false, s.indexedAddr b g i (imm6 data)⟩] else []
  | .jumpIndirectElseMove _ dmi _ cond _ _ _ _ | .jumpPcrel6ElseMove _ dmi _ cond _ _ _ =>
    if s.cond cond then [] else [⟨false, false, s.postAddr false dmi⟩]
  | .uregMemDirect g _ u a => [⟨g, decide (u = .px), dagTrunc g a⟩]
  | .uregMemImm32 g i _ u data => [⟨g, decide (u = .px), s.premodify g i data⟩]
  | .memImm32Store i _ g _ => [⟨g, false, s.postAddr g i⟩]
  | .rframe => [⟨false, false, s.dagReg .i false 6⟩]
  | i =>
    match shiftTransfer i with
    | some (k, cond, g) => if s.cond cond then [⟨g, false, s.postAddr g k⟩] else []
    | none => []

/-! ### The causes -/

/-- What an access may wait for. -/
inductive Target where
  /-- A block of internal memory. -/
  | block (b : Bool)
  /-- The rest of the chip, or the external bus. -/
  | outside
  /-- Nothing: the address is reserved or does not exist, and its access does not stall (20_memory.md R204). -/
  | nothing
  deriving DecidableEq, Repr

/-- The target of an access of a place; `wide` when it moves more than 32 bits of a normal word. -/
def Place.target (wide : Bool) : Place → Target
  | .normal b off => if wide && !wideExists b off then .nothing else .block b
  | .short c => .block (decide (cellNumber true 0 0 ≤ c))
  | .iop r => if iopRegAt r = .reserved then .nothing else .outside
  | .remote | .ext _ => .outside
  | .reserved => .nothing

/-- The target of a data access: PX takes 48 bits, a block of 40-bit data 40 (R222, R231). -/
def State.target (s : State) (a : DataAccess) : Target :=
  match place s.env.id a.addr with
  | .normal b off => (Place.normal b off).target (a.px || s.imdw b)
  | p => p.target false

/-- The block the fetch takes a 48-bit word from, where it comes from internal memory. -/
def State.fetchTarget (s : State) : Target := (place s.env.id (s.pipe.faddr.setWidth 32)).target true

/-- Two targets are one block of internal memory. -/
def Target.meets : Target → Target → Bool
  | .block a, .block b => a == b
  | _, _ => false

/-- The rest of the chip, or the bus, may hold up the instruction: an access of an IOP register, or outside of internal
memory (R922). -/
def State.leavesMemory (s : State) (i : Instr) : Bool := (s.dataAccesses i).any fun a => decide (s.target a = .outside)

/-- Two accesses meet in a block: the two of the instruction, or one on the DM bus and the fetch, which the cache does not
supply (R922; 20_memory.md R251). `f` is the word at FADDR. -/
def State.blockConflict (s : State) (i : Instr) (f : Fetched) : Bool :=
  (match s.dataAccesses i with
    | [a, b] => (s.target a).meets (s.target b)
    | _ => false)
  || (!f.cached && (s.dataAccesses i).any fun a => !a.pm && (s.target a).meets s.fetchTarget)

/-- An address generator is used right after one of its registers was loaded (R922 "Register conflict"; 10_state.md
R35). -/
def State.dagConflict (s : State) (i : Instr) : Bool :=
  (s.lat.dag1Loaded && usesDag false i) || (s.lat.dag2Loaded && usesDag true i)

/-- A stage of the pipeline is fetched from external memory. -/
def State.fetchesExternal (s : State) (f : Fetched) : Bool :=
  (!f.cached && s.isExternal s.pipe.faddr)
    || (!s.pipe.killP && s.pipe.irP.isNone && s.isExternal s.pipe.pc)
    || (!s.pipe.killD && s.pipe.irD.isNone && s.isExternal s.pipe.daddr)

/-- The core's part of a step may last longer than one cycle: it is idle, fetches or accesses what may wait, meets one of
the conflicts above, misses the cache beside a PM data access (R922, R933), or takes the vector interrupt, whose entry has
three cycles more (R922; 60_exceptions.md R679). `s` is the state before the instruction `i`, `u` after it, `t` after the
sequencer. The cycles of a branch, an interrupt entry and a short loop that R922 lists are steps of their own. -/
def State.mayStall (s : State) (i : Option Instr) (f : Fetched) (u t : State) : Bool :=
  decide (u.pipe.mode ≠ .running) || s.fetchesExternal f
    || i.any (fun i => s.leavesMemory i || s.blockConflict i f || s.dagConflict i || (pmAccess i && !f.cached))
    || (t.sys.imaskp &&& ~~~u.sys.imaskp).getLsbD 5

end Sys2Proof.Machine
end

