-- ==== Sys2Proof/Machine/Cycle.lean ====
section
/-! DEFINITION. One step of the machine: the instruction at PC, the sequencer, then what happens beside it, and the
interrupt latch (60_exceptions.md R720, R654; 61_dma_extport.md R730). -/

namespace Sys2Proof.Machine

/-! ### Before the instruction -/

/-- The notes of the last step are gone; whether the vector interrupt is in service is noted (60_exceptions.md R690). -/
def State.fresh (s : State) : State :=
  { s with
    tr := State.restTransient
    iop.hid.busWait := false
    iop.hid.extUsed := false
    iop.hid.hostWord := false
    iop.hid.coreFlush := false
    iop.hid.vectorService := s.sys.imaskp.getLsbD 5 }

/-- Fill an empty stage of the pipeline from memory (after reset and after a jump of the sequencer's own). -/
def State.fill (s : State) (kill : Bool) (ir : Option Fetched) (a : BitVec 24) (site : Nat) :
    Act (Option Fetched × State) :=
  if kill then .ok (none, s)
  else
    match ir with
    | some f => .ok (some f, s)
    | none =>
      match s.fetchPlain a site with
      | .error e => .error e
      | .ok (f, t) => .ok (some f, t)

/-- What a step starts with: the instruction to execute, none for a NOP of the sequencer; the word at FADDR; the
state. -/
structure Issue where
  instr : Option Instr
  fetched : Fetched
  state : State
  deriving DecidableEq, Repr

/-- Decode the word at PC; a word that is no instruction is refused when it comes to execution. -/
def State.decodeAtPc (s : State) (p : Option Fetched) : Act (Option Instr) :=
  match p with
  | none => .ok none
  | some f =>
    match decode (s.wordAtPc f) with
    | .ok i => .ok (some i)
    | .error _ => refuse .undefinedWord

/-- The loop re-entry flag is used up: the end of the loop is fetched without a test, or it is a counter loop of one or
two instructions, which is tested elsewhere (41_program_flow.md R381, R393, R399; assumption log 12). -/
def State.lrfUsed (s : State) : Bool :=
  decide (s.loopStep = .reenter) || (s.shortLoop && decide (s.pipe.faddr = s.loopEnd))

/-- The pipeline stages are filled and the word at FADDR is fetched (41_program_flow.md R380, R381). While the core is
idle nothing is fetched. -/
def State.issue (s : State) : Act Issue :=
  if s.pipe.mode ≠ .running then .ok ⟨none, ⟨0, false⟩, s⟩
  else do
    let (p, t) ← s.fill s.pipe.killP s.pipe.irP s.pipe.pc 8
    let (d, t) ← t.fill t.pipe.killD t.pipe.irD t.pipe.daddr 9
    let i ← t.decodeAtPc p
    let (f, t) ← t.fetch t.pipe.faddr ((i.map pmAccess).getD false) 7
    .ok ⟨i, f,
      { t with pipe.irP := p, pipe.irD := d, pipe.lrf := s.pipe.lrf && !s.lrfUsed }⟩

/-! ### Beside the instruction (60_exceptions.md R699; 61_dma_extport.md R730; assumption log 8) -/

/-- The share of the surroundings in this step. -/
def State.input (s : State) : Input := s.env.script.headD ⟨0, 1, [], false⟩

/-- The I/O processor acts, then outside events happen. -/
def State.others (s : State) : Act State := do
  let t ← s.actions s.input.actions
  t.events (t.env.waiting ++ s.input.events)

/-- What happens before the core's part of a step: all that the others do in it, where it comes first. -/
def State.ahead (s : State) : Act State := if s.input.early then s.others else .ok s

/-- What happens after the core's part of a step: the timers tick, once, and as often as the script says if the step lasts
longer (R699, D45); the others act unless they have, the bus is arbitrated, the pins are sampled. In IDLE16 the bus does
not change hands: the step is refused (43_misc.md R452; U20). -/
def State.beside (s : State) (longer : Bool) : Act State := do
  let t ← s.ticks (1 + if longer then s.input.extraTicks else 0)
  let t ← if s.input.early then .ok t else t.others
  if t.pipe.mode = .idle16 && t.handsOver then refuse .idle16Activity
  else .ok { t with env.script := t.env.script.tail }.arbitrate.sample

/-! ### What the rules leave out (41_program_flow.md R400; 70_reset_and_hazards.md R921; U18) -/

/-- A JUMP, CALL, RTS or RTI: whether it is delayed, and whether it is a CALL; CJUMP is a delayed jump. -/
def branchOf : Instr → Option (Bool × Bool)
  | .jumpDirect _ _ j _ _ | .jumpPcrel _ _ j _ _ | .jumpIndirect _ _ _ _ j _ _ _ | .jumpPcrel6 _ _ _ j _ _ _
  | .rts _ j _ _ _ | .rti _ j _ _ =>
    some (j, false)
  | .jumpIndirectElseMove _ _ _ _ _ _ _ _ | .jumpPcrel6ElseMove _ _ _ _ _ _ _ => some (false, false)
  | .cjumpDirect _ | .cjumpPcrel _ => some (true, false)
  | .callDirect _ _ j _ _ | .callPcrel _ _ j _ _ | .callIndirect _ _ _ _ j _ _ _ | .callPcrel6 _ _ _ j _ _ _ =>
    some (j, true)
  | _ => none

/-- A JUMP, CALL, RTS or RTI, whether or not its condition holds (R400). -/
def isBranch (i : Instr) : Bool := (branchOf i).isSome

/-- A CALL that is not delayed. -/
def isPlainCall (i : Instr) : Bool := decide (branchOf i = some (false, true))

/-- Where the current loop begins: at the top it was started with; where PUSH LOOP made it, at its end if it is one of one
instruction, and else the spec does not say (assumption log 53). -/
def State.loopStart (s : State) : Option (BitVec 24) :=
  s.loopTop <|> if s.loneLoop then some s.loopEnd else none

/-- The instruction at PC does not stand before the current loop. -/
def State.inLoopBody (s : State) : Bool :=
  s.loopStart.all fun b => decide ((s.loopEnd - s.pipe.pc).toNat ≤ (s.loopEnd - b).toNat)

/-- The instruction at PC is one of the last three of the current loop, or one of all of a shorter one. -/
def State.inLoopTail (s : State) : Bool :=
  s.looping && s.inLoopBody
    && (decide (s.pipe.pc = s.loopEnd) || (decide (s.loopType ≠ 1) && decide (s.pipe.pc = s.loopEnd - 1))
      || (!s.shortLoop && decide (s.pipe.pc = s.loopEnd - 2)))

/-- A branch there is refused, but for a CALL that is not delayed; that one is so in a loop of one instruction, and in one
of two instructions and one iteration (R393, R400). -/
def State.loopBranch (s : State) (i : Instr) : Bool :=
  let one := decide (s.loopType = 1) || decide (s.loopStart = some s.loopEnd)
  let once := decide (s.loopType = 2) && decide (sixth s.stk.initial (s.stk.depth.toNat - 1) = 1)
  isBranch i && s.inLoopTail && (!isPlainCall i || one || once)

/-- A fetched word is a branch that may not stand at the end of a loop of three instructions or more. -/
def Fetched.endsBadly (f : Fetched) : Bool :=
  match decode f.word with
  | .ok i => isBranch i && !isPlainCall i
  | .error _ => false

/-- The loop ends in this step and its last two instructions, which now stand at DADDR and FADDR, are still to execute;
they leave no trace on the loop stacks, so such a branch among them is found here (R921 row 9, R400). -/
def State.lastPassBranch (s u : State) (f : Fetched) : Bool :=
  decide (s.loopDecision u = .exit)
    && (f.endsBadly
      || (!s.pipe.killD && decide (s.pipe.daddr = s.loopEnd - 1) && u.pipe.irD.any Fetched.endsBadly))

/-- The step that began at `s` is refused: `u` is the state after the instruction `i`, none for a NOP of the sequencer,
`f` the word at FADDR. -/
def State.stepRefusal (s u : State) (i : Option Instr) (f : Fetched) : Option Refusal :=
  match s.loopRefusal u (s.loopDecision u) with
  | some r => some r
  | none =>
    if i.any s.loopBranch || s.lastPassBranch u f then some .loopBranch
    else none

/-! ### After the instruction -/

/-- A single-word request of an external port buffer (61_dma_extport.md R745). -/
def ExtPort.levelRequest (e : ExtPort) : Bool := !e.den && e.intio && (if e.tran then e.room else !e.fifo.isEmpty)

/-- The requests of the sticky arithmetic flags, which are levels, on the state at the start of the step (60_exceptions.md
R664). -/
def State.stickyRequests (s : State) : BitVec 32 :=
  let st := fun k => s.sys.stky.getLsbD k
  flagBits [st 2 || st 6, st 1 || st 7, st 0 || st 8, st 5 || st 9] 24

/-- The requests of the buffers, which are levels too, on the same state (R666). -/
def State.bufferRequests (s : State) : BitVec 32 :=
  flagBits [s.iop.sport0.rxRequest, s.iop.sport1.rxRequest, s.iop.sport0.txRequest, s.iop.sport1.txRequest] 10
    ||| flagBits [s.iop.ep0.levelRequest, s.iop.ep1.levelRequest] 16

/-- The latch (R654): requests set bits of IRPTL; those of the interrupts in service are cleared. `s` is the state at the
start of the step, whose mask pointer counts (R720: "All of 3 to 6 read the state of 1"; assumption log 40): a level that
lasts is latched again in the first step after its service ended. An arithmetic exception is latched in a step of the core
(`core`), not in the cycles in which the core only waits, which are no steps (R677 item 4): two more instructions execute
after it, also where the first of them waits (R680). -/
def State.latch (u s : State) (core : Bool) : State :=
  { u with
    sys.irptl := (u.sys.irptl ||| u.tr.requests ||| s.bufferRequests ||| if core then s.stickyRequests else 0)
      &&& ~~~s.sys.imaskp
    iop.sys.dmastat := s.dmaStatus }

/-- What SYSCON still may be in the next step: the register before a write in this one (R931; U36), else as given. -/
def State.sysconLatency (u : State) (kept : Option (BitVec 32 × Nat)) : Option (BitVec 32 × Nat) :=
  match u.tr.syscon with
  | some (_, before) => some (before, 32 * u.free + 10)
  | none => kept

/-- What was written takes effect one step later (10_state.md R24, R42; 70_reset_and_hazards.md R931): `s` is the state
at the start of the step. A value written to PCSTKP replaces the pointer at the end of the step after the write, also one
that a push, a pop or the entry of an interrupt changed in that step or the one before: which change stays the spec does
not say (R38; 60_exceptions.md R670; DESIGN CHOICE, assumption log 50). -/
def State.settleLatency (u s : State) : State :=
  { u with
    lat.mode1 := s.sys.mode1
    lat.mode2 := s.sys.mode2
    lat.astat := if u.tr.astatWritten then s.sys.astat else u.sys.astat
    lat.imaskp := if u.tr.imaskpWritten then s.sys.imaskp else u.sys.imaskp
    lat.pcstkp := u.tr.pcstkp
    lat.curlcntr := u.tr.curlcntr
    lat.syscon := u.sysconLatency none
    lat.afterNotLce := u.tr.notLce
    lat.master := none
    stk.pcstkp := s.lat.pcstkp.getD u.stk.pcstkp }

/-- The step is over: a reset, if one was asked for, happens now (70_reset_and_hazards.md R901). -/
def State.close (s : State) : State :=
  let t := { s with free := s.free + 1 }
  (if t.tr.reset then t.resetNow else t).fresh

/-- The external words left of BCNT have been moved by an instruction that then waits (61_dma_extport.md R754; assumption
log 48). -/
def State.payBudget (s : State) : State :=
  { s with iop.hid.paid := s.iop.hid.paid + s.budget, iop.sys.bcnt := 0, iop.hid.lastUsed := true }

/-- A step in which the instruction, or the fetch, waits: only the rest of the chip goes on, and the step is tried again.
`s` is the state the core's part began at, `w` what is waited for, `m` the master by which the condition of the instruction
was evaluated, none where it has not been. -/
def State.waitStep (s : State) (w : Wait) (m : Option Bool) : Act State := do
  let t := if w = .count then s.payBudget else s
  let t ← { t with iop.hid.coreWait := w, iop.hid.busWait := s.iop.hid.busWait || w.ofBus }.beside true
  .ok ({ t with lat.syscon := t.sysconLatency s.lat.syscon, lat.master := m }.latch s false).elapse.close

/-- The registers of the address generators that the instruction loaded, `s` being the state before it (10_state.md
R35). -/
def State.noteLoads (t s : State) (i : Option Instr) : State :=
  { t with lat.dag1Loaded := i.any (s.loadsDag false), lat.dag2Loaded := i.any (s.loadsDag true) }

/-- A step in which the core did its part: `u` is the state after the instruction `i`, `f` the word at FADDR. -/
def State.fullStep (s : State) (i : Option Instr) (u : State) (f : Fetched) : Act State := do
  let t := s.sequence u f
  let t ← { t with iop.hid.coreWait := .none, iop.hid.paid := 0 }.beside (s.mayStall i f u t)
  .ok (((t.latch s true).settleLatency s).noteLoads s i).elapse.close

/-- The end of a step that began at `s`: `u` is the state after the instruction `i`. -/
def State.conclude (s : State) (i : Option Instr) (u : State) (f : Fetched) : Host.Outcome State Fault Refusal :=
  if u.tr.stall then finish s (s.waitStep u.iop.hid.coreWait (some s.condMaster))
  else
    match s.stepRefusal u i f with
    | some r => .refused r
    | none => finish s (s.fullStep i u f)

/-- The core's part of a step, and what comes after it, from the state `s` it begins at. -/
def State.coreStep (s : State) : Host.Outcome State Fault Refusal :=
  match s.issue with
  | .error (.stall w) => finish s (s.waitStep w s.lat.master)
  | .error (.fault r) => .fault r
  | .error (.refuse r) => .refused r
  | .ok j =>
    match j.instr with
    | none => s.conclude none j.state j.fetched
    | some i =>
      match exec i j.state with
      | .next u => s.conclude (some i) u j.fetched
      | .fault r => .fault r
      | .refused r => .refused r

/-- One step; the pins ID1-0 are not 11 (61_dma_extport.md R752; U33). -/
def State.cycle (s : State) : Host.Outcome State Fault Refusal :=
  if s.env.id = 3 then .refused .processorId
  else
    match s.fresh.ahead with
    | .ok t => t.coreStep
    | .error (.stall w) => .next (stalled s w)
    | .error (.fault r) => .fault r
    | .error (.refuse r) => .refused r

/-! ### Placing an instruction -/

/-- Write a 48-bit word where the sequencer fetches it; outside of instruction memory nothing is written. Queued writes
of those cells are done away with. -/
def State.placeCode (s : State) (a : BitVec 24) (w : BitVec 48) : State :=
  match place s.env.id (a.setWidth 32) with
  | .normal b off =>
    if wideExists b off then { s with mem := writeCells s.mem (wideWrites b off w), shadow := [] } else s
  | .ext n => { s with mem := writeExtWide s.mem n w }
  | _ => s

/-- The word stands at PC and executes in the very next step. Where the sequencer would execute a NOP in its place, as
right after reset, the stages behind it are those of sequential flow (10_state.md R37). -/
def State.placeAtPc (s : State) (w : BitVec 48) : State :=
  let t := s.placeCode s.pipe.pc w
  let t := { t with pipe.irP := none, pipe.mode := .running }
  if s.pipe.killP then
    { t with
      pipe.killP := false
      pipe.daddr := s.pipe.pc + 1
      pipe.faddr := s.pipe.pc + 2
      pipe.killD := false
      pipe.irD := none }
  else t

end Sys2Proof.Machine
end

