-- ==== Sys2Proof/Machine/Step.lean ====
section
/-! DEFINITION. The step function, and where an instruction is put so that the next step runs it. -/

namespace Sys2Proof.Machine

/-- One step of the machine (60_exceptions.md R720). -/
def step (s : State) : Host.Outcome State Fault Refusal := s.cycle

/-- The state with an instruction, given as `nbits` bits numbered as spec/opcode_table.json numbers them, stored at the
address the next step executes. A row of the COMPUTE field stands in the unconditional Type 2 word, as in
`decodeTableWord` (assumption log 2); how a program comes to stand in memory is assumption log 11. -/
def State.withFetchWord (s : State) (nbits w : Nat) : State := s.placeAtPc (tableWord nbits w)

end Sys2Proof.Machine
end

