-- ==== Sys2Proof/Safety.lean ====
section
/-! DEFINITION. What counts as a safe run, in the terms the statements use: the invariants every step keeps, what a
computation or an access may touch, and the places an access completes at. -/

namespace Sys2Proof.Machine

/-! ### What a computation may touch -/

/-- R[n] of the set that is not in effect (10_state.md R28). -/
def State.idleReg (s : State) (n : BitVec 4) : BitVec 40 :=
  if s.altData n then s.data.primary.get n.toFin else s.data.alternate.get n.toFin

/-- From `s` to `t` only the data registers `rs`, the accumulators `as` (false MRF, true MRB), the bits `am` of ASTAT and
the bits `sm` of STKY may have changed, the latter only from 0 to 1; every other part of the state is as it was, every
byte of memory among them. -/
structure ComputeFrame (s t : State) (rs : List (BitVec 4)) (as : List Bool) (am sm : BitVec 32) : Prop where
  rest : t = { s with data := t.data, sys.astat := t.sys.astat, sys.stky := t.sys.stky }
  px : t.data.px = s.data.px
  regs : ∀ n, n ∉ rs → t.rreg n = s.rreg n
  idle : ∀ n, t.idleReg n = s.idleReg n
  accs : ∀ b, b ∉ as → t.acc b = s.acc b
  astat : t.sys.astat &&& ~~~am = s.sys.astat &&& ~~~am
  stky : t.sys.stky &&& ~~~sm = s.sys.stky &&& ~~~sm
  sticky : s.sys.stky &&& ~~~t.sys.stky = 0
  mem : ∀ k, t.byteAt k = s.byteAt k

end Sys2Proof.Machine

namespace Sys2Proof

/-- The data registers an operation writes (files 44 to 48). -/
def Compute.dests : Compute → List (BitVec 4)
  | .none | .mrWrite _ _ => []
  | .alu .comp _ _ _ | .flt .comp _ _ _ | .shift .btst _ _ _ => []
  | .alu _ rn _ _ | .flt _ rn _ _ | .shift _ rn _ _ => [rn]
  | .dualAlu rs ra _ _ | .dualFlt rs ra _ _ => [rs, ra]
  | .mul op rn _ _ =>
    match op with
    | .rn _ | .rnMrfAdd _ | .rnMrbAdd _ | .rnMrfSub _ | .rnMrbSub _ | .rnSatMrf _ | .rnSatMrb _
    | .rnRndMrf _ | .rnRndMrb _ | .fmul => [rn]
    | _ => []
  | .mrRead _ rk => [rk]
  | .mulAlu mop _ rm ra _ _ _ _ =>
    match mop with
    | .mrfAdd | .mrfSub => [ra]
    | _ => [rm, ra]
  | .mulFlt _ rm ra _ _ _ _ => [rm, ra]
  | .mulDualAlu rs rm ra _ _ _ _ | .mulDualFlt rs rm ra _ _ _ _ => [rs, rm, ra]

/-- The accumulators an operation writes: false MRF, true MRB (46_multiplier.md). -/
def Compute.accs : Compute → List Bool
  | .mul op _ _ _ =>
    match op with
    | .mrf _ | .mrfAdd _ | .mrfSub _ | .mrfSat _ | .mrfRnd _ | .mrfZero => [false]
    | .mrb _ | .mrbAdd _ | .mrbSub _ | .mrbSat _ | .mrbRnd _ | .mrbZero => [true]
    | _ => []
  | .mrWrite mr _ => [Machine.mrBack mr]
  | .mulAlu mop _ _ _ _ _ _ _ =>
    match mop with
    | .mrfAdd | .mrfSub => [false]
    | _ => []
  | _ => []

/-- The bits of ASTAT an operation writes: AZ, AV, AN, AC, AS, AI, AF of the ALU, with CACC for a compare
(44_alu_fixed.md R473, 45_alu_float.md R504); MN, MV, MU, MI of the multiplier (46_multiplier.md R545); SV, SZ, SS of the
shifter (47_shifter.md). -/
def Compute.astatMask : Compute → BitVec 32
  | .none => 0
  | .alu .comp _ _ _ | .flt .comp _ _ _ => 0xFF00043F
  | .alu _ _ _ _ | .flt _ _ _ _ | .dualAlu _ _ _ _ | .dualFlt _ _ _ _ => 0x0000043F
  | .mul _ _ _ _ | .mrRead _ _ | .mrWrite _ _ => 0x000003C0
  | .shift _ _ _ _ => 0x00003800
  | .mulAlu _ _ _ _ _ _ _ _ | .mulFlt _ _ _ _ _ _ _ | .mulDualAlu _ _ _ _ _ _ _ | .mulDualFlt _ _ _ _ _ _ _ =>
    0x000007FF

/-- The bits of STKY a fixed-point ALU operation can set: AOS, for those that can overflow (R495). -/
def AluOp.stkyMask : AluOp → BitVec 32
  | .add | .sub | .addCi | .subCi | .incCi | .decCi | .inc | .dec | .neg | .abs => 0x00000004
  | _ => 0

/-- The bits of STKY a floating-point ALU operation can set: AUS, AVS, AIS (45_alu_float.md R506 to R529). -/
def FltOp.stkyMask : FltOp → BitVec 32
  | .add | .sub | .absAdd | .absSub | .scalb | .fix | .fixBy | .trunc | .truncBy => 0x00000023
  | .avg => 0x00000021
  | .rnd | .logb | .recips | .rsqrts => 0x00000022
  | .floatBy => 0x00000003
  | .float => 0
  | .comp | .neg | .abs | .pass | .mant | .copysign | .min | .max | .clip => 0x00000020

/-- The bits of STKY a multiplier operation can set: MOS, or MVS, MUS, MIS (46_multiplier.md R545, R560, R568, R570). -/
def MulOp.stkyMask : MulOp → BitVec 32
  | .rnSatMrf _ | .rnSatMrb _ | .mrfSat _ | .mrbSat _ | .mrfZero | .mrbZero => 0
  | .fmul => 0x00000380
  | _ => 0x00000040

/-- The bits of STKY an operation can set. -/
def Compute.stkyMask : Compute → BitVec 32
  | .none | .shift _ _ _ _ | .mrRead _ _ | .mrWrite _ _ => 0
  | .alu op _ _ _ => op.stkyMask
  | .flt op _ _ _ => op.stkyMask
  | .dualAlu _ _ _ _ => 0x00000004
  | .dualFlt _ _ _ _ => 0x00000023
  | .mul op _ _ _ => op.stkyMask
  | .mulAlu mop aop _ _ _ _ _ _ => (Machine.parMulOp mop).stkyMask ||| (Machine.parAluOp aop).stkyMask
  | .mulFlt aop _ _ _ _ _ _ => 0x00000380 ||| (Machine.parFltOp aop).stkyMask
  | .mulDualAlu _ _ _ _ _ _ _ => 0x00000044
  | .mulDualFlt _ _ _ _ _ _ _ => 0x000003A3

end Sys2Proof

namespace Sys2Proof.Machine

/-! ### What an access touches -/

/-- An access of a normal word is 40 or 48 bits wide: PX, or a block set to 40-bit data (20_memory.md R222, R231). -/
def State.wideAccess (s : State) (px b : Bool) : Bool := px || s.imdw b

/-- The keys of the bytes of a column cell. -/
def cellKeys (c : Nat) : List Nat := [2 * c, 2 * c + 1]

/-- The keys of the bytes of a 32-bit external word. -/
def extKeys (a : Nat) : List Nat := [extBase + 4 * a, extBase + 4 * a + 1, extBase + 4 * a + 2, extBase + 4 * a + 3]

/-- The keys of the bytes that a store to a place writes; `px` when the register is PX. -/
def State.storedKeys (s : State) (px : Bool) : Place → List Nat
  | .normal b off =>
    if s.wideAccess px b then
      if wideExists b off then
        cellKeys (wideCell b off 0) ++ cellKeys (wideCell b off 1) ++ cellKeys (wideCell b off 2)
      else []
    else cellKeys (narrowCell b off 0) ++ cellKeys (narrowCell b off 1)
  | .short c => cellKeys c
  | .ext n =>
    if s.extKeeps n then (if px then extKeys (packedAddr n) ++ extKeys (packedAddr n + 1) else extKeys n) else []
  | _ => []

/-- An access at a place completes at once: internal memory and reserved addresses always, external memory and the
other processor when this one has the bus and ACK is raised where it is needed (20_memory.md R267, R269). Accesses of its
own IOP registers are apart: their buffers may hold them. `px` when the register is PX. -/
def State.completes (s : State) (px : Bool) : Place → Bool
  | .iop _ => false
  | .remote => s.remoteReady
  | .ext n => s.extReady px n
  | _ => true

/-- From `s` to `t` nothing outside the address generators, STKY's circular-buffer bits and the interrupt requests has
changed: what a postmodify may touch (20_memory.md R242, R244). -/
structure DagFrame (s t : State) : Prop where
  rest : t = { s with dag := t.dag, sys.stky := t.sys.stky, tr.requests := t.tr.requests }
  stky : t.sys.stky &&& ~~~0x00060000#32 = s.sys.stky &&& ~~~0x00060000#32
  sticky : s.sys.stky &&& ~~~t.sys.stky = 0

/-! ### Invariants -/

/-- Memory has its canonical form, and what is queued for it belongs to internal memory. -/
structure MemInv (s : State) : Prop where
  canonical : Memory.wf s.mem = true
  queued : ∀ e ∈ s.shadow, ∀ c ∈ e.cells, c.1 < 34816
  short : s.shadow.length ≤ 2

/-- The core's registers are as the spec says they read: bits 0 and 1 of IMASK are 1 (60_exceptions.md R662), the loop and
status stacks hold at most six and five entries (10_state.md R40, R44), and the stack flags that are views stand nowhere
else (R39, R43, R45). Between steps there are no notes. -/
structure CoreInv (s : State) : Prop where
  depth : s.stk.depth.toNat ≤ 6
  status : s.stk.status.length ≤ 5
  imask : s.sys.imask &&& 3 = 3
  stky : s.sys.stky &&& 0x05600000 = 0
  notes : s.tr = State.restTransient

/-- No buffer of the I/O processor holds more than it can: six words in an external port buffer, six counted requests,
four words in the slave write FIFO, two in each buffer of a serial port (61_dma_extport.md R745, R747, R757;
62_serial_ports.md R843, R844). -/
structure BufferInv (s : State) : Prop where
  fifo : ∀ x, (s.iop.ep x).fifo.length ≤ 6
  requests : ∀ x, (s.iop.ep x).requests.length ≤ 6
  swf : s.iop.hid.swf.length ≤ 4
  tx : ∀ x z, ((s.iop.sport x).tx z).queue.length ≤ 2
  rx : ∀ x z, ((s.iop.sport x).rx z).queue.length ≤ 2

/-! ### The vocabulary of the statements -/

/-- `i` answers a next state at `s`, of which `P` holds. -/
def Completes (i : Instr) (s : State) (P : State → Prop) : Prop := ∃ t, exec i s = .next t ∧ P t

/-- The unconditional Type 2 word with a compute field (30_encoding.md R311). -/
def computeWord (c : BitVec 23) : BitVec 48 := 0x0027C00#25 ++ c

/-- The ALU flags of ASTAT: AZ, AV, AN, AC, AS, AI, AF (10_state.md R52). -/
def AluStatus (t : State) (az av an ac as ai af : Bool) : Prop :=
  t.sys.astat.getLsbD 0 = az ∧ t.sys.astat.getLsbD 1 = av ∧ t.sys.astat.getLsbD 2 = an ∧ t.sys.astat.getLsbD 3 = ac
    ∧ t.sys.astat.getLsbD 4 = as ∧ t.sys.astat.getLsbD 5 = ai ∧ t.sys.astat.getLsbD 10 = af

/-- The multiplier flags of ASTAT: MN, MV, MU, MI. -/
def MulStatus (t : State) (mn mv mu mi : Bool) : Prop :=
  t.sys.astat.getLsbD 6 = mn ∧ t.sys.astat.getLsbD 7 = mv ∧ t.sys.astat.getLsbD 8 = mu ∧ t.sys.astat.getLsbD 9 = mi

/-- The shifter flags of ASTAT: SV, SZ, SS. -/
def ShiftStatus (t : State) (sv sz ss : Bool) : Prop :=
  t.sys.astat.getLsbD 11 = sv ∧ t.sys.astat.getLsbD 12 = sz ∧ t.sys.astat.getLsbD 13 = ss

/-- Bit `k` of STKY is set when `b` holds and otherwise keeps its value (10_state.md R54). -/
def Sticks (s t : State) (k : Nat) (b : Bool) : Prop := t.sys.stky.getLsbD k = (s.sys.stky.getLsbD k || b)

/-- What one pass through the fixed-point adder leaves: the sum of `a`, `b` and `cin` in R[n], saturated when ALUSAT is
in effect and the signed sum leaves the range, and the flags (44_alu_fixed.md R471, R472, R475). -/
def AdderPost (s t : State) (rn : BitVec 4) (a b : BitVec 32) (cin : Bool) : Prop :=
  let total : Int := a.toInt + b.toInt + cin.toInt
  let ovf : Bool := decide (total < -2147483648 ∨ 2147483647 < total)
  let r : BitVec 32 :=
    if s.aluSat && ovf then (if 0 < total then 0x7FFFFFFF else 0x80000000) else a + b + BitVec.ofNat 32 cin.toNat
  t.rreg rn = r ++ 0#8
    ∧ AluStatus t (decide (r = 0)) ovf r.msb (decide (2 ^ 32 ≤ a.toNat + b.toNat + cin.toNat)) false false false
    ∧ Sticks s t 2 ovf

/-- A fixed-point result that sets AZ and AN only (44_alu_fixed.md R487). -/
def LogicPost (t : State) (rn : BitVec 4) (r : BitVec 32) : Prop :=
  t.rreg rn = r ++ 0#8 ∧ AluStatus t (decide (r = 0)) false r.msb false false false false

/-- CACC has taken in one more compare: `gt` from the left (44_alu_fixed.md R480). -/
def ShiftsInto (s t : State) (gt : Bool) : Prop :=
  t.sys.astat.extractLsb' 24 8 = BitVec.ofBool gt ++ s.sys.astat.extractLsb' 25 7

/-- The state shows a floating-point ALU result: the word, if there is one, the flags, and the sticky bits. -/
def AluGives (s t : State) (rn : BitVec 4) (o : AluOut) : Prop :=
  (∀ v, o.val = some v → t.rreg rn = v)
    ∧ AluStatus t o.flags.az o.flags.av o.flags.an o.flags.ac o.flags.as o.flags.ai o.flags.af
    ∧ Sticks s t 0 o.flags.aus ∧ Sticks s t 1 o.flags.avs ∧ Sticks s t 2 o.flags.aos ∧ Sticks s t 5 o.flags.ai

/-! ### Floating-point values (45_alu_float.md R500) -/

/-- The value of a conditioned operand that is neither a NAN nor an Infinity. -/
def fltVal (w : BitVec 40) : ℚ := (if fltSign w then -1 else 1) * (fltMant w : ℚ) * (2 : ℚ) ^ fltPow w

/-- Neither a NAN nor an Infinity. -/
def fltFinite (w : BitVec 40) : Prop := fltExp w ≠ 255

/-- `q` is the multiple of the unit `2^u` that the magnitude `v` rounds to: toward zero, or to the nearest with ties to
the even one (45_alu_float.md R502). -/
def RoundsTo (trunc : Bool) (v : ℚ) (u : Int) (q : Nat) : Prop :=
  if trunc then (q : ℚ) * 2 ^ u ≤ v ∧ v < (q + 1 : ℚ) * 2 ^ u
  else 2 * |v - (q : ℚ) * 2 ^ u| ≤ 2 ^ u ∧ (2 * |v - (q : ℚ) * 2 ^ u| = 2 ^ u → q % 2 = 0)

/-- The result of a floating-point sum of conditioned operands times `2^h` (45_alu_float.md R506, R510). -/
structure SumOf (md : Modes) (h : Int) (x y : BitVec 40) (o : AluOut) : Prop where
  invalid : (fltNan x = true ∨ fltNan y = true ∨ (fltInf x = true ∧ fltInf y = true ∧ fltSign x ≠ fltSign y)) →
    o = fltInvalid md.rnd32
  left : fltInf x = true → fltNan y = false → (fltInf y = true → fltSign x = fltSign y) → o = fltOut x
  right : fltFinite x → fltInf y = true → o = fltOut y
  zero : fltFinite x → fltFinite y → fltVal x + fltVal y = 0 → o = fltOut (zeroWord (fltSign x && fltSign y))
  round : fltFinite x → fltFinite y → fltVal x + fltVal y ≠ 0 →
    ∃ (m : Nat) (e : Int), m ≠ 0 ∧ (m : ℚ) * 2 ^ e = |fltVal x + fltVal y| * 2 ^ h
      ∧ o = fltPacked (fltPack md.trunc md.bits (decide (fltVal x + fltVal y < 0)) m e)

/-- `i` is what a conversion to an integer makes of `v` (45_alu_float.md R519, R520). -/
def FixesTo (mode : FixMode) (v : ℚ) (i : Int) : Prop :=
  match mode with
  | .floor => (i : ℚ) ≤ v ∧ v < i + 1
  | .nearest => 2 * |v - i| ≤ 1 ∧ (2 * |v - i| = 1 → i % 2 = 0)
  | .zero => |(i : ℚ)| ≤ |v| ∧ |v| < |(i : ℚ)| + 1 ∧ (0 : ℚ) ≤ i * v

/-- The result of FIX or TRUNC of a NAN: all ones in bits 39:8, AI, and AN of the word (45_alu_float.md R519; the low
eight bits and AN are decisions D22 and D23 of the spec). -/
def FixNan (o : AluOut) : Prop :=
  o.val = some 0xFFFFFFFF00
    ∧ o.flags = { az := false, av := false, an := true, ac := false, as := false, ai := true, af := true, aus := false,
                  avs := false, aos := false, gt := none }

/-- The result of FIX or TRUNC of a value out of range, or of an Infinity, of sign `neg` (R519): with ALUSAT the bound of
its sign, and AN of it; without, all ones, AI and AN = 1 (D23). AV and AVS in both. -/
def FixOver (sat neg : Bool) (o : AluOut) : Prop :=
  o.val = some (if sat then (if neg then 0x8000000000 else 0x7FFFFFFF00) else 0xFFFFFFFF00)
    ∧ o.flags = { az := false, av := true, an := neg || !sat, ac := false, as := false, ai := !sat, af := true,
                  aus := false, avs := true, aos := false, gt := none }

/-- The result of FIX or TRUNC of a conditioned operand scaled by `2^k`. -/
structure FixOf (md : Modes) (mode : FixMode) (x : BitVec 40) (k : Int) (o : AluOut) : Prop where
  nan : fltNan x = true → FixNan o
  inf : fltInf x = true → FixOver md.sat (fltSign x) o
  finite : fltFinite x → ∃ i : Int, FixesTo mode (fltVal x * 2 ^ k) i ∧
    if i < -2147483648 ∨ 2147483647 < i then FixOver md.sat (fltSign x) o
    else
      o.val = some (BitVec.ofInt 32 i ++ 0#8)
        ∧ o.flags = { logicFlags (BitVec.ofInt 32 i) with
            af := true, aus := decide (fltVal x * 2 ^ k ≠ 0 ∧ |fltVal x * 2 ^ k| < 1) }

/-! ### Multiplier -/

/-- The exact product of two 32-bit operands, doubled for two signed fractions (46_multiplier.md R541, R542). -/
def productOf (m : Mod2) (x y : BitVec 32) : Int :=
  let p : Int := (if m.xSigned then x.toInt else x.toNat) * (if m.ySigned then y.toInt else y.toNat)
  if m.frac && m.xSigned && m.ySigned then 2 * p else p

/-- An 80-bit value as a number of its format. -/
def fmtValue (f : MulFmt) (v : BitVec 80) : Int := if f.signed then v.toInt else v.toNat

/-- The least and the greatest number of a format: 64 bits for a fraction, 32 for an integer (46_multiplier.md R545,
R559). -/
def fmtMin (f : MulFmt) : Int := if f.signed then (if f.frac then -2 ^ 63 else -2 ^ 31) else 0
def fmtMax (f : MulFmt) : Int :=
  if f.signed then (if f.frac then 2 ^ 63 - 1 else 2 ^ 31 - 1) else (if f.frac then 2 ^ 64 - 1 else 2 ^ 32 - 1)

/-- An 80-bit value is outside its format. -/
def fmtOver (f : MulFmt) (v : BitVec 80) : Bool := decide (fmtValue f v < fmtMin f ∨ fmtMax f < fmtValue f v)

/-- A fraction with no bits but those below it. -/
def fmtUnder (f : MulFmt) (v : BitVec 80) : Bool :=
  f.frac && decide (v ≠ 0) && decide (-2 ^ 32 < fmtValue f v ∧ fmtValue f v < 2 ^ 32)

/-- A fixed-point multiplier result `v` is delivered: to an accumulator whole, to a data register in its format
(46_multiplier.md R544). -/
def Delivered (t : State) (d : MulDest) (f : MulFmt) (rn : BitVec 4) (v : BitVec 80) : Prop :=
  match d with
  | .reg => t.rreg rn = (if f.frac then v.extractLsb' 32 32 else v.extractLsb' 0 32) ++ 0#8
  | .acc b => t.acc b = v

/-- What a delivery writes: data registers and accumulators. -/
def MulDest.regs (d : MulDest) (rn : BitVec 4) : List (BitVec 4) := match d with | .reg => [rn] | .acc _ => []
def MulDest.accs : MulDest → List Bool | .reg => [] | .acc b => [b]

/-- Rounding to nearest at bit 32, ties to even, modulo 2^80: `r` is the multiple of 2^32 that `v` rounds to
(46_multiplier.md R543). -/
def RoundsAt32 (v r : BitVec 80) : Prop :=
  ∃ q : Nat, RoundsTo false (v.toNat : ℚ) 32 q ∧ r = BitVec.ofNat 80 (q * 2 ^ 32)

/-! ### Shifter -/

/-- Bit `j` of a word, 0 outside of it. -/
def bitZ (x : BitVec 32) (j : Int) : Bool := decide (0 ≤ j) && x.getLsbD j.toNat

/-- The state shows a shifter result of which bit `j` is `f j`, with SZ of the result, SV as given and SS = 0. -/
def ShiftPost (t : State) (rn : BitVec 4) (sv : Bool) (f : Nat → Bool) : Prop :=
  ∃ r : BitVec 32, (∀ j, j < 32 → r.getLsbD j = f j) ∧ t.rreg rn = r ++ 0#8 ∧ ShiftStatus t sv (decide (r = 0)) false

/-- The first `n` bits of `x`, from bit 31 down, have the value `b`, and bit `31 - n`, if there is one, has not. -/
def LeadingRun (x : BitVec 32) (b : Bool) (n : Nat) : Prop :=
  n ≤ 32 ∧ (∀ j, 32 - n ≤ j → j < 32 → x.getLsbD j = b) ∧ (n < 32 → x.getLsbD (31 - n) = !b)

/-! ### Two units at once (48_multifunction.md R620, R622) -/

/-- `i` is the multiplier operation `im` and the ALU operation `ia` on the registers as they are at `s`: the flags of
each unit are its own, and for a register both would write the ALU's result stays. -/
def Parallel (s : State) (i im ia : Instr) (mulRegs aluRegs : List (BitVec 4)) (accs : List Bool) (sm : BitVec 32) : Prop :=
  ∃ t1 t2, exec im s = .next t1 ∧ exec ia s = .next t2 ∧ Completes i s fun t =>
    ComputeFrame s t (mulRegs ++ aluRegs) accs 0x7FF sm
      ∧ (∀ n ∈ aluRegs, t.rreg n = t2.rreg n)
      ∧ (∀ n ∈ mulRegs, n ∉ aluRegs → t.rreg n = t1.rreg n)
      ∧ (∀ b, t.acc b = t1.acc b)
      ∧ t.sys.astat &&& 0x3C0 = t1.sys.astat &&& 0x3C0
      ∧ t.sys.astat &&& 0x43F = t2.sys.astat &&& 0x43F
      ∧ t.sys.stky = t1.sys.stky ||| t2.sys.stky

/-! ### Registers written and read (10_state.md R22, R23) -/

/-- A register of an address generator in the set that is not in effect (10_state.md R33). -/
def State.idleDag (s : State) (f : DagFile) (g : Bool) (k : BitVec 3) : BitVec 32 :=
  match g, s.altDag g k with
  | false, false => s.dag.dag1Alt.reg f k
  | false, true => s.dag.dag1.reg f k
  | true, false => (s.dag.dag2Alt.reg f k).setWidth 32
  | true, true => (s.dag.dag2.reg f k).setWidth 32

/-- From `s` to `t` the address generator registers in `ws` have the values given with them, and nothing else has
changed, in the other sets neither. -/
def DagWritten (s t : State) (ws : List (DagFile × Bool × BitVec 3 × BitVec 32)) : Prop :=
  t = { s with dag := t.dag }
    ∧ (∀ e ∈ ws, t.dagReg e.1 e.2.1 e.2.2.1 = e.2.2.2)
    ∧ (∀ f g k, (∀ e ∈ ws, (e.1, e.2.1, e.2.2.1) ≠ (f, g, k)) → t.dagReg f g k = s.dagReg f g k)
    ∧ ∀ f g k, t.idleDag f g k = s.idleDag f g k

/-- From `s` to `t` entry `k` of a stack of six words got the value `v`, or, if there is no such entry, none did. -/
def SixthWritten (s t : Vector (BitVec 32) 6) (k : Nat) (v : BitVec 32) : Prop :=
  ∀ j, j < 6 → sixth t j = if j = k then v else sixth s j

/-- A write of a register that the spec describes: not bit 1 of IRPTL (U13), and not CURLCNTR of a counter loop inside a
short loop, at the third-to-last instruction of a longer one, or from memory right after IF NOT LCE (U12, U17). -/
def State.settable (s : State) (fromMem : Bool) (u : Ureg) (v : BitVec 32) : Bool :=
  match u with
  | .irptl => !v.getLsbD 1
  | .curlcntr =>
    !s.looping || decide (s.loopType = 0)
      || !(s.inShortLoop || (!s.shortLoop && decide (s.pipe.pc = s.loopEnd - 2)) || (fromMem && s.lat.afterNotLce))
  | _ => true

/-- From `s` to `t` the 40-bit bus value `d` went to the register `u`, and nothing else happened (10_state.md R23, R32,
R38 to R42, R53, R54, R662). -/
def UregWritten (s t : State) (fromMem : Bool) (u : Ureg) (d : BitVec 40) : Prop :=
  let v := d.extractLsb' 8 32
  match u with
  | .r n =>
    t = { s with data.primary := t.data.primary, data.alternate := t.data.alternate }
      ∧ (∀ k, t.rreg k = if k = n then d else s.rreg k) ∧ ∀ k, t.idleReg k = s.idleReg k
  | .i n => DagWritten s t [(.i, dagOf n, dagNum n, dagTrunc (dagOf n) v)]
  | .m n => DagWritten s t [(.m, dagOf n, dagNum n, dagTrunc (dagOf n) v)]
  | .l n => DagWritten s t [(.l, dagOf n, dagNum n, dagTrunc (dagOf n) v)]
  | .b n =>
    DagWritten s t [(.b, dagOf n, dagNum n, dagTrunc (dagOf n) v), (.i, dagOf n, dagNum n, dagTrunc (dagOf n) v)]
  | .faddr | .daddr | .pc => t = s
  | .pcstk =>
    if s.pcEmpty then t = s
    else t = { s with stk.pc := t.stk.pc } ∧ t.pcTop = v.setWidth 24
      ∧ ∀ k, k < 30 → k ≠ min s.stk.pcstkp.toNat 30 - 1 → t.stk.pc.toList.getD k 0 = s.stk.pc.toList.getD k 0
  | .pcstkp => if s.stk.pcstkp = 31 then t = s else t = { s with tr.pcstkp := some (v.setWidth 5) }
  | .laddr =>
    if s.looping then
      t = { s with stk.laddr := t.stk.laddr } ∧ SixthWritten s.stk.laddr t.stk.laddr (s.stk.depth.toNat - 1) v
    else t = s
  | .curlcntr =>
    if !s.looping || decide (s.loopType = 0) then t = s
    else
      t = { s with
        stk.count := t.stk.count
        tr.curlcntr := if fromMem then some s.curlcntr else s.tr.curlcntr, tr.countWritten := true }
        ∧ SixthWritten s.stk.count t.stk.count (s.stk.depth.toNat - 1) v
  | .lcntr => t = { s with stk.count := t.stk.count } ∧ SixthWritten s.stk.count t.stk.count s.stk.depth.toNat v
  | .ustat1 => t = { s with sys.ustat1 := v }
  | .ustat2 => t = { s with sys.ustat2 := v }
  | .irptl => t = { s with sys.irptl := v }
  | .mode2 => t = { s with sys.mode2 := v }
  | .mode1 => t = { s with sys.mode1 := v }
  | .astat =>
    t = { s with sys.astat := t.sys.astat, tr.astatWritten := true }
      ∧ ∀ j, j < 32 → t.sys.astat.getLsbD j =
        if 19 ≤ j ∧ j ≤ 22 ∧ s.lat.mode2.getLsbD (j - 4) = false then s.sys.astat.getLsbD j else v.getLsbD j
  | .imask => t = { s with sys.imask := v ||| 3 }
  | .stky =>
    t = { s with sys.stky := t.sys.stky }
      ∧ ∀ j, j < 32 → t.stkyView.getLsbD j = if 21 ≤ j ∧ j ≤ 26 then s.stkyView.getLsbD j else v.getLsbD j
  | .imaskp => t = { s with sys.imaskp := v, tr.imaskpWritten := true }
  | .px => t = { s with data.px := d ++ 0#8 }
  | .px1 => t = { s with data.px := s.data.px.extractLsb' 16 32 ++ d.extractLsb' 8 16 }
  | .px2 => t = { s with data.px := d.extractLsb' 8 32 ++ s.data.px.extractLsb' 0 16 }

/-! ### Memory accesses of the core (20_memory.md; 40_compute_move.md R351) -/

/-- What a place holds once the queued writes are done, left-justified in 48 bits as an access of its width carries it;
`px` when the register is PX. -/
def State.wordAt (s : State) (px : Bool) : Place → BitVec 48
  | .normal b off =>
    if s.wideAccess px b then
      s.settledCell (wideCell b off 0) ++ s.settledCell (wideCell b off 1) ++ s.settledCell (wideCell b off 2)
    else s.settledCell (narrowCell b off 0) ++ s.settledCell (narrowCell b off 1) ++ 0#16
  | .short c => 0#16 ++ s.settledCell c ++ 0#16
  | .ext n => if px then readExtWide s.mem n else readExt s.mem n ++ 0#16
  | _ => 0

/-- The memory of a place exists: 48-bit words only so far, SDRAM once it is powered up and while it is refreshed
(20_memory.md R211, R215; 61_dma_extport.md R810; U31). -/
def State.holds (s : State) (px : Bool) : Place → Bool
  | .normal b off => !s.wideAccess px b || wideExists b off
  | .short _ => true
  | .ext n => s.extHolds n
  | _ => false

/-- What a store of the image `w` leaves at a place: all 48 bits for PX on the PM bus, else bits 47:8 in a 40-bit word,
bits 47:16 in a 32-bit word, bits 31:16 in a short word (40_compute_move.md R351; 20_memory.md R231). -/
def State.storedForm (s : State) (g px : Bool) (p : Place) (w : BitVec 48) : BitVec 48 :=
  match p with
  | .normal b _ =>
    if s.wideAccess px b then (if px && g then w else w.extractLsb' 8 40 ++ 0#8) else w.extractLsb' 16 32 ++ 0#16
  | .short _ => 0#16 ++ w.extractLsb' 16 16 ++ 0#16
  | .ext _ => if px then w else w.extractLsb' 16 32 ++ 0#16
  | _ => 0

/-- The trace an access leaves outside the core: an external one counts for the arbitration, word by word. -/
def State.touchAt (s : State) (px : Bool) : Place → State
  | .remote => s.extTouch false
  | .ext _ => s.extTouch px
  | _ => s

/-- From `s` to `t` the image `w` was stored at the place `p`, and nothing else happened: it is what the place then
holds, and every byte outside of it is as before. -/
structure StoreAt (s t : State) (g px : Bool) (p : Place) (w : BitVec 48) : Prop where
  rest : t = { s.touchAt px p with mem := t.mem, shadow := t.shadow }
  value : s.holds px p = true → t.wordAt px p = s.storedForm g px p w
  frame : ∀ k, k ∉ s.storedKeys px p → t.byteAt k = s.byteAt k

/-- No write of the other width class waits for a cell of the place (20_memory.md R256). -/
def State.settled (s : State) (px : Bool) (p : Place) : Prop :=
  ∀ e ∈ s.shadow, ∀ c ∈ e.cells, 2 * c.1 ∈ s.storedKeys px p →
    e.wide = match p with | .normal b _ => s.wideAccess px b | _ => false

/-- The image `w` is what a load of register `u` brings from the place `p`: the word there, 48 bits for PX on the PM bus
and 40 on the DM bus, 40 or 32 bits by the width of the block, a short word extended by MODE1.SSE, a 32-bit external
word; where memory does not exist, or other accesses still wait, nothing is said (40_compute_move.md R351; 20_memory.md
R228, R231). -/
def LoadedFrom (s : State) (g : Bool) (u : Ureg) (p : Place) (w : BitVec 48) : Prop :=
  let px := decide (u = .px)
  s.holds px p = true → s.settled px p →
    w =
      match p with
      | .normal b _ => if s.wideAccess px b && !(px && g) then (s.wordAt px p).extractLsb' 8 40 ++ 0#8 else s.wordAt px p
      | .short c =>
        (if s.lat.mode1.getLsbD 14 && !isPx u then (s.settledCell c).signExtend 32 else (s.settledCell c).setWidth 32)
          ++ 0#16
      | _ => s.wordAt px p

/-- From `s` to `t` the loaded image went to its register. -/
def LoadWritten (s t : State) (u : Ureg) (w : BitVec 48) : Prop :=
  if u = .px then t = { s with data.px := w } else UregWritten s t true u (w.extractLsb' 8 40)

/-- From `s` to `t` the index register `k` of an address generator was updated by `mv`, with its circular-buffer test,
and nothing else happened (20_memory.md R242 to R244). -/
structure Updated (s t : State) (g : Bool) (k : BitVec 3) (mv : BitVec 32) : Prop where
  frame : DagFrame s t
  index : t.dagReg .i g k = wrap g (s.dagReg .i g k) (dagSigned g mv) (s.dagReg .b g k) (s.dagReg .l g k)
  others : ∀ f h j, (f, h, j) ≠ (.i, g, k) → t.dagReg f h j = s.dagReg f h j
  idle : ∀ f h j, t.idleDag f h j = s.idleDag f h j
  flag : ∀ h : Bool, t.sys.stky.getLsbD (if h then 18 else 17) =
    (s.sys.stky.getLsbD (if h then 18 else 17)
      || (decide (h = g ∧ k = 7) && wraps (s.dagReg .i g k) (dagSigned g mv) (s.dagReg .b g k) (s.dagReg .l g k)))
  request : ∀ j, t.tr.requests.getLsbD j =
    (s.tr.requests.getLsbD j
      || (decide (k = 7 ∧ j = (if g then 22 else 21))
        && wraps (s.dagReg .i g k) (dagSigned g mv) (s.dagReg .b g k) (s.dagReg .l g k)))

/-- From `s` to `t` the compute operation `c` was done, and nothing else. -/
def Computed (c : Compute) (s t : State) : Prop :=
  exec (.compute 31 c) s = .next t ∧ ComputeFrame s t c.dests c.accs c.astatMask c.stkyMask

/-- A store of the image `w` at a place completes now: the register of the I/O processor takes it, the bus is there. -/
def StoreOk (s : State) (g px : Bool) (p : Place) (w : BitVec 48) : Prop :=
  match p with
  | .iop r => ∃ x, s.writeReg false px r (if px && !g then w.extractLsb' 8 40 ++ 0#8 else w) = .ok x
  | _ => s.completes px p = true

/-- From `s` to `x` the image `w` was stored at a place, or written to a register of the I/O processor, which changes
nothing outside of it but the notes of the step. -/
def Stored (s x : State) (g px : Bool) (p : Place) (w : BitVec 48) : Prop :=
  match p with
  | .iop r => s.writeReg false px r (if px && !g then w.extractLsb' 8 40 ++ 0#8 else w) = .ok x
      ∧ x = { s with iop := x.iop, tr := x.tr }
  | _ => StoreAt s x g px p w

/-- A load of `u` from a place completes now. -/
def LoadOk (s : State) (u : Ureg) (p : Place) : Prop :=
  match p with
  | .iop r => ∀ site, ∃ y, s.readReg (decide (u = .px)) r site = .ok y
  | _ => s.completes (decide (u = .px)) p = true

/-- From `s` to `x` the image `w` was read from a place, or from a register of the I/O processor, which changes nothing
outside of it. -/
def Loaded (s x : State) (g : Bool) (u : Ureg) (p : Place) (w : BitVec 48) : Prop :=
  match p with
  | .iop r => ∃ site v, s.readReg (decide (u = .px)) r site = .ok (v, x) ∧ x = { s with iop := x.iop }
      ∧ w = if u = .px then (if g then v else v.extractLsb' 8 40 ++ 0#8) else v.extractLsb' 16 32 ++ 0#16
  | _ => x = s.touchAt (decide (u = .px)) p ∧ LoadedFrom s g u p w

/-- A store of the register image `w` at `p` with the operation `par` in parallel and, if `up`, an index update: the
value is the one before the operation (40_compute_move.md R350). -/
def StoreDone (s t : State) (g px : Bool) (p : Place) (w : BitVec 48) (par : State → State → Prop) (up : Bool)
    (k : BitVec 3) (mv : BitVec 32) : Prop :=
  ∃ x y, Stored s x g px p w ∧ par x y ∧ if up then Updated y t g k mv else t = y

/-- A load of `u` from `p` with the operation `par` in parallel and, if `up`, an index update: the loaded value wins over
a result of the operation (40_compute_move.md R350, R353). -/
def LoadDone (s t : State) (g : Bool) (u : Ureg) (p : Place) (par : State → State → Prop) (up : Bool)
    (k : BitVec 3) (mv : BitVec 32) : Prop :=
  ∃ w x y z, Loaded s x g u p w ∧ par x y ∧ LoadWritten y z u w ∧ if up then Updated z t g k mv else t = z

/-- The value a load of `u` from `p` brings may be written to `u`. -/
def LoadSettable (s : State) (g : Bool) (u : Ureg) (p : Place) : Prop :=
  ∀ x w, Loaded s x g u p w → s.settable true u (w.extractLsb' 16 32) = true

/-- The address of an access through an index register: the index when the access updates it, else the sum (20_memory.md
R241, R242). -/
def State.indexAddr (s : State) (up g : Bool) (k : BitVec 3) (mv : BitVec 32) : BitVec 32 :=
  if up then s.postAddr g k else s.premodify g k mv

/-! ### Stacks and branches (10_state.md R38 to R45; 41_program_flow.md) -/

/-- From `s` to `t` the address `a` was pushed on the PC stack; a push on the full stack is lost (10_state.md R38, R39). -/
def PcPushed (s t : State) (a : BitVec 24) : Prop :=
  if 30 ≤ s.stk.pcstkp.toNat then t = { s with stk.pcstkp := 31 }
  else
    t = { s with
      stk.pc := t.stk.pc, stk.pcstkp := s.stk.pcstkp + 1
      tr.requests := s.tr.requests ||| if s.stk.pcstkp = 28 then 0x8 else 0 }
      ∧ t.pcTop = a
      ∧ ∀ k, k < 30 → k ≠ s.stk.pcstkp.toNat → t.stk.pc.toList.getD k 0 = s.stk.pc.toList.getD k 0

/-- From `s` to `t` a loop was pushed on the loop stacks, with its top if that is known, and bit 29 of LADDR reads 0; on full
stacks LSOV is set and SOVFI requested (10_state.md R40, R41, R43). -/
def LoopPushed (s t : State) (entry count : BitVec 32) (top : Option (BitVec 24)) : Prop :=
  if 6 ≤ s.stk.depth.toNat then
    t = { s with sys.stky := s.sys.stky ||| 0x02000000, tr.requests := s.tr.requests ||| 0x8 }
  else
    t = { s with
      stk.laddr := t.stk.laddr, stk.count := t.stk.count, stk.initial := t.stk.initial, stk.top := t.stk.top
      stk.depth := s.stk.depth + 1 }
      ∧ SixthWritten s.stk.laddr t.stk.laddr s.stk.depth.toNat entry
      ∧ SixthWritten s.stk.count t.stk.count s.stk.depth.toNat count
      ∧ SixthWritten s.stk.initial t.stk.initial s.stk.depth.toNat count
      ∧ (∀ k, k < 6 → k ≠ s.stk.depth.toNat → t.stk.top.toList.getD k none = s.stk.top.toList.getD k none)
      ∧ t.loopTop = top
      ∧ t.laddr = entry &&& 0xDFFFFFFF ∧ t.curlcntr = count

/-- From `s` to `t` ASTAT and MODE1 were pushed on the status stack; a sixth pair is lost, SSOV set, SOVFI requested
(10_state.md R44, R45). -/
def StatusPushed (s t : State) : Prop :=
  t = if 5 ≤ s.stk.status.length then
      { s with sys.stky := s.sys.stky ||| 0x00800000, tr.requests := s.tr.requests ||| 0x8 }
    else { s with stk.status := (s.sys.astat, s.sys.mode1) :: s.stk.status }

/-- From `s` to `t` ASTAT, but for its flag pins, and MODE1 were popped from the status stack (10_state.md R44). -/
def StatusPopped (s t : State) : Prop :=
  ∃ a m rest, s.stk.status = (a, m) :: rest
    ∧ t = { s with
        sys.astat := t.sys.astat, sys.mode1 := m, stk.status := rest, tr.astatWritten := true }
    ∧ ∀ j, j < 32 → t.sys.astat.getLsbD j = if 19 ≤ j ∧ j ≤ 22 then s.sys.astat.getLsbD j else a.getLsbD j

/-- `k` is the interrupt in service: the highest-priority bit of IMASKP as it is in effect, in the step after a write of
it the old value (10_state.md R24, R56). -/
def State.inService (s : State) (k : Nat) : Prop :=
  s.lat.imaskp.getLsbD k = true ∧ ∀ j, j < k → s.lat.imaskp.getLsbD j = false

/-- The interrupt in service, if its entry pushed the status stack, has a pair to pop. -/
def State.canEnd (s : State) : Prop := ∀ k, s.inService k → 4 ≤ k → k ≤ 8 → s.stk.status ≠ []

/-- From `s` to `t` the interrupt in service ended: its latch and mask pointer bits are clear, VIPD is with VIRPTI, the
status stack is popped for the five interrupts that push it; without one nothing changed (41_program_flow.md R390, R392;
60_exceptions.md R675). -/
def ServiceOver (s t : State) : Prop :=
  (s.lat.imaskp = 0 → t = s)
    ∧ ∀ k, s.inService k → ∃ x, (if 4 ≤ k ∧ k ≤ 8 then StatusPopped s x else x = s)
      ∧ t = { x with
          sys.irptl := t.sys.irptl, sys.imaskp := t.sys.imaskp
          iop.sys.vipd := s.iop.sys.vipd && decide (k ≠ 5) }
      ∧ ∀ j, j < 32 → t.sys.irptl.getLsbD j = (s.sys.irptl.getLsbD j && decide (j ≠ k))
        ∧ t.sys.imaskp.getLsbD j = (s.sys.imaskp.getLsbD j && decide (j ≠ k))

/-- From `s` to `t` a branch to `a` was taken, delayed or not: the sequencer carries it out. -/
def BranchTaken (s t : State) (delayed : Bool) (a : BitVec 24) : Prop :=
  t = { s with tr.branch := if delayed then .delayed a else .nondelayed a }

/-- From `s` to `t` a jump was taken, with loop abort (`a`) and clear interrupt (`ci`) (41_program_flow.md R386, R391,
R392). -/
def JumpTaken (s t : State) (a ci delayed : Bool) (target : BitVec 24) : Prop :=
  ∃ x y, (x = if a then { s with stk.depth := s.stk.depth - 1, stk.pcstkp := s.stk.pcstkp - 1 } else s)
    ∧ (if ci then ServiceOver x y else y = x) ∧ BranchTaken y t delayed target

/-- From `s` to `t` a call was taken: DADDR, or the address after FADDR for a delayed one, is the return address
(41_program_flow.md R382, R383). -/
def CallTaken (s t : State) (delayed : Bool) (target : BitVec 24) : Prop :=
  ∃ x, PcPushed s x (if delayed then s.pipe.faddr + 1 else s.pipe.daddr) ∧ BranchTaken x t delayed target

/-- The instruction `i` is a JUMP (CJUMP too), CALL, RTS or RTI, `delayed` or not, `call` for a CALL (41_program_flow.md R386
to R390; 43_misc.md R453). -/
inductive BranchForm : (i : Instr) → (delayed call : Bool) → Prop
  | jumpDirect (a c j ci t) : BranchForm (.jumpDirect a c j ci t) j false
  | jumpPcrel (a c j ci t) : BranchForm (.jumpPcrel a c j ci t) j false
  | jumpIndirect (a c k m j e ci op) : BranchForm (.jumpIndirect a c k m j e ci op) j false
  | jumpPcrel6 (a c t j e ci op) : BranchForm (.jumpPcrel6 a c t j e ci op) j false
  | jumpIndirectElseMove (d i m c k n r op) : BranchForm (.jumpIndirectElseMove d i m c k n r op) false false
  | jumpPcrel6ElseMove (d i m c t r op) : BranchForm (.jumpPcrel6ElseMove d i m c t r op) false false
  | cjumpDirect (t) : BranchForm (.cjumpDirect t) true false
  | cjumpPcrel (t) : BranchForm (.cjumpPcrel t) true false
  | callDirect (a c j ci t) : BranchForm (.callDirect a c j ci t) j true
  | callPcrel (a c j ci t) : BranchForm (.callPcrel a c j ci t) j true
  | callIndirect (a c k m j e ci op) : BranchForm (.callIndirect a c k m j e ci op) j true
  | callPcrel6 (a c t j e ci op) : BranchForm (.callPcrel6 a c t j e ci op) j true
  | rts (c j e lr op) : BranchForm (.rts c j e lr op) j false
  | rti (c j e op) : BranchForm (.rti c j e op) j false

/-- From `s` to `t` the loop re-entry flag was set for the return address `a` (41_program_flow.md R393). -/
def ReentrySet (s t : State) (a : BitVec 24) : Prop :=
  t = { s with pipe.lrf :=
    s.looping && (decide (a = s.loopEnd) || decide (a + 1 = s.loopEnd)) }

/-- The Type 20 instruction with the given operation bits (43_misc.md R445). -/
def stackInstr (lpu lpo spu spo ppu ppo fc : Bool) : Instr :=
  if lpu then .pushLoop lpo spu spo ppu ppo fc
  else if lpo then .popLoop spu spo ppu ppo fc
  else if spu then .pushSts spo ppu ppo fc
  else if spo then .popSts ppu ppo fc
  else if ppu then .pushPcstk ppo fc
  else if ppo then .popPcstk fc
  else .flushCache fc

end Sys2Proof.Machine

namespace Sys2Proof

/-- A system register as a universal register (10_state.md R22). -/
def Sreg.ureg : Sreg → Ureg
  | .ustat1 => .ustat1
  | .ustat2 => .ustat2
  | .irptl => .irptl
  | .mode2 => .mode2
  | .mode1 => .mode1
  | .astat => .astat
  | .imask => .imask
  | .stky => .stky
  | .imaskp => .imaskp

end Sys2Proof
end

