-- ==== Sys2Proof/Certificates/Slice0/Obligations.lean ====
section
/-! DEFINITION. The statements for the provers. The first sentence of each docstring is the statement's title; what is a
choice of the model rather than the spec's word is named there with its entry of the assumption log. -/

open Sys2Proof Sys2Proof.Machine

/-- Decoding the encoding of a well-formed instruction gives the instruction back. For every well-formed instruction,
with every operand at every value its field admits, decode of encode answers that instruction: no bit of an encoding
is dropped and no two well-formed instructions share a word. -/
def Obligations.DecodeEncodeRoundTrip : Prop :=
  ∀ i : Instr, i.wf = true → decode (encode i) = .ok i

/-- What the decoder answers is well formed. Whatever 48 bits a word holds, an instruction the decoder reads from it
satisfies the well-formedness check: no reserved multiplier option and no unconditional compute word outside its own
row leaves the decoder. That a compute word belongs to the row of its operation is the model's choice, assumption log 2
(DESIGN CHOICE). -/
def Obligations.DecodedInstructionsAreWellFormed : Prop :=
  ∀ (w : Word48) (i : Instr), decode w = .ok i → i.wf = true

/-- The example words of the instruction rules decode to the instructions they stand for. Words written out in the
spec's examples, one for each kind of encoding: Types 1, 3, 4, 5, 6, 8, 9, 10, 11, 12, 13, 14, 15, 16, 17, 18, 19, 20,
24, and compute fields of the fixed-point ALU, the multiplier and the multifunction unit. Most of these field
positions are general knowledge in the spec (93_implementation_defined.md section 3; assumption log 19, PRESUMED);
that a compute word decodes to the row of its operation is assumption log 2 (DESIGN CHOICE). -/
def Obligations.SampleWordsDecode : Prop :=
  decode 0x30EAFA2C0760 = .ok (.dmPmDualMove true 0 3 true 5 3 7 4 (.shift .bset 7 6 0))
    ∧ decode 0x507EBE00263B = .ok (.uregMemMoveM true 0 1 31 false true .astat (.alu .sub 6 3 11))
    ∧ decode 0x6361F2029330 = .ok (.dregMemMoveImm6 1 true false true 16 0x3E 4 (.alu .inc 3 3 0))
    ∧ decode 0x70200A02A110 = .ok (.uregUregMove (.r 2) 0 (.i 4) (.alu .dec 1 1 0))
    ∧ decode 0x84908381FD55 = .ok (.ashiftImmMove 2 2 8 false true 0 7 0xFD 5 5)
    ∧ decode 0x072004FFFFFC = .ok (.jumpPcrel false 16 true false 0xFFFFFC)
    ∧ decode 0x09BE50001063 = .ok (.callPcrel6 false 31 10 false false false (.alu .add 0 6 3))
    ∧ decode 0xEA21030DACA3 = .ok (.jumpPcrel6ElseMove false 5 0 16 0x20 6 (.flt .floatBy 12 10 3))
    ∧ decode 0x0A040220001F = .ok (.rts 2 false true false (.shift .lshift 0 1 15))
    ∧ decode 0x0C001E000003 = .ok (.lcntrImmDo 30 3)
    ∧ decode 0x0E3E00000002 = .ok (.doUntil 31 2)
    ∧ decode 0x13DB00009400 = .ok (.uregMemDirect true true .px 0x9400)
    ∧ decode 0xBA7000000100 = .ok (.uregMemImm32 true 5 false .ustat1 0x100)
    ∧ decode 0x9CE012345678 = .ok (.memImm32Store 6 3 true 0x12345678)
    ∧ decode 0x0F7B00001000 = .ok (.uregImm32 .mode1 0x1000)
    ∧ decode 0x140910000000 = .ok (.bitSet .irptl 0x10000000)
    ∧ decode 0x168100000004 = .ok (.bitrevImm false 1 4)
    ∧ decode 0x174400000000 = .ok (.popLoop false false false true false)
    ∧ decode 0x180400008100 = .ok (.cjumpDirect 0x8100)
    ∧ decode (computeWord 0x001012) = .ok (.aluAdd 0 1 2)
    ∧ decode (computeWord 0x178012) = .ok (.mulRn ⟨true, true, true, false⟩ 0 1 2)
    ∧ decode (computeWord 0x582655) = .ok (.parFltAdd 2 6 1 1 1 1)

/-- A step runs the instruction its word decodes to, or refuses the word by name. The core's part of a step begins at
a state b: s without the notes of the last step, once the surroundings have acted if they come first in it. Core
running, the instruction at PC not killed, the three addresses of the pipeline in internal memory, and the word at PC
(not fetched yet, or fetched and still the one in memory): the step is exec of the decoded instruction at a state j
that differs from b only in the cache, the two fetched words and the loop re-entry flag, followed by conclude, which
moves the pipeline on and lets the rest of the chip act; a word that decodes to nothing is refused as undefinedWord.
With the pins ID1-0 at 11 every step is refused (U33). -/
def Obligations.StepRunsTheDecodedInstruction : Prop :=
  ∀ s : State,
    (s.env.id = 3 → step s = .refused .processorId)
    ∧ ∀ b : State, s.env.id ≠ 3 → s.fresh.ahead = .ok b →
      (s.input.early = false → b = { s with
        tr := State.restTransient, iop.hid.busWait := false, iop.hid.extUsed := false, iop.hid.hostWord := false,
        iop.hid.coreFlush := false, iop.hid.vectorService := s.sys.imaskp.getLsbD 5 })
      ∧ (b.pipe.mode = .running → b.pipe.killP = false → b.isExternal b.pipe.pc = false →
        b.isExternal b.pipe.daddr = false → b.isExternal b.pipe.faddr = false →
        (b.pipe.irP = none ∨ ∃ c, b.pipe.irP = some ⟨b.codeWord b.pipe.pc 8, c⟩) →
        (∀ i, decode (b.codeWord b.pipe.pc 8) = .ok i → i.wf = true →
          ∃ (j : State) (f : Fetched),
            j = { b with
              cache := j.cache, pipe.irP := j.pipe.irP, pipe.irD := j.pipe.irD, pipe.lrf := j.pipe.lrf }
            ∧ step s =
              match exec i j with
              | .next u => b.conclude (some i) u f
              | .fault r => .fault r
              | .refused r => .refused r)
        ∧ ∀ e, decode (b.codeWord b.pipe.pc 8) = .error e → step s = .refused .undefinedWord)

/-- What reset leaves in the core and in the stated IOP registers. For every strapping: MODE1, MODE2, IRPTL, IMASKP 0;
IMASK 3, with EP0I unmasked in the boot modes; STKY reads 0x05400000; the stacks empty, LADDR and CURLCNTR reading all
ones; no valid cache entry; PC at 0x020004 or 0x008004, without booting with FADDR at 0x020004 too and two NOPs before
the first instruction (assumption log 47); SYSCON, WAIT and VIRPT at their stated values; and State.reset is the
single processor in no-boot mode, which is the model's choice, assumption log 5 (DESIGN CHOICE). ASTAT, also as it is in
effect, is 0 but for the bits of the flag pins. ASTAT and IMASKP at 0, and the empty stacks as the reset state, are
decisions of the spec (92_eei_decisions.md D7, D8). -/
def Obligations.ResetLeavesTheStatedValues : Prop :=
  State.reset = State.resetWith .noboot 0 ∧
    ∀ (m : BootMode) (id : BitVec 2),
      let s := State.resetWith m id
      s.sys.mode1 = 0 ∧ s.sys.mode2 = 0 ∧ s.sys.irptl = 0 ∧ s.sys.imaskp = 0
        ∧ s.sys.astat = (s.env.flags.extractLsb' 0 4).setWidth 32 <<< 19 ∧ s.lat.astat = s.sys.astat
        ∧ s.sys.imask = (if m = .noboot then 0x00000003 else 0x00010003)
        ∧ s.sregRead .stky = 0x05400000
        ∧ s.stk.pcstkp = 0 ∧ s.stk.status = [] ∧ s.laddr = 0xFFFFFFFF ∧ s.curlcntr = 0xFFFFFFFF
        ∧ (∀ a : BitVec 24, (s.cacheSet a).find a = none)
        ∧ s.pipe.pc = (if m = .noboot then 0x020004 else 0x008004)
        ∧ (m = .noboot → s.pipe.faddr = 0x020004 ∧ s.pipe.killP = true ∧ s.pipe.killD = true)
        ∧ s.iop.sys.syscon = 0x00000020 ∧ s.iop.sys.wait = 0x21AD6B5A
        ∧ s.iop.sys.virpt = (if m = .noboot then 0x00020014 else 0x00008014)

/-- The state after reset satisfies the three invariants. For every strapping the reset state has its memory in
canonical form, its core registers within their stated limits and its buffers within their depths. -/
def Obligations.ResetMeetsTheInvariants : Prop :=
  ∀ (m : BootMode) (id : BitVec 2),
    MemInv (State.resetWith m id) ∧ CoreInv (State.resetWith m id) ∧ BufferInv (State.resetWith m id)

/-- Every step keeps memory in its canonical form. From every state whose byte list has strictly rising keys and no
entry equal to what an unlisted byte reads as, and whose shadow write FIFO holds at most two writes, all to internal
memory, a step that answers a next state leaves one of the same kind: whatever instruction, fetch, DMA transfer, host
access or outside store it contained. The canonical form is the model's (assumption log 6 and 7). -/
def Obligations.EveryStepKeepsMemoryCanonical : Prop :=
  ∀ s t : State, MemInv s → step s = .next t → MemInv t

/-- Every step keeps the stacks, masks and latches of the core within their rules. From every state with at most six
loops and five saved status pairs, IMASK bits 0 and 1 set, and no stored copy of the stack flags that are views, a step
that answers a next state leaves such a state, with no transient note; and the latch bits of the interrupts that were in
service when the step began are clear after it (60_exceptions.md R654, R720). -/
def Obligations.EveryStepKeepsTheCoreRegisters : Prop :=
  ∀ s t : State, CoreInv s → step s = .next t → CoreInv t ∧ t.sys.irptl &&& s.sys.imaskp = 0

/-- Every step keeps the buffers of the I/O processor within their depths. From every state whose external port
buffers hold at most six words and six counted requests, whose slave write FIFO holds at most four writes and whose
serial buffers hold at most two words each, a step that answers a next state leaves such a state. -/
def Obligations.EveryStepKeepsTheBufferDepths : Prop :=
  ∀ s t : State, BufferInv s → step s = .next t → BufferInv t

/-- The nine operations that pass through the fixed-point adder. ADD, SUB, the two with carry in, the two increments
and decrements, the two of Rx with CI, and NEG complete in every state and for every choice of registers: the result
in R[rn], saturated when ALUSAT is in effect, AZ, AV, AN, AC from the adder, AS, AI, AF cleared, AOS sticky; nothing
else changes. The carry of the subtractions and of the rows with a constant is the spec's decision D20. -/
def Obligations.FixedAdderRows : Prop :=
  ∀ (s : State) (rn rx ry : BitVec 4),
    let x := s.rfix rx
    let y := s.rfix ry
    let ci := s.flag 3
    let row (i : Instr) (a b : BitVec 32) (cin : Bool) : Prop :=
      Completes i s fun t => ComputeFrame s t [rn] [] 0x43F 0x4 ∧ AdderPost s t rn a b cin
    row (.aluAdd rn rx ry) x y false ∧ row (.aluSub rn rx ry) x (~~~y) true
      ∧ row (.aluAddCi rn rx ry) x y ci ∧ row (.aluSubCi rn rx ry) x (~~~y) ci
      ∧ row (.aluIncCi rn rx ry) x 0 ci ∧ row (.aluDecCi rn rx ry) x 0xFFFFFFFF ci
      ∧ row (.aluInc rn rx ry) x 0 true ∧ row (.aluDec rn rx ry) x 0xFFFFFFFF false
      ∧ row (.aluNeg rn rx ry) 0 (~~~x) true

/-- The halved sum, the absolute value, minimum, maximum and clip of fixed-point operands. The halved sum rounds down
with TRUNC and to the even neighbour without, with AC the carry of the unsigned sum; ABS clears AN, sets AS by the
sign of the operand and overflows only for 0x80000000; MIN, MAX and CLIP set AZ and AN by their result. The functions
of ABS's corner, MIN, MAX and CLIP are general knowledge in the spec, the ties of the halved sum its decision D21. -/
def Obligations.FixedAverageAbsMinMaxClip : Prop :=
  ∀ (s : State) (rn rx ry : BitVec 4),
    let x := s.rfix rx
    let y := s.rfix ry
    (Completes (.aluAvg rn rx ry) s fun t => ComputeFrame s t [rn] [] 0x43F 0 ∧
      ∃ q : Int,
        (if s.modes.trunc then 2 * q ≤ x.toInt + y.toInt ∧ x.toInt + y.toInt < 2 * q + 2
          else |x.toInt + y.toInt - 2 * q| ≤ 1 ∧ (|x.toInt + y.toInt - 2 * q| = 1 → q % 2 = 0))
        ∧ t.rreg rn = BitVec.ofInt 32 q ++ 0#8
        ∧ AluStatus t (decide (q = 0)) false (decide (q < 0)) (decide (2 ^ 32 ≤ x.toNat + y.toNat)) false false false)
    ∧ (Completes (.aluAbs rn rx ry) s fun t => ComputeFrame s t [rn] [] 0x43F 0x4 ∧
      let ovf := decide (x = 0x80000000)
      let r : BitVec 32 := if s.aluSat && ovf then 0x7FFFFFFF else BitVec.ofInt 32 |x.toInt|
      t.rreg rn = r ++ 0#8 ∧ AluStatus t (decide (r = 0)) ovf false false x.msb false false ∧ Sticks s t 2 ovf)
    ∧ (Completes (.aluMin rn rx ry) s fun t => ComputeFrame s t [rn] [] 0x43F 0 ∧
      LogicPost t rn (BitVec.ofInt 32 (min x.toInt y.toInt)))
    ∧ (Completes (.aluMax rn rx ry) s fun t => ComputeFrame s t [rn] [] 0x43F 0 ∧
      LogicPost t rn (BitVec.ofInt 32 (max x.toInt y.toInt)))
    ∧ (Completes (.aluClip rn rx ry) s fun t => ComputeFrame s t [rn] [] 0x43F 0 ∧
      LogicPost t rn (BitVec.ofInt 32 (max (-|y.toInt|) (min x.toInt |y.toInt|))))

/-- PASS, AND, OR, XOR and NOT: encoding, result, flags and frame. Each of the five opcodes decodes to its operation;
the operation completes in every state, puts its 32-bit result in the upper bits of R[rn], sets AZ and AN by it,
clears AV, AC, AS, AI and AF, and changes nothing else. The compute field's opcode ranges and the place of the Type 2
fields are general knowledge in the spec (assumption log 19, PRESUMED), and that a compute word decodes to the row of
its operation is assumption log 2 (DESIGN CHOICE). -/
def Obligations.FixedLogicRows : Prop :=
  (∀ rn rx ry : BitVec 4,
    decode (computeWord (0#3 ++ 0x21#8 ++ rn ++ rx ++ ry)) = .ok (.aluPass rn rx ry)
      ∧ decode (computeWord (0#3 ++ 0x40#8 ++ rn ++ rx ++ ry)) = .ok (.aluAnd rn rx ry)
      ∧ decode (computeWord (0#3 ++ 0x41#8 ++ rn ++ rx ++ ry)) = .ok (.aluOr rn rx ry)
      ∧ decode (computeWord (0#3 ++ 0x42#8 ++ rn ++ rx ++ ry)) = .ok (.aluXor rn rx ry)
      ∧ decode (computeWord (0#3 ++ 0x43#8 ++ rn ++ rx ++ ry)) = .ok (.aluNot rn rx ry))
  ∧ ∀ (s : State) (rn rx ry : BitVec 4),
    let row (i : Instr) (r : BitVec 32) : Prop :=
      Completes i s fun t => ComputeFrame s t [rn] [] 0x43F 0 ∧ LogicPost t rn r
    row (.aluPass rn rx ry) (s.rfix rx) ∧ row (.aluAnd rn rx ry) (s.rfix rx &&& s.rfix ry)
      ∧ row (.aluOr rn rx ry) (s.rfix rx ||| s.rfix ry) ∧ row (.aluXor rn rx ry) (s.rfix rx ^^^ s.rfix ry)
      ∧ row (.aluNot rn rx ry) (~~~s.rfix rx)

/-- COMP of fixed-point operands: encoding, flags, the compare accumulator. COMP decodes from its opcode whatever the
RN field holds; it compares as signed numbers, sets AZ and AN, clears the other ALU flags, shifts the greater-than bit
into CACC from the left, and writes no register. That CACC is shifted as written right after an explicit write of ASTAT
too is assumption log 72 (DESIGN CHOICE). The compute field's opcode ranges and the place of the Type 2 fields
are general knowledge in the spec (assumption log 19, PRESUMED), and that a compute word decodes to the row of its
operation is assumption log 2 (DESIGN CHOICE). -/
def Obligations.FixedCompare : Prop :=
  (∀ rn rx ry : BitVec 4, decode (computeWord (0#3 ++ 0x0A#8 ++ rn ++ rx ++ ry)) = .ok (.aluComp rn rx ry))
  ∧ ∀ (s : State) (rn rx ry : BitVec 4),
    let x := (s.rfix rx).toInt
    let y := (s.rfix ry).toInt
    Completes (.aluComp rn rx ry) s fun t => ComputeFrame s t [] [] 0xFF00043F 0
      ∧ AluStatus t (decide (x = y)) false (decide (x < y)) false false false false
      ∧ ShiftsInto s t (decide (x > y))

/-- Rounding and packing of an exact floating-point result, and the flags that follow. p is 24 significant bits with
MODE1.RND32 and 32 without. For a magnitude m * 2^e, not 0: let 2^E be the power of two at or below it and q the
multiple of 2^(E+1-p) it rounds to, by TRUNC toward zero or to nearest with ties to even; a carry to 2^p moves the
exponent up. Above 127 the result is Infinity, or NORM.MAX with TRUNC, and marked as an overflow; below -126 it is Zero,
and marked as an underflow; else the packed word. A state that shows a packed ALU result has AV, and has AVS set, by the
overflow mark, has AUS set by the underflow mark, AZ for a word that is Zero and AN by its sign, AF set, AC, AS, AI
clear and AOS, AIS kept; one that shows a word without rounding has AZ and AN by the word and the others clear (R504).
-/
def Obligations.FloatRoundAndPack : Prop :=
  (∀ s : State, s.modes.bits = (if s.lat.mode1.getLsbD 16 then 24 else 32) ∧ s.modes.trunc = s.lat.mode1.getLsbD 15)
  ∧ (∀ (s t : State) (rn : BitVec 4) (k : Packed), AluGives s t rn (fltPacked k) ↔
      t.rreg rn = k.word
        ∧ AluStatus t (decide (k.word.extractLsb' 31 8 = 0)) k.overflow k.word.msb false false false true
        ∧ Sticks s t 0 k.underflow ∧ Sticks s t 1 k.overflow ∧ Sticks s t 2 false ∧ Sticks s t 5 false)
  ∧ (∀ (s t : State) (rn : BitVec 4) (w : BitVec 40), AluGives s t rn (fltOut w) ↔
      t.rreg rn = w ∧ AluStatus t (decide (w.extractLsb' 31 8 = 0)) false w.msb false false false true
        ∧ Sticks s t 0 false ∧ Sticks s t 1 false ∧ Sticks s t 2 false ∧ Sticks s t 5 false)
  ∧ ∀ (trunc neg : Bool) (p m : Nat) (e : Int), (p = 24 ∨ p = 32) → m ≠ 0 →
    ∃ (q : Nat) (E : Int), (2 : ℚ) ^ E ≤ (m : ℚ) * 2 ^ e ∧ (m : ℚ) * 2 ^ e < 2 ^ (E + 1)
      ∧ RoundsTo trunc ((m : ℚ) * 2 ^ e) (E + 1 - p) q
      ∧ (let big : Int := if q = 2 ^ p then E + 1 else E
        let sig : Nat := if q = 2 ^ p then 2 ^ (p - 1) else q
        let sign := BitVec.ofBool neg
        fltPack trunc p neg m e =
          if 127 < big then
            ⟨if trunc then sign ++ 254#8 ++ BitVec.ofNat 31 (2 ^ 31 - 2 ^ (32 - p)) else sign ++ 255#8 ++ 0#31, true, false⟩
          else if big < -126 then ⟨sign ++ 0#39, false, true⟩
          else ⟨sign ++ BitVec.ofInt 8 (big + 127) ++ BitVec.ofNat 31 (sig * 2 ^ (32 - p)), false, false⟩)

/-- A NAN operand gives the all-ones result and AI, in every floating-point operation of the ALU. For each ALU
operation with floating-point operands a NAN operand gives all ones, with the low eight bits 0 for a fixed-point
result or with RND32, sets AI and AIS, clears AZ and AV, and sets AN but for the operations whose flag row clears it.
The operand is the conditioned one, but for RND, whose operand is conditioned as if RND32 were 0 (R515), so that a NAN
whose payload is in the low eight bits counts there too. The low bits and AN are the spec's decisions D22 and D23 (log
38). The compare and the floating-point multiply are stated apart. -/
def Obligations.FloatNanOperandsAreInvalid : Prop :=
  ∀ (s : State) (rn rx ry : BitVec 4),
    let x := fltIn s.modes.rnd32 (s.rreg rx)
    let y := fltIn s.modes.rnd32 (s.rreg ry)
    let whole := fltIn false (s.rreg rx)
    let noSign : List Instr :=
      [.fltAbsAdd rn rx ry, .fltAbsSub rn rx ry, .fltAbs rn rx ry, .fltMant rn rx ry, .fltRsqrts rn rx ry]
    let invalid (w : BitVec 40) (i : Instr) : Prop :=
      Completes i s fun t => t.rreg rn = w ∧ t.sys.astat.getLsbD 5 = true ∧ t.sys.astat.getLsbD 0 = false
        ∧ t.sys.astat.getLsbD 1 = false ∧ t.sys.astat.getLsbD 2 = decide (i ∉ noSign) ∧ Sticks s t 5 true
    let word : BitVec 40 := if s.modes.rnd32 then 0xFFFFFFFF00 else 0xFFFFFFFFFF
    (fltNan whole = true → invalid word (.fltRnd rn rx ry))
    ∧ (fltNan x = true →
      (∀ i ∈ [Instr.fltNeg rn rx ry, .fltAbs rn rx ry, .fltPass rn rx ry, .fltScalb rn rx ry,
        .fltRecips rn rx ry, .fltRsqrts rn rx ry], invalid word i)
      ∧ ∀ i ∈ [Instr.fltMant rn rx ry, .fltLogb rn rx ry, .fltFix rn rx ry, .fltFixBy rn rx ry, .fltTrunc rn rx ry,
        .fltTruncBy rn rx ry], invalid 0xFFFFFFFF00 i)
    ∧ (fltNan x = true ∨ fltNan y = true →
      ∀ i ∈ [Instr.fltAdd rn rx ry, .fltSub rn rx ry, .fltAbsAdd rn rx ry, .fltAbsSub rn rx ry, .fltAvg rn rx ry,
        .fltCopysign rn rx ry, .fltMin rn rx ry, .fltMax rn rx ry, .fltClip rn rx ry], invalid word i)

/-- The five floating-point sums. x and y are the conditioned operands. Fx + Fy and Fx - Fy are the exact sum rounded
and packed, with the cases of NAN, opposite Infinities, Infinity and an exact zero; the ABS forms clear the sign of a
valid result and AN; the halved sum halves before rounding and leaves AV 0 and AVS alone. The sign of an exact zero
and the halving are general knowledge in the spec. All complete in every state; nothing but R[rn], the ALU flags and
the sticky bits changes. An invalid sum shows all ones with AI, AIS and AN set, AZ and AV clear and AUS, AVS, AOS kept: its
low eight bits and its AN are the decisions D22 and D23 of the spec (log 38). -/
def Obligations.FloatSums : Prop :=
  ∀ (s : State) (rn rx ry : BitVec 4),
    let x := fltIn s.modes.rnd32 (s.rreg rx)
    let y := fltIn s.modes.rnd32 (s.rreg ry)
    let minusY := y ^^^ 0x8000000000#40
    let positive (o : AluOut) : AluOut :=
      ⟨if o.flags.ai then o.val else o.val.map (· &&& 0x7FFFFFFFFF), { o.flags with an := false }⟩
    let row (i : Instr) (h : Int) (b : BitVec 40) (sm : BitVec 32) (last : AluOut → AluOut) : Prop :=
      Completes i s fun t => ComputeFrame s t [rn] [] 0x43F sm ∧ ∃ o, SumOf s.modes h x b o ∧ AluGives s t rn (last o)
    row (.fltAdd rn rx ry) 0 y 0x23 id ∧ row (.fltSub rn rx ry) 0 minusY 0x23 id
      ∧ row (.fltAbsAdd rn rx ry) 0 y 0x23 positive ∧ row (.fltAbsSub rn rx ry) 0 minusY 0x23 positive
      ∧ row (.fltAvg rn rx ry) (-1) y 0x21 (fun o => ⟨o.val, { o.flags with av := false, avs := false }⟩)
      ∧ ∀ (t : State) (r : Bool), AluGives s t rn (fltInvalid r) ↔
          t.rreg rn = (if r then 0xFFFFFFFF00 else 0xFFFFFFFFFF) ∧ AluStatus t false false true false false true true
            ∧ Sticks s t 0 false ∧ Sticks s t 1 false ∧ Sticks s t 2 false ∧ Sticks s t 5 true

/-- COMP of floating-point operands. The conditioned operands compare by value, Infinities beyond every number and the
two zeros equal (that they are is general knowledge in the spec, R511); AZ, AN and the bit shifted into CACC are the
outcome, or 0 with AI set for a NAN (decision D24 of the spec); no register is written. That CACC is shifted as written
right after an explicit write of ASTAT too is assumption log 72 (DESIGN CHOICE). -/
def Obligations.FloatCompare : Prop :=
  ∀ (s : State) (rn rx ry : BitVec 4),
    let x := fltIn s.modes.rnd32 (s.rreg rx)
    let y := fltIn s.modes.rnd32 (s.rreg ry)
    let nan := fltNan x || fltNan y
    Completes (.fltComp rn rx ry) s fun t => ComputeFrame s t [] [] 0xFF00043F 0x20
      ∧ AluStatus t (!nan && decide (fltVal x = fltVal y)) false (!nan && decide (fltVal x < fltVal y)) false false nan true
      ∧ ShiftsInto s t (!nan && decide (fltVal y < fltVal x)) ∧ Sticks s t 5 nan

/-- Negation, absolute value, PASS, RND and SCALB of a floating-point operand. For an operand that is not a NAN: NEG
complements and ABS clears the sign bit, PASS passes the conditioned operand, with AZ for a zero; RND rounds all 40
bits to 24 significant bits; SCALB adds the integer in Ry to the exponent; the last two return Infinity and Zero as
they are. The functions of RND and SCALB are general knowledge in the spec. -/
def Obligations.FloatSignPassRoundScale : Prop :=
  ∀ (s : State) (rn rx ry : BitVec 4),
    let x := fltIn s.modes.rnd32 (s.rreg rx)
    let w := fltIn false (s.rreg rx)
    let k := (s.rfix ry).toInt
    (fltNan x = false →
      (Completes (.fltNeg rn rx ry) s fun t => ComputeFrame s t [rn] [] 0x43F 0 ∧ t.rreg rn = x ^^^ 0x8000000000
        ∧ AluStatus t (fltZero x) false (!x.msb) false false false true)
      ∧ (Completes (.fltAbs rn rx ry) s fun t => ComputeFrame s t [rn] [] 0x43F 0 ∧ t.rreg rn = x &&& 0x7FFFFFFFFF
        ∧ AluStatus t (fltZero x) false false false x.msb false true)
      ∧ (Completes (.fltPass rn rx ry) s fun t => ComputeFrame s t [rn] [] 0x43F 0 ∧ t.rreg rn = x
        ∧ AluStatus t (fltZero x) false x.msb false false false true)
      ∧ (Completes (.fltScalb rn rx ry) s fun t => ComputeFrame s t [rn] [] 0x43F 0x3 ∧
        ∃ o, AluGives s t rn o ∧
          if fltInf x || fltZero x then o = fltOut x
          else ∃ (m : Nat) (e : Int), m ≠ 0 ∧ (m : ℚ) * 2 ^ e = |fltVal x| * 2 ^ k
            ∧ o = fltPacked (fltPack s.modes.trunc s.modes.bits x.msb m e)))
    ∧ (fltNan w = false →
      Completes (.fltRnd rn rx ry) s fun t => ComputeFrame s t [rn] [] 0x43F 0x2 ∧
        ∃ o, AluGives s t rn o ∧
          if fltInf w || fltZero w then o = fltOut w
          else ∃ (m : Nat) (e : Int), m ≠ 0 ∧ (m : ℚ) * 2 ^ e = |fltVal w|
            ∧ o = fltPacked (fltPack s.modes.trunc 24 w.msb m e))

/-- MANT, LOGB, FIX and TRUNC of a floating-point operand. MANT gives the significand left-justified, LOGB the
unbiased exponent, with their cases for NAN, Infinity and Zero; FIX rounds to nearest with ties to even, or down with
TRUNC; TRUNC rounds toward zero; BY adds the integer in Ry to the exponent. A value out of range or an Infinity gives
with ALUSAT the bound 0x7FFFFFFF or 0x80000000, AV and AVS; without, all ones, AV, AVS, AI and AIS. AUS for a value
between 0 and 1 in magnitude (decision D25 of the spec). The low eight bits of the all-ones words are decision D22, AN
beside them is D23 (log 38); that MANT works on the conditioned operand is assumption log 52 (DESIGN CHOICE). That FIX to nearest of a
magnitude above 1/2 and below 1 gives 1 or -1, not 0, is the model's choice, assumption log 61 (DESIGN CHOICE). -/
def Obligations.FloatToFixed : Prop :=
  ∀ (s : State) (rn rx ry : BitVec 4),
    let x := fltIn s.modes.rnd32 (s.rreg rx)
    let k := (s.rfix ry).toInt
    let rounds : FixMode := if s.modes.trunc then .floor else .nearest
    let fix (i : Instr) (mode : FixMode) (k : Int) : Prop :=
      Completes i s fun t => ComputeFrame s t [rn] [] 0x43F 0x23 ∧ ∃ o, FixOf s.modes mode x k o ∧ AluGives s t rn o
    (Completes (.fltMant rn rx ry) s fun t => ComputeFrame s t [rn] [] 0x43F 0x20 ∧
      (if fltExp x = 255 then t.rreg rn = 0xFFFFFFFF00 ∧ AluStatus t false false false false x.msb true true ∧ Sticks s t 5 true
      else if fltExp x = 0 then t.rreg rn = 0 ∧ AluStatus t true false false false x.msb false true
      else t.rreg rn = 1#1 ++ x.extractLsb' 0 31 ++ 0#8 ∧ AluStatus t false false false false x.msb false true))
    ∧ (Completes (.fltLogb rn rx ry) s fun t => ComputeFrame s t [rn] [] 0x43F 0x22 ∧
      (if fltNan x then t.rreg rn = 0xFFFFFFFF00 ∧ AluStatus t false false true false false true true ∧ Sticks s t 5 true
      else if fltInf x then
        t.rreg rn = (if s.aluSat then 0x7FFFFFFF00 else 0x7F80000000)
          ∧ AluStatus t false true false false false false true ∧ Sticks s t 1 true
      else if fltZero x then
        t.rreg rn = (if s.aluSat then 0x8000000000 else 0xFF80000000)
          ∧ AluStatus t false true true false false false true ∧ Sticks s t 1 true
      else
        let r : BitVec 32 := BitVec.ofInt 32 ((fltExp x : Int) - 127)
        t.rreg rn = r ++ 0#8 ∧ AluStatus t (decide (r = 0)) false r.msb false false false true))
    ∧ fix (.fltFix rn rx ry) rounds 0 ∧ fix (.fltFixBy rn rx ry) rounds k
    ∧ fix (.fltTrunc rn rx ry) .zero 0 ∧ fix (.fltTruncBy rn rx ry) .zero k

/-- FLOAT converts exactly, FLOAT BY scales, and FIX takes a converted integer back. FLOAT Rx leaves the value of the
32-bit integer exactly, with AZ and AN by it; BY adds the integer in Ry to the exponent, rounded and packed to 32
significant bits whatever RND32 says; and FIX of the result gives the integer back when RND32 is 0. The function of
FLOAT is general knowledge in the spec. -/
def Obligations.FixedToFloat : Prop :=
  ∀ (s : State) (rn rx ry rk : BitVec 4),
    let i := (s.rfix rx).toInt
    let k := (s.rfix ry).toInt
    (Completes (.fltFloat rn rx ry) s fun t => ComputeFrame s t [rn] [] 0x43F 0 ∧ fltVal (t.rreg rn) = i
      ∧ AluStatus t (decide (i = 0)) false (decide (i < 0)) false false false true)
    ∧ (Completes (.fltFloatBy rn rx ry) s fun t => ComputeFrame s t [rn] [] 0x43F 0x3 ∧
      ∃ o, AluGives s t rn o ∧
        if i = 0 then o = fltOut 0
        else ∃ (m : Nat) (e : Int), m ≠ 0 ∧ (m : ℚ) * 2 ^ e = |(i : ℚ)| * 2 ^ k
          ∧ o = fltPacked (fltPack s.modes.trunc 32 (decide (i < 0)) m e))
    ∧ (s.modes.rnd32 = false →
      ∃ t u, exec (.fltFloat rn rx ry) s = .next t ∧ exec (.fltFix rk rn ry) t = .next u ∧ u.rreg rk = s.rfix rx ++ 0#8)

/-- RECIPS and RSQRTS give seeds of the stated accuracy, whatever the ROM holds. RECIPS: a zero gives Infinity with
AV; an exponent above 125 gives Zero; else a seed of the sign and exponent the rule says, within 1/256 of the
reciprocal. RSQRTS: a zero gives Infinity with AV; a negative operand is invalid; Infinity gives Zero; else a seed
whose square times the operand is within (15/16)^2 and (17/16)^2. The ROM contents are free (U7 of the spec). The last
cases of RSQRTS are general knowledge in the spec; the low eight bits of its all-ones word are decision D22 (log 38).
-/
def Obligations.FloatSeeds : Prop :=
  ∀ (s : State) (rn rx ry : BitVec 4),
    let x := fltIn s.modes.rnd32 (s.rreg rx)
    let e : Int := (fltExp x : Int) - 127
    fltNan x = false →
    (Completes (.fltRecips rn rx ry) s fun t => ComputeFrame s t [rn] [] 0x43F 0x2 ∧
      (if fltZero x then
        t.rreg rn = infWord x.msb ∧ AluStatus t false true x.msb false false false true ∧ Sticks s t 1 true
      else if 125 < e then t.rreg rn = zeroWord x.msb ∧ AluStatus t true false x.msb false false false true
      else
        (t.rreg rn).msb = x.msb ∧ (fltExp (t.rreg rn) : Int) = -e - 1 + 127
          ∧ |fltVal (t.rreg rn) * fltVal x - 1| ≤ 1 / 256
          ∧ AluStatus t false false x.msb false false false true))
    ∧ (Completes (.fltRsqrts rn rx ry) s fun t => ComputeFrame s t [rn] [] 0x43F 0x22 ∧
      (if fltZero x then
        t.rreg rn = infWord x.msb ∧ AluStatus t false true x.msb false false false true ∧ Sticks s t 1 true
      else if x.msb then
        t.rreg rn = (if s.modes.rnd32 then 0xFFFFFFFF00 else 0xFFFFFFFFFF)
          ∧ AluStatus t false false false false false true true ∧ Sticks s t 5 true
      else if fltInf x then t.rreg rn = 0 ∧ AluStatus t true false false false false false true
      else
        (t.rreg rn).msb = false ∧ (fltExp (t.rreg rn) : Int) = -(e / 2) - 1 + 127
          ∧ 225 / 256 ≤ fltVal (t.rreg rn) ^ 2 * fltVal x ∧ fltVal (t.rreg rn) ^ 2 * fltVal x ≤ 289 / 256
          ∧ AluStatus t false false false false false false true))

/-- COPYSIGN, MIN, MAX and CLIP of floating-point operands. For operands that are no NAN: COPYSIGN takes the sign of
y; MIN and MAX give the operand of that value, -0 before +0; CLIP gives x when it is the smaller in magnitude, else y
with the sign of x; that of two zeros it gives the zero with the sign of x is assumption log 73 (DESIGN CHOICE). AZ and AN
by the result. The functions are general knowledge in the spec. -/
def Obligations.FloatCopysignMinMaxClip : Prop :=
  ∀ (s : State) (rn rx ry : BitVec 4),
    let x := fltIn s.modes.rnd32 (s.rreg rx)
    let y := fltIn s.modes.rnd32 (s.rreg ry)
    let row (i : Instr) (P : BitVec 40 → Prop) : Prop :=
      Completes i s fun t => ComputeFrame s t [rn] [] 0x43F 0 ∧ P (t.rreg rn)
        ∧ AluStatus t (fltZero (t.rreg rn)) false (t.rreg rn).msb false false false true
    fltNan x = false → fltNan y = false →
      row (.fltCopysign rn rx ry) (fun r => r = BitVec.ofBool y.msb ++ x.extractLsb' 0 39)
      ∧ row (.fltMin rn rx ry) (fun r => (r = x ∨ r = y) ∧ fltVal r = min (fltVal x) (fltVal y)
        ∧ (fltZero x && fltZero y → r.msb = (x.msb || y.msb)))
      ∧ row (.fltMax rn rx ry) (fun r => (r = x ∨ r = y) ∧ fltVal r = max (fltVal x) (fltVal y)
        ∧ (fltZero x && fltZero y → r.msb = (x.msb && y.msb)))
      ∧ row (.fltClip rn rx ry) (fun r => r =
        if |fltVal x| < |fltVal y| then x else BitVec.ofBool x.msb ++ y.extractLsb' 0 39)

/-- The eleven fixed-point multiplies and multiply-accumulates. The exact product, doubled for two signed fractions,
alone or added to or subtracted from MRF or MRB modulo 2^80, rounded at bit 32 when the option asks for it (to
nearest, ties to even), goes whole to MRF or MRB, or in its format to R[rn]; MN, MV and MU by the format, MI cleared,
MOS sticky. Every form completes in every state; nothing else changes. That rounding clears bits 31:0 is decision D26
of the spec (log 38). -/
def Obligations.FixedMultiplies : Prop :=
  ∀ (s : State) (m : Mod2) (rn rx ry : BitVec 4),
    let p := productOf m (s.rfix rx) (s.rfix ry)
    let f : MulFmt := ⟨m.frac, m.ySigned || m.xSigned⟩
    let row (i : Instr) (d : MulDest) (base : BitVec 80) (k : Int) : Prop :=
      Completes i s fun t => ComputeFrame s t (d.regs rn) d.accs 0x3C0 0x40 ∧
        ∃ v : BitVec 80,
          (let exact := base + BitVec.ofInt 80 (k * p)
            if m.round then RoundsAt32 exact v else v = exact)
          ∧ Delivered t d f rn v ∧ MulStatus t v.msb (fmtOver f v) (fmtUnder f v) false ∧ Sticks s t 6 (fmtOver f v)
    row (.mulRn m rn rx ry) .reg 0 1 ∧ row (.mulMrf m rn rx ry) (.acc false) 0 1 ∧ row (.mulMrb m rn rx ry) (.acc true) 0 1
      ∧ row (.mulRnMrfAdd m rn rx ry) .reg (s.acc false) 1 ∧ row (.mulRnMrbAdd m rn rx ry) .reg (s.acc true) 1
      ∧ row (.mulMrfAdd m rn rx ry) (.acc false) (s.acc false) 1 ∧ row (.mulMrbAdd m rn rx ry) (.acc true) (s.acc true) 1
      ∧ row (.mulRnMrfSub m rn rx ry) .reg (s.acc false) (-1) ∧ row (.mulRnMrbSub m rn rx ry) .reg (s.acc true) (-1)
      ∧ row (.mulMrfSub m rn rx ry) (.acc false) (s.acc false) (-1)
      ∧ row (.mulMrbSub m rn rx ry) (.acc true) (s.acc true) (-1)

/-- SAT limits an accumulator to the largest and smallest number of its format. The accumulator value is brought to
the nearest number of the format (R559: with the overflow condition the maximum of its sign, else it stays), and the
result delivered to R[rn] or back to the accumulator (R544), MN and MU by it and MI clear (R545). That MV is cleared
whatever the value was and MOS left alone is the choice 90_conflicts.md C26 makes (R560 to R563; log 38). -/
def Obligations.MultiplierSaturate : Prop :=
  ∀ (s : State) (m : Mod1) (rn rx ry : BitVec 4),
    let f : MulFmt := ⟨m.frac, m.signed⟩
    let row (i : Instr) (d : MulDest) (v : BitVec 80) : Prop :=
      Completes i s fun t => ComputeFrame s t (d.regs rn) d.accs 0x3C0 0 ∧
        ∃ r : BitVec 80, fmtValue f r = max (fmtMin f) (min (fmtMax f) (fmtValue f v))
          ∧ Delivered t d f rn r ∧ MulStatus t r.msb false (fmtUnder f r) false
    row (.mulRnSatMrf m rn rx ry) .reg (s.acc false) ∧ row (.mulRnSatMrb m rn rx ry) .reg (s.acc true)
      ∧ row (.mulMrfSat m rn rx ry) (.acc false) (s.acc false) ∧ row (.mulMrbSat m rn rx ry) (.acc true) (s.acc true)

/-- RND rounds an accumulator at bit 32, and MRF = 0 and MRB = 0 clear one. RND: to nearest at bit 32 with ties to
even (decision D26 of the spec clears the low half), delivered as a fraction with the flags of its sign option; the
clears leave all 80 bits and the four multiplier flags 0. -/
def Obligations.MultiplierRoundAndClear : Prop :=
  ∀ (s : State) (sg : Bool) (rn rx ry : BitVec 4),
    let f : MulFmt := ⟨true, sg⟩
    let row (i : Instr) (d : MulDest) (v : BitVec 80) : Prop :=
      Completes i s fun t => ComputeFrame s t (d.regs rn) d.accs 0x3C0 0x40 ∧
        ∃ r : BitVec 80, RoundsAt32 v r ∧ Delivered t d f rn r
          ∧ MulStatus t r.msb (fmtOver f r) (fmtUnder f r) false ∧ Sticks s t 6 (fmtOver f r)
    row (.mulRnRndMrf sg rn rx ry) .reg (s.acc false) ∧ row (.mulRnRndMrb sg rn rx ry) .reg (s.acc true)
      ∧ row (.mulMrfRnd sg rn rx ry) (.acc false) (s.acc false) ∧ row (.mulMrbRnd sg rn rx ry) (.acc true) (s.acc true)
      ∧ (Completes (.mulMrfZero rn rx ry) s fun t => ComputeFrame s t [] [false] 0x3C0 0 ∧ t.acc false = 0
        ∧ MulStatus t false false false false)
      ∧ (Completes (.mulMrbZero rn rx ry) s fun t => ComputeFrame s t [] [true] 0x3C0 0 ∧ t.acc true = 0
        ∧ MulStatus t false false false false)

/-- The twelve transfers between data registers and the parts of the accumulators. Reading MR0 or MR1 gives 32 bits,
MR2 its 16 bits sign-extended; writing MR0 changes only MR0, writing MR1 sign-extends into MR2, writing MR2 takes the
low 16 bits (decision D27 of the spec); the four multiplier flags are cleared. -/
def Obligations.MrTransfers : Prop :=
  ∀ (s : State) (rk : BitVec 4),
    let read (i : Instr) (v : BitVec 32) : Prop :=
      Completes i s fun t => ComputeFrame s t [rk] [] 0x3C0 0 ∧ t.rreg rk = v ++ 0#8 ∧ MulStatus t false false false false
    let write (i : Instr) (b : Bool) (v : BitVec 80) : Prop :=
      Completes i s fun t => ComputeFrame s t [] [b] 0x3C0 0 ∧ t.acc b = v ∧ MulStatus t false false false false
    let f := s.acc false
    let b := s.acc true
    let r := s.rfix rk
    read (.mr0fRead rk) (f.extractLsb' 0 32) ∧ read (.mr1fRead rk) (f.extractLsb' 32 32)
      ∧ read (.mr2fRead rk) ((f.extractLsb' 64 16).signExtend 32)
      ∧ read (.mr0bRead rk) (b.extractLsb' 0 32) ∧ read (.mr1bRead rk) (b.extractLsb' 32 32)
      ∧ read (.mr2bRead rk) ((b.extractLsb' 64 16).signExtend 32)
      ∧ write (.mr0fWrite rk) false (f.extractLsb' 32 48 ++ r) ∧ write (.mr0bWrite rk) true (b.extractLsb' 32 48 ++ r)
      ∧ write (.mr1fWrite rk) false (BitVec.ofInt 48 r.toInt ++ f.extractLsb' 0 32)
      ∧ write (.mr1bWrite rk) true (BitVec.ofInt 48 r.toInt ++ b.extractLsb' 0 32)
      ∧ write (.mr2fWrite rk) false (r.extractLsb' 0 16 ++ f.extractLsb' 0 64)
      ∧ write (.mr2bWrite rk) true (r.extractLsb' 0 16 ++ b.extractLsb' 0 64)

/-- The floating-point multiply. A NAN, or an Infinity with a Zero, gives the all-ones result with MI and MIS; else an
Infinity or a Zero is exact, with the XOR of the signs; else the exact product is rounded and packed, MV and MVS for
overflow, MU and MUS for underflow, MN the sign. The low eight bits of the all-ones word are decision D22 of the spec,
MN = 1, MV = 0 and MU = 0 beside it D23 (log 38). -/
def Obligations.FloatMultiply : Prop :=
  ∀ (s : State) (rn rx ry : BitVec 4),
    let x := fltIn s.modes.rnd32 (s.rreg rx)
    let y := fltIn s.modes.rnd32 (s.rreg ry)
    let neg := x.msb ^^ y.msb
    Completes (.mulFloat rn rx ry) s fun t => ComputeFrame s t [rn] [] 0x3C0 0x380 ∧
      (if fltNan x || fltNan y || (fltInf x && fltZero y) || (fltZero x && fltInf y) then
        t.rreg rn = (if s.modes.rnd32 then 0xFFFFFFFF00 else 0xFFFFFFFFFF) ∧ MulStatus t true false false true
          ∧ Sticks s t 7 false ∧ Sticks s t 8 false ∧ Sticks s t 9 true
      else if fltInf x || fltInf y then t.rreg rn = infWord neg ∧ MulStatus t neg false false false ∧ t.sys.stky = s.sys.stky
      else if fltZero x || fltZero y then
        t.rreg rn = zeroWord neg ∧ MulStatus t neg false false false ∧ t.sys.stky = s.sys.stky
      else
        ∃ (m : Nat) (e : Int), m ≠ 0 ∧ (m : ℚ) * 2 ^ e = |fltVal x * fltVal y| ∧
          (let k := fltPack s.modes.trunc s.modes.bits neg m e;
            t.rreg rn = k.word ∧ MulStatus t neg k.overflow k.underflow false
              ∧ Sticks s t 7 k.overflow ∧ Sticks s t 8 k.underflow ∧ Sticks s t 9 false))

/-- Logical and arithmetic shifts and the rotate, bit by bit. Bit j of a shift by k is bit j - k of the operand, 0
beyond either end, or the sign to the right for an arithmetic shift; of a rotate, bit (j - k) mod 32; the OR forms add
the old bits of R[rn]. SV when k is positive, SZ by the value written, SS cleared. k is all 32 bits of Ry as a signed
number. The function of ROT is general knowledge in the spec (assumption log 20, PRESUMED); SZ of the OR forms on the
value written is its decision D29 (log 38). -/
def Obligations.ShiftsAndRotate : Prop :=
  ∀ (s : State) (rn rx ry : BitVec 4),
    let x := s.rfix rx
    let z := s.rfix rn
    let k := (s.rfix ry).toInt
    let left := decide (0 < k)
    let logical (j : Nat) : Bool := bitZ x (j - k)
    let arith (j : Nat) : Bool := bitZ x (min 31 (j - k))
    let row (i : Instr) (sv : Bool) (f : Nat → Bool) : Prop :=
      Completes i s fun t => ComputeFrame s t [rn] [] 0x3800 0 ∧ ShiftPost t rn sv f
    row (.shLshift rn rx ry) left logical ∧ row (.shOrLshift rn rx ry) left (fun j => z.getLsbD j || logical j)
      ∧ row (.shAshift rn rx ry) left arith ∧ row (.shOrAshift rn rx ry) left (fun j => z.getLsbD j || arith j)
      ∧ row (.shRot rn rx ry) false (fun j => bitZ x ((j - k) % 32))

/-- BCLR, BSET, BTGL and BTST. The bit that Ry names as an unsigned number is cleared, set, complemented or tested;
outside of the 32 bits nothing changes and SV is set (decision D30 of the spec on the reading of Ry); BTST writes no
register, and sets SZ when the bit is 0 or outside. The function sentences are general knowledge in the spec. -/
def Obligations.ShifterBitOperations : Prop :=
  ∀ (s : State) (rn rx ry : BitVec 4),
    let x := s.rfix rx
    let p := (s.rfix ry).toNat
    let out := decide (32 ≤ p)
    let row (i : Instr) (f : Nat → Bool) : Prop :=
      Completes i s fun t => ComputeFrame s t [rn] [] 0x3800 0 ∧ ShiftPost t rn out f
    row (.shBclr rn rx ry) (fun j => x.getLsbD j && decide (j ≠ p))
      ∧ row (.shBset rn rx ry) (fun j => x.getLsbD j || decide (j = p))
      ∧ row (.shBtgl rn rx ry) (fun j => x.getLsbD j ^^ decide (j = p))
      ∧ Completes (.shBtst rn rx ry) s fun t => ComputeFrame s t [] [] 0x3800 0 ∧ ShiftStatus t out (!x.getLsbD p) false

/-- FDEP and FEXT with and without sign extension, bit by bit. The field has the length in bits 11:6 of Ry and the
position in bits 5:0. FDEP puts the low bits of Rx at the position; FEXT takes the bits at the position down; (SE)
fills to the left with the top bit of the field; the OR forms add the old bits of R[rn]. SV when length and position
together exceed 32. The zero fill and SV of FDEP are general knowledge in the spec (assumption log 20, PRESUMED); SZ
of the OR forms on the value written is its decision D29 (log 38). -/
def Obligations.FieldDepositAndExtract : Prop :=
  ∀ (s : State) (rn rx ry : BitVec 4),
    let x := s.rfix rx
    let z := s.rfix rn
    let pos := ((s.rfix ry).extractLsb' 0 6).toNat
    let len := ((s.rfix ry).extractLsb' 6 6).toNat
    let off := decide (32 < len + pos)
    let dep (j : Nat) : Bool := decide (pos ≤ j) && decide (j < pos + len) && x.getLsbD (j - pos)
    let depSe (j : Nat) : Bool := dep j || (decide (0 < len) && decide (pos + len ≤ j) && x.getLsbD (len - 1))
    let ext (j : Nat) : Bool := decide (j < len) && x.getLsbD (j + pos)
    let extSe (j : Nat) : Bool := ext j || (decide (0 < len) && decide (len ≤ j) && x.getLsbD (pos + len - 1))
    let row (i : Instr) (f : Nat → Bool) : Prop :=
      Completes i s fun t => ComputeFrame s t [rn] [] 0x3800 0 ∧ ShiftPost t rn off f
    row (.shFdep rn rx ry) dep ∧ row (.shOrFdep rn rx ry) (fun j => z.getLsbD j || dep j)
      ∧ row (.shFdepSe rn rx ry) depSe ∧ row (.shOrFdepSe rn rx ry) (fun j => z.getLsbD j || depSe j)
      ∧ row (.shFext rn rx ry) ext ∧ row (.shFextSe rn rx ry) extSe

/-- EXP, EXP (EX), LEFTZ and LEFTO. EXP gives one minus the number of leading bits equal to the sign, SS the sign;
(EX) gives 1 when AV is set, SS then the other sign; LEFTZ and LEFTO count leading zeros and ones, with SV for 32. The
function sentences are general knowledge in the spec, and its worked example of LEFTZ on 0x0000FF00 (8) contradicts
its rule (16), which this follows. -/
def Obligations.ExponentAndLeadingBits : Prop :=
  ∀ (s : State) (rn rx ry : BitVec 4),
    let x := s.rfix rx
    let post (i : Instr) (e : Int) (sv ss : Bool) : Prop :=
      Completes i s fun t => ComputeFrame s t [rn] [] 0x3800 0
        ∧ t.rreg rn = BitVec.ofInt 32 e ++ 0#8 ∧ ShiftStatus t sv (decide (e = 0)) ss
    (∃ n, LeadingRun x x.msb n ∧ post (.shExp rn rx ry) (1 - n) false x.msb
      ∧ post (.shExpEx rn rx ry) (if s.flag 1 then 1 else 1 - n) false (s.flag 1 ^^ x.msb))
    ∧ (∃ n, LeadingRun x false n ∧ post (.shLeftz rn rx ry) n (decide (n = 32)) false)
    ∧ ∃ n, LeadingRun x true n ∧ post (.shLefto rn rx ry) n (decide (n = 32)) false

/-- FPACK rounds to the short format, FUNPACK gives its value, and FPACK takes it back. FUNPACK leaves the value the
16-bit word has, its sign bit kept. FPACK: too large gives the largest magnitude with SV, a normal or denormal result
is rounded to nearest even, too small gives a zero of the sign; the sign is the operand's in every case, SZ and SS are
cleared. FPACK after FUNPACK gives every 16-bit word back. The 15 bits below the sign of a value of the largest
exponent that rounding carries beyond it, and SV there, are left open by the spec (free in the model, assumption log
23). The format's field order and the FPACK cases are general knowledge in the spec (assumption log 20, PRESUMED);
rounding to nearest with its carry is decision D28 (log 38). -/
def Obligations.ShortFloatPackAndUnpack : Prop :=
  ∀ (s : State) (rn rx ry rk : BitVec 4),
    let h := (s.rfix rx).extractLsb' 0 16
    let e4 := (h.extractLsb' 11 4).toNat
    let fr := (h.extractLsb' 0 11).toNat
    let e := ((s.rfix rx).extractLsb' 23 8).toNat
    let f := ((s.rfix rx).extractLsb' 0 23).toNat
    let sg := BitVec.ofBool (s.rfix rx).msb
    (Completes (.shFunpack rn rx ry) s fun t => ComputeFrame s t [rn] [] 0x3800 0 ∧ ShiftStatus t false false false
      ∧ (t.rreg rn).msb = h.msb ∧ (t.rreg rn).extractLsb' 0 20 = 0 ∧ fltExp (t.rreg rn) ≠ 255
      ∧ (e4 = 0 → fr = 0 → t.rreg rn = BitVec.ofBool h.msb ++ 0#39)
      ∧ |fltVal (t.rreg rn)| = if e4 = 0 then (fr : ℚ) * 2 ^ (-17 : Int) else (2 ^ 11 + fr : ℚ) * 2 ^ ((e4 : Int) - 18))
    ∧ (Completes (.shFpack rn rx ry) s fun t => ComputeFrame s t [rn] [] 0x3800 0
      ∧ t.sys.astat.getLsbD 12 = false ∧ t.sys.astat.getLsbD 13 = false ∧
      ∃ q : Nat,
        (t.rreg rn).extractLsb' 23 17 = 0#16 ++ sg ∧ (t.rreg rn).extractLsb' 0 8 = 0 ∧
        (if 135 < e then q = 0x7FFF
          else if 120 < e then ∃ r, RoundsTo false (f : ℚ) 12 r ∧ q = (e - 120) * 2048 + r
          else if 109 < e then RoundsTo false (2 ^ 23 + f : ℚ) (133 - e) q
          else q = 0)
        ∧ (q < 0x8000 → t.rreg rn = 0#16 ++ sg ++ BitVec.ofNat 15 q ++ 0#8
          ∧ t.sys.astat.getLsbD 11 = decide (135 < e)))
    ∧ ∃ t u, exec (.shFunpack rn rx ry) s = .next t ∧ exec (.shFpack rk rn ry) t = .next u ∧ u.rreg rk = 0#16 ++ h ++ 0#8

/-- An immediate shift is its register form with the immediate for Ry. For each of the fifteen operations: under its
condition the immediate form leaves what the shifter leaves on the 8-bit value with its sign, or on the 12-bit field
of position and length; the register form leaves the same operation on the contents of Ry. Both complete; only R[rn],
but for BTST, and SV, SZ, SS change, and the note of a NOT LCE condition. Instr.ofShiftImm gives the constructors
lshiftImm, orLshiftImm, ashiftImm, orAshiftImm, rotImm, bclrImm, bsetImm, btglImm, btstImm, fdepImm, orFdepImm,
fdepSeImm, orFdepSeImm, fextImm, fextSeImm. -/
def Obligations.ImmediateShifts : Prop :=
  ∀ p ∈ [(ShiftImmOp.lshift, Instr.shLshift), (.orLshift, .shOrLshift), (.ashift, .shAshift), (.orAshift, .shOrAshift),
      (.rot, .shRot), (.bclr, .shBclr), (.bset, .shBset), (.btgl, .shBtgl), (.btst, .shBtst), (.fdep, .shFdep),
      (.orFdep, .shOrFdep), (.fdepSe, .shFdepSe), (.orFdepSe, .shOrFdepSe), (.fext, .shFext), (.fextSe, .shFextSe)],
    ∀ (s : State) (cond : BitVec 5) (dataex : BitVec 4) (data : BitVec 8) (rn rx ry : BitVec 4),
      let y : BitVec 32 :=
        if p.1 ∈ [ShiftImmOp.fdep, .orFdep, .fdepSe, .orFdepSe, .fext, .fextSe] then 0#20 ++ dataex ++ data
        else BitVec.ofInt 32 data.toInt
      exec (p.2 rn rx ry) s = .next (s.shift p.1.toShiftOp rn rx (s.rfix ry))
        ∧ (s.cond cond = true →
          Completes (Instr.ofShiftImm p.1 cond dataex data rn rx) s fun t =>
            t = (s.noteCond cond).shift p.1.toShiftOp rn rx y
              ∧ ComputeFrame (s.noteCond cond) t (if p.1 = .btst then [] else [rn]) [] 0x3800 0)

/-- A multifunction operation does what its operations do alone, on the registers as they were. The fifteen
fixed-point and eight floating-point multiplier-and-ALU rows, the two with a dual add and subtract, and the two dual
rows alone: results and flags are those of the single operations from the same state; the flags of the sum and the
difference are ORed; a register that both units write keeps the ALU's result; a dual row with one register for both
results leaves one of the two (U8; assumption log 21, DESIGN CHOICE). The X and Y inputs come from R0-3, R4-7, R8-11
and R12-15. The rules are R620, R621 (inputs), R622 with R26 (the ALU's result stays) and R626 (SSFR for a data
register, SSF for MRF). -/
def Obligations.MultifunctionRows : Prop :=
  ∀ (s : State) (rs rm ra rx ry : BitVec 4) (xm ym xa ya : BitVec 2),
    let mx := 0#2 ++ xm
    let my := 1#2 ++ ym
    let ax := 2#2 ++ xa
    let ay := 3#2 ++ ya
    let ssfr : Mod2 := ⟨true, true, true, true⟩
    let ssf : Mod2 := ⟨true, true, true, false⟩
    let add := Instr.aluAdd ra ax ay
    let sub := Instr.aluSub ra ax ay
    let avg := Instr.aluAvg ra ax ay
    let three (i1 i2 i3 im : Instr) (mr : List (BitVec 4)) (acc : List Bool) : Prop :=
      Parallel s i1 im add mr [ra] acc 0x44 ∧ Parallel s i2 im sub mr [ra] acc 0x44 ∧ Parallel s i3 im avg mr [ra] acc 0x40
    let float (i ia : Instr) (sm : BitVec 32) : Prop := Parallel s i (.mulFloat rm mx my) ia [rm] [ra] [] (0x380 ||| sm)
    let dual (i isum idiff : Instr) (sm : BitVec 32) : Prop :=
      ∃ t1 t2, exec isum s = .next t1 ∧ exec idiff s = .next t2 ∧ Completes i s fun t =>
        ComputeFrame s t [rs, ra] [] 0x43F sm
          ∧ (ra ≠ rs → t.rreg ra = t1.rreg ra ∧ t.rreg rs = t2.rreg rs)
          ∧ (ra = rs → t.rreg ra = t1.rreg ra ∨ t.rreg ra = t2.rreg rs)
          ∧ t.sys.astat &&& 0x43F = (t1.sys.astat ||| t2.sys.astat) &&& 0x43F
          ∧ t.sys.stky = t1.sys.stky ||| t2.sys.stky
    three (.parRmAdd rm ra xm ym xa ya) (.parRmSub rm ra xm ym xa ya) (.parRmAvg rm ra xm ym xa ya)
      (.mulRn ssfr rm mx my) [rm] []
    ∧ three (.parMrfAddAdd rm ra xm ym xa ya) (.parMrfAddSub rm ra xm ym xa ya) (.parMrfAddAvg rm ra xm ym xa ya)
      (.mulMrfAdd ssf rm mx my) [] [false]
    ∧ three (.parRmMrfAddAdd rm ra xm ym xa ya) (.parRmMrfAddSub rm ra xm ym xa ya) (.parRmMrfAddAvg rm ra xm ym xa ya)
      (.mulRnMrfAdd ssfr rm mx my) [rm] []
    ∧ three (.parMrfSubAdd rm ra xm ym xa ya) (.parMrfSubSub rm ra xm ym xa ya) (.parMrfSubAvg rm ra xm ym xa ya)
      (.mulMrfSub ssf rm mx my) [] [false]
    ∧ three (.parRmMrfSubAdd rm ra xm ym xa ya) (.parRmMrfSubSub rm ra xm ym xa ya) (.parRmMrfSubAvg rm ra xm ym xa ya)
      (.mulRnMrfSub ssfr rm mx my) [rm] []
    ∧ float (.parFltAdd rm ra xm ym xa ya) (.fltAdd ra ax ay) 0x23
    ∧ float (.parFltSub rm ra xm ym xa ya) (.fltSub ra ax ay) 0x23
    ∧ float (.parFltFloatBy rm ra xm ym xa ya) (.fltFloatBy ra ax ay) 0x3
    ∧ float (.parFltFixBy rm ra xm ym xa ya) (.fltFixBy ra ax ay) 0x23
    ∧ float (.parFltAvg rm ra xm ym xa ya) (.fltAvg ra ax ay) 0x21
    ∧ float (.parFltAbs rm ra xm ym xa ya) (.fltAbs ra ax ay) 0x20
    ∧ float (.parFltMax rm ra xm ym xa ya) (.fltMax ra ax ay) 0x20
    ∧ float (.parFltMin rm ra xm ym xa ya) (.fltMin ra ax ay) 0x20
    ∧ Parallel s (.parMulDual rs rm ra xm ym xa ya) (.mulRn ssfr rm mx my) (.aluDual rs ra ax ay) [rm] [rs, ra] [] 0x44
    ∧ Parallel s (.parFltDual rs rm ra xm ym xa ya) (.mulFloat rm mx my) (.fltDual rs ra ax ay) [rm] [rs, ra] [] 0x3A3
    ∧ dual (.aluDual rs ra rx ry) (.aluAdd ra rx ry) (.aluSub rs rx ry) 0x4
    ∧ dual (.fltDual rs ra rx ry) (.fltAdd ra rx ry) (.fltSub rs rx ry) 0x23

/-- A conditional compute does its operation when the condition holds, and nothing otherwise. The Type 2 word with any
condition but TRUE decodes to the operation that the unconditional word with the same COMPUTE field stands for; under
the condition it leaves what that instruction leaves, and without it nothing but the note of a NOT LCE condition.
Every compute operation completes: it writes its result registers, its accumulators and the flags of its units, sets
sticky bits only, and changes nothing else, no byte of memory either. An undefined register that two results of a dual
operation share is free (assumption log 21). The conditions are these bits of ASTAT as it is in effect: 0 AZ, 3
AC, 4 AV, 5 MV, 6 MN, 7 SV, 8 SZ, 9 to 12 the flag pins, 13 BTF; 1 and 2 the formulas of R285, the second of AF, AN, AV,
AZ and MODE1.ALUSAT (their bars are general knowledge in the spec); 14 the bus master with MODE1.CSEL = 00, for an
instruction that has waited the master when its condition was evaluated first (R286; assumption log 13); 15 that
CURLCNTR, by its old value right after a load of it from memory, is not 1, outside loops of one or two instructions; 31
always; 16 to 30 are the complements of 0 to 14. -/
def Obligations.ConditionalCompute : Prop :=
  ∀ (s : State) (cond : BitVec 5) (c : Compute),
    (let f : Nat → Bool := fun k => s.lat.astat.getLsbD k
      let sat := s.lat.mode1.getLsbD 13
      let lt := (!f 10 && (f 2 ^^ (f 1 && !sat))) || (f 10 && f 2 && !f 0)
      let le := (!f 10 && (f 2 ^^ (f 1 && !sat))) || (f 10 && f 2) || f 0
      let master := (decide (s.env.id = 0) || (s.iop.sys.bsyn && decide (s.iop.sys.crbm = s.env.id))) && !s.iop.sys.hstm
      let bm := decide (s.lat.mode1.extractLsb' 17 2 = 0) && s.lat.master.getD master
      let codes : List Bool := [f 0, lt, le, f 3, f 1, f 7, f 6, f 11, f 12, f 19, f 20, f 21, f 22, f 18, bm];
      (∀ k < 15, s.cond (BitVec.ofNat 5 k) = codes.getD k false
        ∧ s.cond (BitVec.ofNat 5 (k + 16)) = !codes.getD k false)
      ∧ s.cond 31 = true
      ∧ (s.inShortLoop = false →
        s.cond 15 = decide (s.lat.curlcntr.getD (if s.stk.depth = 0 then 0xFFFFFFFF
          else s.stk.count.toList.getD (s.stk.depth.toNat - 1) 0) ≠ 1))) ∧
    (∀ (w : BitVec 23) (i : Instr), cond ≠ 31 → decode (0x01#8 ++ 0#2 ++ cond ++ 0#10 ++ w) = .ok (.compute cond c) →
      decode (computeWord w) = .ok i →
      exec (.compute cond c) s = if s.cond cond then exec i (s.noteCond cond) else .next (s.noteCond cond))
    ∧ (s.cond cond = true → Completes (.compute cond c) s fun t =>
      ComputeFrame (s.noteCond cond) t c.dests c.accs c.astatMask c.stkyMask)
    ∧ (s.cond cond = false → exec (.compute cond c) s = .next (s.noteCond cond))

/-- An instruction whose condition is false does nothing, but for an ELSE compute. Types 2 to 8, and Types 9 and 11
without ELSE: with a false condition the next state differs only in the note of a NOT LCE condition: no register,
flag, stack or byte changes and no branch is taken; where Types 3, 4 and 6 would have accessed external memory or the
other processor's space, it is noted besides that the processor requests the bus (61_dma_extport.md R753). Types 9 and
11 with ELSE do the compute operation instead. -/
def Obligations.FalseConditionDoesNothing : Prop :=
  ∀ (s : State) (cond : BitVec 5), s.cond cond = false →
    let u := s.noteCond cond
    let seeking : BitVec 32 → State := fun a =>
      match place s.env.id a with
      | .ext _ | .remote => { u with iop.hid.busWait := true }
      | _ => u
    (∀ c, exec (.compute cond c) s = .next u)
    ∧ (∀ up i m g d r c, exec (.uregMemMoveM up i m cond g d r c) s = .next (seeking (s.indexAddr up g i (s.dagReg .m g m))))
    ∧ (∀ i g d up (data : BitVec 6) r c,
      exec (.dregMemMoveImm6 i g d up cond data r c) s = .next (seeking (s.indexAddr up g i (data.signExtend 32))))
    ∧ (∀ src dst c, exec (.uregUregMove src cond dst c) s = .next u)
    ∧ (∀ op dx data rn rx, exec (Instr.ofShiftImm op cond dx data rn rx) s = .next u)
    ∧ (∀ op i m g d dx r data rn rx, exec (Instr.ofShiftImmMove op i m cond g d dx r data rn rx) s =
      .next (seeking (s.postAddr g i)))
    ∧ (∀ g i m c, exec (.modify g cond i m c) s = .next u)
    ∧ (∀ a j ci t, exec (.jumpDirect a cond j ci t) s = .next u ∧ exec (.jumpPcrel a cond j ci t) s = .next u
      ∧ exec (.callDirect a cond j ci t) s = .next u ∧ exec (.callPcrel a cond j ci t) s = .next u)
    ∧ ∀ (e : Bool) (c : Compute),
      let r : Host.Outcome State Fault Refusal := if e then exec (.compute 31 c) u else .next u;
      (∀ a j ci pmi pmm, exec (.jumpIndirect a cond pmi pmm j e ci c) s = r
        ∧ exec (.callIndirect a cond pmi pmm j e ci c) s = r)
      ∧ (∀ a j ci t, exec (.jumpPcrel6 a cond t j e ci c) s = r ∧ exec (.callPcrel6 a cond t j e ci c) s = r)
      ∧ (∀ j lr, exec (.rts cond j e lr c) s = r) ∧ ∀ j, exec (.rti cond j e c) s = r

/-- An immediate shift with a transfer is the shift alone beside a postmodify access. For each of the fifteen
operations, both buses, both directions and every place of the memory map the access can use now: the register stored
is the one before the shift, a loaded register wins over the shift's result, and the index register is updated; the
shift does what the form without a transfer does. The forms stored as a short word and in 40 bits are the decisions D18
and D19 of the spec (log 38); what a store keeps where no memory is, or in SDRAM before power-up, is nothing (assumption
log 15). Instr.ofShiftImmMove gives the constructors lshiftImmMove,
orLshiftImmMove, ashiftImmMove, orAshiftImmMove, rotImmMove, bclrImmMove, bsetImmMove, btglImmMove, btstImmMove,
fdepImmMove, orFdepImmMove, fdepSeImmMove, orFdepSeImmMove, fextImmMove, fextSeImmMove. -/
def Obligations.ShiftWithMove : Prop :=
  ∀ (op : ShiftImmOp) (s : State) (i m : BitVec 3) (cond : BitVec 5) (g : Bool) (dx r : BitVec 4) (data : BitVec 8)
    (rn rx : BitVec 4), MemInv s → s.cond cond = true →
      let u := s.noteCond cond
      let p := place s.env.id (s.postAddr g i)
      let mv := s.dagReg .m g m
      let par : State → State → Prop := fun x y =>
        exec (Instr.ofShiftImm op 31 dx data rn rx) x = .next y
          ∧ ComputeFrame x y (if op = .btst then [] else [rn]) [] 0x3800 0;
      (StoreOk u g false p (s.rreg r ++ 0#8) →
        Completes (Instr.ofShiftImmMove op i m cond g true dx r data rn rx) s fun t =>
          StoreDone u t g false p (s.rreg r ++ 0#8) par true i mv)
      ∧ (LoadOk u (.r r) p → Completes (Instr.ofShiftImmMove op i m cond g false dx r data rn rx) s fun t =>
          LoadDone u t g (.r r) p par true i mv)

/-- The dual move makes its DM access before its PM access, and a DM load wins. Type 1: the DM access at I of DAG1,
then the PM access at I of DAG2 on what the first left; stored registers are those before the instruction; the compute
operation, the PM load and the DM load are written in that order, so that a DM load of the same register stays; then
both index registers are updated. It completes wherever both accesses can be made now. The order of the two accesses
is that of 20_memory.md R251 and 40_compute_move.md R355. The forms stored as a short word and in 40 bits are the
decisions D18 and D19 of the spec (log 38); what a store keeps where no memory is, or in SDRAM before power-up, is
nothing (assumption log 15). -/
def Obligations.DualMove : Prop :=
  ∀ (s : State) (dmd pmd : Bool) (dmi dmm pmi pmm : BitVec 3) (r1 r2 : BitVec 4) (c : Compute), MemInv s →
    let p1 := place s.env.id (s.postAddr false dmi)
    let p2 := place s.env.id (s.postAddr true pmi)
    let first : State → BitVec 48 → Prop := fun x w =>
      if dmd then Stored s x false false p1 (s.rreg r1 ++ 0#8) else Loaded s x false (.r r1) p1 w
    let second : State → State → BitVec 48 → Prop := fun x y w =>
      if pmd then Stored x y true false p2 (s.rreg r2 ++ 0#8) else Loaded x y true (.r r2) p2 w;
    (if dmd then StoreOk s false false p1 (s.rreg r1 ++ 0#8) else LoadOk s (.r r1) p1) →
    (∀ x w, first x w → if pmd then StoreOk x true false p2 (s.rreg r2 ++ 0#8) else LoadOk x (.r r2) p2) →
      Completes (.dmPmDualMove dmd dmi dmm pmd r1 pmi pmm r2 c) s fun t =>
        ∃ x y z a b d w1 w2, first x w1 ∧ second x y w2 ∧ Computed c y z
          ∧ (if pmd then a = z else LoadWritten z a (.r r2) w2)
          ∧ (if dmd then b = a else LoadWritten a b (.r r1) w1)
          ∧ Updated b d false dmi (s.dagReg .m false dmm) ∧ Updated d t true pmi (s.dagReg .m true pmm)

/-- A store leaves the register as it was before the instruction in memory, and no other byte changes. Types 3, 4, 14,
15 and 16, either bus, at every place that takes the store now, an IOP register among them: the place then holds the
register's image in its own width, every other byte is as before, the compute operation is done, and a postmodify
updates the index register only. A store of a register of the DAG that forms the address is refused. What a store
keeps where no memory is, or in SDRAM before power-up, is nothing (assumption log 15). That Type 16 writes an IOP
register with Env.immToIop (R423), and without it changes nothing but its index register (R121 a), is assumption log 43
(DESIGN CHOICE); the forms stored as a short word and in 40 bits are decisions D18 and D19 of the spec (log 38). -/
def Obligations.Stores : Prop :=
  ∀ s : State, MemInv s →
    (∀ (cond : BitVec 5) (g up : Bool) (i m : BitVec 3) (r : Ureg) (c : Compute), s.cond cond = true →
      let u := s.noteCond cond
      let mv := s.dagReg .m g m
      let p := place s.env.id (s.indexAddr up g i mv);
      (uregInDag r g = true → exec (.uregMemMoveM up i m cond g true r c) s = .refused .sameDagTransfer)
      ∧ ∀ w, uregInDag r g = false → s.storeImage r = .ok w → StoreOk u g (decide (r = .px)) p w →
        Completes (.uregMemMoveM up i m cond g true r c) s fun t =>
          StoreDone u t g (decide (r = .px)) p w (Computed c) up i mv)
    ∧ (∀ (cond : BitVec 5) (g up : Bool) (i : BitVec 3) (data : BitVec 6) (n : BitVec 4) (c : Compute),
      s.cond cond = true →
      let u := s.noteCond cond
      let mv : BitVec 32 := data.signExtend 32
      let p := place s.env.id (s.indexAddr up g i mv);
      StoreOk u g false p (s.rreg n ++ 0#8) → Completes (.dregMemMoveImm6 i g true up cond data n c) s fun t =>
        StoreDone u t g false p (s.rreg n ++ 0#8) (Computed c) up i mv)
    ∧ (∀ (g : Bool) (r : Ureg) (a : BitVec 32) (w : BitVec 48), s.storeImage r = .ok w →
      let p := place s.env.id (if g then a &&& 0x00FFFFFF else a);
      StoreOk s g (decide (r = .px)) p w → Completes (.uregMemDirect g true r a) s fun t =>
        StoreDone s t g (decide (r = .px)) p w Eq false 0 0)
    ∧ (∀ (g d : Bool) (i : BitVec 3) (r : Ureg) (data : BitVec 32),
      (uregInDag r g = true → exec (.uregMemImm32 g i d r data) s = .refused .sameDagTransfer)
      ∧ ∀ w, uregInDag r g = false → s.storeImage r = .ok w →
        let p := place s.env.id (s.premodify g i data);
        StoreOk s g (decide (r = .px)) p w → Completes (.uregMemImm32 g i true r data) s fun t =>
          StoreDone s t g (decide (r = .px)) p w Eq false i data)
    ∧ ∀ (i m : BitVec 3) (g : Bool) (data : BitVec 32),
      let p := place s.env.id (s.postAddr g i);
      (((∀ r, p ≠ .iop r) ∨ s.env.immToIop = true) → StoreOk s g false p (data ++ 0#16) →
        Completes (.memImm32Store i m g data) s fun t =>
          StoreDone s t g false p (data ++ 0#16) Eq true i (s.dagReg .m g m))
      ∧ ∀ r, p = .iop r → s.env.immToIop = false →
        Completes (.memImm32Store i m g data) s fun t => Updated s t g i (s.dagReg .m g m)

/-- A load brings the word of its place to its register, and memory stays as it was. Types 3, 4, 14 and 15, either
bus, from every place that answers now: the register gets the word in the width of the place and of the register (PX
48 or 40 bits, short words extended by MODE1.SSE, an IOP register's value), after the result of the compute operation;
a postmodify then updates the index register. The value must be one the register may take (IRPTL without bit 1). With
postmodify a register of the same DAG is refused, and with Type 15 always. That a load of PC, DADDR or FADDR does
nothing is decision D3 of the spec, that all six stack flags of STKY are read-only D5, the forms of short and 40-bit
words D18 and D19 (log 38); that a load of PCSTK or LADDR on an empty stack does nothing is the model's (assumption log
50). -/
def Obligations.Loads : Prop :=
  ∀ s : State,
    (∀ (cond : BitVec 5) (g up : Bool) (i m : BitVec 3) (r : Ureg) (c : Compute), s.cond cond = true →
      let u := s.noteCond cond
      let mv := s.dagReg .m g m
      let p := place s.env.id (s.indexAddr up g i mv);
      (uregInDag r g = true → up = true → exec (.uregMemMoveM up i m cond g false r c) s = .refused .sameDagTransfer)
      ∧ ((uregInDag r g = true → up = false) → LoadOk u r p → LoadSettable u g r p →
        Completes (.uregMemMoveM up i m cond g false r c) s fun t => LoadDone u t g r p (Computed c) up i mv))
    ∧ (∀ (cond : BitVec 5) (g up : Bool) (i : BitVec 3) (data : BitVec 6) (n : BitVec 4) (c : Compute),
      s.cond cond = true →
      let u := s.noteCond cond
      let mv : BitVec 32 := data.signExtend 32
      let p := place s.env.id (s.indexAddr up g i mv);
      LoadOk u (.r n) p → Completes (.dregMemMoveImm6 i g false up cond data n c) s fun t =>
        LoadDone u t g (.r n) p (Computed c) up i mv)
    ∧ (∀ (g : Bool) (r : Ureg) (a : BitVec 32),
      let p := place s.env.id (if g then a &&& 0x00FFFFFF else a);
      LoadOk s r p → LoadSettable s g r p → Completes (.uregMemDirect g false r a) s fun t =>
        LoadDone s t g r p Eq false 0 0)
    ∧ ∀ (g : Bool) (i : BitVec 3) (r : Ureg) (data : BitVec 32),
      (uregInDag r g = true → exec (.uregMemImm32 g i false r data) s = .refused .sameDagTransfer)
      ∧ (uregInDag r g = false →
        let p := place s.env.id (s.premodify g i data);
        LoadOk s r p → LoadSettable s g r p → Completes (.uregMemImm32 g i false r data) s fun t =>
          LoadDone s t g r p Eq false i data)

/-- A register move and an immediate load write their register and nothing else. Type 5: the value read before the
instruction goes to the destination after the result of the compute operation, in the width of the destination
(10_state.md R23); writes of PC, DADDR, FADDR do nothing, of IMASK keep bits 0 and 1 set, of ASTAT the input flags, of
STKY the stack flags; B writes I too. Type 17 does the same with its immediate value. Setting bit 1 of IRPTL is the
fault irptlResetBit. That writes of PC, DADDR and FADDR do nothing is decision D3 of the spec, that all six stack
flags of STKY are read-only D5 (log 38); that a write of PCSTK or LADDR on an empty stack does nothing is the model's
(assumption log 50). -/
def Obligations.RegisterMoves : Prop :=
  ∀ s : State,
    (∀ (src dst : Ureg) (cond : BitVec 5) (c : Compute) (v : BitVec 40), s.cond cond = true → s.uregRead src = .ok v →
      let u := s.noteCond cond;
      (s.settable false dst (v.extractLsb' 8 32) = true → Completes (.uregUregMove src cond dst c) s fun t =>
        ∃ x, Computed c u x ∧ UregWritten x t false dst v)
      ∧ (dst = .irptl → v.getLsbD 9 = true → exec (.uregUregMove src cond dst c) s = .fault .irptlResetBit))
    ∧ ∀ (dst : Ureg) (data : BitVec 32),
      (s.settable false dst data = true → Completes (.uregImm32 dst data) s fun t =>
        UregWritten s t false dst (data ++ 0#8))
      ∧ (dst = .irptl → data.getLsbD 1 = true → exec (.uregImm32 dst data) s = .fault .irptlResetBit)

/-- What a register move reads from each universal register. The 40-bit bus image of every register, delivered to a
data register by Type 5: data registers whole; DAG1 registers in bits 39:8; DAG2 registers zero-extended, but M
sign-extended; the three pipeline addresses and the top of the PC stack zero-extended (decision D2 of the spec);
LADDR, bit 29 of which reads 0, and CURLCNTR all ones without a loop; PX1, PX2 and PX in their places; IMASK with bits
0 and 1 set; STKY with the flags of the stacks, PCFL from 29 entries on (decision D9, log 38). Where the instruction
stands inside a loop of one or two instructions some of these are free within the width of the register (assumption
log 12). An empty PC stack is refused. Which set a register is read from is MODE1's, as it is in effect: bit
10 for R0 to R7, bit 7 for R8 to R15, bits 4 and 3 for the lower and upper half of DAG1, bits 6 and 5 for those of DAG2,
0 the primary and 1 the alternate; bit 2 exchanges the two accumulators. -/
def Obligations.RegistersAsTheyAreRead : Prop :=
  ∀ (s : State) (n k : BitVec 4),
    (let bit : Nat → Bool := fun b => s.lat.mode1.getLsbD b;
      (∀ j : Fin 16, s.rreg (BitVec.ofFin j) =
        if bit (if j.val < 8 then 10 else 7) then s.data.alternate.get j else s.data.primary.get j)
      ∧ s.acc false = (if bit 2 then s.data.acc1 else s.data.acc0) ∧ s.acc true = (if bit 2 then s.data.acc0 else s.data.acc1)
      ∧ ∀ (j : Fin 8) (f : DagFile),
        let file : {w : Nat} → DagSet w → BitVec w := fun d =>
          (match f with | .i => d.i | .m => d.m | .l => d.l | .b => d.b).get j;
        s.dagReg f false (BitVec.ofFin j) =
            (if bit (if j.val < 4 then 4 else 3) then file s.dag.dag1Alt else file s.dag.dag1)
          ∧ s.dagReg f true (BitVec.ofFin j) =
            (if bit (if j.val < 4 then 6 else 5) then file s.dag.dag2Alt else file s.dag.dag2).setWidth 32) ∧
    let reads : Ureg → BitVec 40 → Prop := fun u v => Completes (.uregUregMove u 31 (.r k) .none) s fun t => t.rreg k = v
    let word : BitVec 32 → BitVec 40 := fun v => v ++ 0#8
    let addr : BitVec 24 → BitVec 40 := fun v => 0#8 ++ v ++ 0#8
    let g := n.getLsbD 3
    let j := n.extractLsb' 0 3;
    reads (.r n) (s.rreg n)
      ∧ reads (.i n) (word (s.dagReg .i g j)) ∧ reads (.l n) (word (s.dagReg .l g j)) ∧ reads (.b n) (word (s.dagReg .b g j))
      ∧ reads (.m n) (word (if g then ((s.dagReg .m g j).setWidth 24).signExtend 32 else s.dagReg .m g j))
      ∧ reads .pc (addr s.pipe.pc) ∧ reads .daddr (addr s.pipe.daddr) ∧ reads .faddr (addr s.pipe.faddr)
      ∧ reads .px (s.data.px.extractLsb' 8 40) ∧ reads .px1 (0#16 ++ s.data.px.extractLsb' 0 16 ++ 0#8)
      ∧ reads .px2 (word (s.data.px.extractLsb' 16 32))
      ∧ reads .ustat1 (word s.sys.ustat1) ∧ reads .ustat2 (word s.sys.ustat2) ∧ reads .irptl (word s.sys.irptl)
      ∧ reads .mode1 (word s.sys.mode1) ∧ reads .mode2 (word s.sys.mode2) ∧ reads .astat (word s.sys.astat)
      ∧ reads .imask (word (s.sys.imask ||| 3)) ∧ reads .imaskp (word s.lat.imaskp)
      ∧ (s.stk.pcstkp = 0 → exec (.uregUregMove .pcstk 31 (.r k) .none) s = .refused .emptyPcStack)
      ∧ (s.stk.pcstkp ≠ 0 → ∃ v, reads .pcstk v ∧ v &&& 0xFF000000FF = 0 ∧ (s.inShortLoop = false →
        v = addr (s.stk.pc.toList.getD (min s.stk.pcstkp.toNat 30 - 1) 0)))
      ∧ (∃ v1 v2 v3 v4 v5, reads .pcstkp v1 ∧ reads .laddr v2 ∧ reads .curlcntr v3 ∧ reads .lcntr v4 ∧ reads .stky v5 ∧
        v1 &&& 0xFFFFFFE0FF = 0 ∧ (s.inShortLoop = false →
          v1 = word (s.stk.pcstkp.setWidth 32)
            ∧ v2 = word (if s.stk.depth = 0 then 0xFFFFFFFF
              else s.stk.laddr.toList.getD (s.stk.depth.toNat - 1) 0 &&& 0xDFFFFFFF)
            ∧ v3 = word (if s.stk.depth = 0 then 0xFFFFFFFF else s.stk.count.toList.getD (s.stk.depth.toNat - 1) 0)
            ∧ (s.stk.depth ≠ 6 → v4 = word (s.stk.count.toList.getD s.stk.depth.toNat 0))
            ∧ ∃ y, v5 = word y ∧ ∀ b, b < 32 → y.getLsbD b =
              if b = 21 then decide (29 ≤ s.stk.pcstkp.toNat) else if b = 22 then decide (s.stk.pcstkp = 0)
              else if b = 24 then decide (s.stk.status = []) else if b = 26 then decide (s.stk.depth = 0)
              else s.sys.stky.getLsbD b))

/-- A write of a B register writes the I register of its number too; a write of I leaves B. Through an immediate load,
for both address generators and the set in effect: after a write of B both registers read the value, in the width of
the DAG; after a write of I only I does; reading them changes neither. -/
def Obligations.WritingBWritesI : Prop :=
  ∀ (s : State) (n k : BitVec 4) (v : BitVec 32),
    let g := n.getLsbD 3
    let j := n.extractLsb' 0 3
    let w : BitVec 32 := if g then v &&& 0x00FFFFFF else v;
    (Completes (.uregImm32 (.b n) v) s fun t => t.dagReg .b g j = w ∧ t.dagReg .i g j = w)
    ∧ (Completes (.uregImm32 (.i n) v) s fun t => t.dagReg .i g j = w ∧ t.dagReg .b g j = s.dagReg .b g j)
    ∧ ∀ u ∈ [Ureg.b n, Ureg.i n], Completes (.uregUregMove u 31 (.r k) .none) s fun t => t.dag = s.dag

/-- MODIFY, postmodify and BITREV update one index register; circular buffers keep it inside. Type 7 and both forms of
Type 19: only the named index register changes, with CB7S or CB15S and the request of CB7I or CB15I when the test of
register 7 or 15 holds; BITREV adds and reverses without them. A new index is the sum of index and modifier when L is
0; when the index lies in its buffer and the modifier is shorter than the buffer, it lies in the buffer too and
differs from the sum by nothing or by one length. That MODIFY wraps is a decision of the spec (D33); a nonzero BITREV
immediate with DAG2 uses its low 24 bits (U14). The address of a premodify access is the sum of index and modifier,
linear, in the width of the DAG, that of a postmodify access the index; of I0 with MODE1.BR0 (bit 1), and of I8 with
MODE1.BR8 (bit 0), as they are in effect, it leaves the DAG bit-reversed (R241, R242, R245). That a sum that leaves the register is reduced modulo 2^32
or 2^24 is the spec's own choice D32 (log 38). -/
def Obligations.IndexRegisterUpdates : Prop :=
  ∀ (s : State) (g : Bool) (k : BitVec 3),
    (let reversed := k = 0 ∧ s.lat.mode1.getLsbD (if g then 0 else 1) = true
      let leaves : BitVec 32 → BitVec 32 → Prop := fun a v => ∀ b, b < 32 → v.getLsbD b =
        if g then decide (b < 24) && a.getLsbD (if reversed then 23 - b else b)
        else a.getLsbD (if reversed then 31 - b else b);
      leaves (s.dagReg .i g k) (s.postAddr g k)
        ∧ ∀ m : BitVec 32, leaves (s.dagReg .i g k + m) (s.premodify g k m)) ∧
    (∀ (cond : BitVec 5) (m : BitVec 3) (c : Compute), s.cond cond = true → Completes (.modify g cond k m c) s fun t =>
      ∃ x, Computed c (s.noteCond cond) x ∧ Updated x t g k (s.dagReg .m g m))
    ∧ (∀ data : BitVec 32, (Completes (.modifyImm g k data) s fun t => Updated s t g k data)
      ∧ Completes (.bitrevImm g k data) s fun t => ∃ v, DagWritten s t [(.i, g, k, v)] ∧
        ∀ b, b < 32 → v.getLsbD b =
          if g then decide (b < 24) && (s.dagReg .i g k + data).getLsbD (23 - b) else (s.dagReg .i g k + data).getLsbD (31 - b))
    ∧ ∀ (i m b l : BitVec 32) (mv : Int), mv = (if g then (m.setWidth 24).toInt else m.toInt) →
      (l = 0 → wrap g i mv b l = if g then (i + m) &&& 0x00FFFFFF else i + m)
      ∧ (b.toNat ≤ i.toNat → i.toNat < b.toNat + l.toNat → |mv| < l.toNat →
          b.toNat + l.toNat ≤ (if g then 2 ^ 24 else 2 ^ 32) →
          b.toNat ≤ (wrap g i mv b l).toNat ∧ (wrap g i mv b l).toNat < b.toNat + l.toNat
            ∧ ((wrap g i mv b l).toNat : Int) ∈ [(i.toNat : Int) + mv, i.toNat + mv - l.toNat, i.toNat + mv + l.toNat])
      ∧ (wraps i mv b l = true ↔ (mv < 0 ∧ (i.toNat : Int) + mv < b.toNat)
          ∨ (0 ≤ mv ∧ (b.toNat : Int) + l.toNat ≤ i.toNat + mv))

/-- IOP registers hold what the core writes, in their width; read-only ones ignore writes. A Type 14 store of a data
register at the address of an IOP register changes nothing but the I/O processor, and a Type 14 load then brings the
value: WAIT, VIRPT, BMAX, SDRDIV, the eight MSGRx, the DMA index, count, chain pointer and general-purpose registers
of all ten channels (and the external ones of channels 8 and 9; of these two the index, modifier, count, chain pointer and external ones once
a write of their DMACx is in effect, 61_dma_extport.md R733), the timer registers of a timer that MODE2, as it is in
effect, disables, the serial divisors and select registers. Stores to SYSTAT, BCNT, DMASTAT, TCOUNTx leave everything as it was (decision D13). The
32 bits of BMAX and SDRDIV and the zeros above a stated width are decision D11 (log 38). That WAIT keeps what is written
to its reserved bits 28:25 and 31 is the model's choice, assumption log 60 (DESIGN CHOICE). -/
def Obligations.IopRegistersHoldWhatIsWritten : Prop :=
  ∀ (s : State) (n k : BitVec 4),
    let plain : List (BitVec 32 × BitVec 32) :=
      [0x02, 0x01, 0x18, 0x20, 0x08, 0x09, 0x0A, 0x0B, 0x0C, 0x0D, 0x0E, 0x0F,
        0xE4, 0xE6, 0xE8, 0xE9, 0xEA, 0xEB, 0xEC, 0xED,
        0xF4, 0xF6, 0xF8, 0xF9, 0xFA, 0xFB, 0xFC, 0xFD].map (·, 0xFFFFFFFF)
    let dma : List (BitVec 32 × BitVec 32) :=
      [0x30, 0x38, 0x50, 0x58, 0x60, 0x68, 0x70, 0x78].flatMap fun a =>
        [(a, 0x0001FFFF), (a + 2, 0x0000FFFF), (a + 3, 0x0003FFFF), (a + 4, 0x0001FFFF)]
    let external : BitVec 32 → ExtPort → List (BitVec 32 × BitVec 32) := fun a e =>
      (a + 4, 0x0001FFFF) ::
        if e.dmacNew = 0 ∧ e.dmacPrev = 0 ∧ e.dmacOld = 0 then
          [(a, 0x0001FFFF), (a + 1, 0x0000FFFF), (a + 2, 0x0000FFFF), (a + 3, 0x0003FFFF), (a + 5, 0xFFFFFFFF),
            (a + 6, 0xFFFFFFFF), (a + 7, 0xFFFFFFFF)]
        else []
    let timers : List (BitVec 32 × BitVec 32) :=
      (if s.lat.mode2.getLsbD 5 then [] else [0x28, 0x29].map (·, 0xFFFFFFFF))
        ++ if s.lat.mode2.getLsbD 11 then [] else [0x2B, 0x2C].map (·, 0xFFFFFFFF);
    (∀ p ∈ plain ++ dma ++ external 0x40 s.iop.ep0 ++ external 0x48 s.iop.ep1 ++ timers, ∀ g : Bool, ∃ t u, exec (.uregMemDirect g true (.r n) p.1) s = .next t
      ∧ t = { s with iop := t.iop } ∧ exec (.uregMemDirect g false (.r k) p.1) t = .next u
      ∧ u.rreg k = (s.rfix n &&& p.2) ++ 0#8)
    ∧ ∀ a ∈ [(0x03 : BitVec 32), 0x19, 0x37, 0x2A, 0x2D], ∀ g : Bool,
      exec (.uregMemDirect g true (.r n) a) s = .next s

/-- A taken jump or call redirects the fetch; calls push their return address, (LA) and (CI) act on jumps. Types 8 and
9 with a true condition. A jump takes the address, or PC plus the signed offset, or I + M of DAG2; with (LA) it pops
the loop and PC stacks once, with (CI) it ends the interrupt in service. A call pushes DADDR, or the address after
FADDR when delayed, and ignores (LA) and (CI). Without ELSE the compute operation of Type 9 is done too, before a
status pop of (CI) (assumption log 22). Nothing else changes. A (LA) without a loop is refused. That (CI) with IMASKP
= 0 changes nothing is decision D40 of the spec, that the push to 29 entries requests SOVFI is D9, that a PC-relative
target wraps is D4 (log 38); that an ASTAT popped by (CI) counts as an explicit write is assumption log 14 (DEDUCED). -/
def Obligations.JumpsAndCalls : Prop :=
  ∀ (s : State) (cond : BitVec 5) (a j ci : Bool), s.cond cond = true →
    let u := s.noteCond cond
    let beside : Bool → Compute → State → Prop := fun e c v => if e then v = u else Computed c u v
    let jump : Instr → Bool → Compute → BitVec 24 → Prop := fun i e c target =>
      ((a = true → s.looping = true ∧ s.pcEmpty = false) → (ci = true → s.canEnd) →
        Completes i s fun t => ∃ v, beside e c v ∧ JumpTaken v t a ci j target)
      ∧ (a = true → s.looping = false → exec i s = .refused .emptyLoopStack)
    let call : Instr → Bool → Compute → BitVec 24 → Prop := fun i e c target =>
      Completes i s fun t => ∃ v, beside e c v ∧ CallTaken v t j target;
    (∀ target, jump (.jumpDirect a cond j ci target) true .none target
        ∧ call (.callDirect a cond j ci target) true .none target)
    ∧ (∀ rel, jump (.jumpPcrel a cond j ci rel) true .none (s.pipe.pc + rel)
        ∧ call (.callPcrel a cond j ci rel) true .none (s.pipe.pc + rel))
    ∧ ∀ (e : Bool) (c : Compute),
      (∀ pmi pmm, let target := (s.premodify true pmi (s.dagReg .m true pmm)).setWidth 24;
        jump (.jumpIndirect a cond pmi pmm j e ci c) e c target
          ∧ call (.callIndirect a cond pmi pmm j e ci c) e c target)
      ∧ ∀ rel, jump (.jumpPcrel6 a cond rel j e ci c) e c (s.pipe.pc + rel.signExtend 24)
          ∧ call (.callPcrel6 a cond rel j e ci c) e c (s.pipe.pc + rel.signExtend 24)

/-- Type 10 jumps when its condition holds, and otherwise computes and moves data. Both forms. With a true condition a
nondelayed branch is taken and nothing else happens, but for the note that the processor requests the bus where the
transfer would have been external (61_dma_extport.md R753); with a false one there is no branch, and the compute
operation is done beside a postmodify transfer on the DM bus, as for Type 3. That the PC-relative target wraps is decision
D4 of the spec, the forms stored as a short word and in 40 bits are D18 and D19 (log 38); what a store keeps where no
memory is, or in SDRAM before power-up, is nothing (assumption log 15). -/
def Obligations.ElseMove : Prop :=
  ∀ (s : State) (d : Bool) (dmi dmm pmi pmm : BitVec 3) (rel : BitVec 6) (cond : BitVec 5) (r : BitVec 4) (c : Compute),
    MemInv s →
    let u := s.noteCond cond
    let p := place s.env.id (s.postAddr false dmi)
    let mv := s.dagReg .m false dmm;
    ∀ e ∈ [(Instr.jumpIndirectElseMove d dmi dmm cond pmi pmm r c,
        (s.premodify true pmi (s.dagReg .m true pmm)).setWidth 24),
      (Instr.jumpPcrel6ElseMove d dmi dmm cond rel r c, s.pipe.pc + rel.signExtend 24)],
      (s.cond cond = true → Completes e.1 s fun t => ∃ x, BranchTaken u x false e.2
        ∧ t = match p with
          | .ext _ | .remote => { x with iop.hid.busWait := true }
          | _ => x)
      ∧ (s.cond cond = false → d = true → StoreOk u false false p (s.rreg r ++ 0#8) → Completes e.1 s fun t =>
          StoreDone u t false false p (s.rreg r ++ 0#8) (Computed c) true dmi mv)
      ∧ (s.cond cond = false → d = false → LoadOk u (.r r) p → Completes e.1 s fun t =>
          LoadDone u t false (.r r) p (Computed c) true dmi mv)

/-- RTS and RTI pop their target; RTI ends the interrupt in service and both keep loops in step. With a true condition
the top of the PC stack is popped and is the target. RTS (LR) sets the loop re-entry flag when the target is one of
the last two instructions of the current loop. RTI clears the latch and mask pointer bits of the interrupt in service,
pops ASTAT and MODE1 if its entry pushed them, and sets the flag as RTS (LR) does (decision D38). Without ELSE the
compute operation is done first (assumption log 22). An empty PC stack is refused. That RTI with IMASKP = 0 clears and
pops nothing is decision D40 of the spec (log 38); that a popped ASTAT counts as an explicit write is assumption log
14 (DEDUCED). -/
def Obligations.Returns : Prop :=
  ∀ (s : State) (cond : BitVec 5) (j e lr : Bool) (c : Compute), s.cond cond = true →
    let u := s.noteCond cond
    let popped : State → State → Prop := fun v x =>
      (if e then v = u else Computed c u v) ∧ x = { v with stk.pcstkp := v.stk.pcstkp - 1 };
    (s.pcEmpty = true → exec (.rts cond j e lr c) s = .refused .emptyPcStack
      ∧ exec (.rti cond j e c) s = .refused .emptyPcStack)
    ∧ (s.pcEmpty = false → Completes (.rts cond j e lr c) s fun t =>
        ∃ v x y, popped v x ∧ (if lr then ReentrySet x y s.pcTop else y = x) ∧ BranchTaken y t j s.pcTop)
    ∧ (s.pcEmpty = false → s.canEnd → Completes (.rti cond j e c) s fun t =>
        ∃ v x y z, popped v x ∧ ServiceOver x y ∧ ReentrySet y z s.pcTop ∧ BranchTaken z t j s.pcTop)

/-- DO UNTIL pushes the end, the termination code, the count and the top of the loop. Types 12 and 13, outside delay
slots and with an end after the instruction, which is not that of the loop it stands in: the loop address stack gets the end address with the code and the type
(by the length for a counter loop, else 00), the counter stack the count (the immediate, the register, or LCNTR), the
PC stack the address of the next instruction; on full loop stacks only LSOV and SOVFI happen beside the push on the PC
stack. In a delay slot, with an end not after it, or with the end of the loop it stands in, it is refused (R400, U18). That the push to 29 entries requests SOVFI
is decision D9 of the spec (log 38). -/
def Obligations.LoopsStart : Prop :=
  ∀ (s : State) (len : BitVec 24),
    let kind : BitVec 2 := if len = 1 then 1 else if len = 2 then 2 else 3
    let e := s.pipe.pc + len
    let starts : Instr → BitVec 5 → BitVec 2 → BitVec 32 → Prop := fun i code type count =>
      (s.pipe.slots = 0 → 0 < len.toInt → (s.looping = true → s.loopEnd ≠ e) → Completes i s fun t =>
        ∃ x y, LoopPushed s x (type ++ 0#1 ++ code ++ e) count (some (s.pipe.pc + 1)) ∧ PcPushed x y (s.pipe.pc + 1)
          ∧ t = if s.stk.depth.toNat < 6 then { y with tr.loopStarted := some (e, type) } else y)
      ∧ (s.pipe.slots ≠ 0 → exec i s = .refused .delaySlot)
      ∧ (s.pipe.slots = 0 → (len.toInt ≤ 0 ∨ s.looping = true ∧ s.loopEnd = e) → exec i s = .refused .loopEnd);
    (∀ data, starts (.lcntrImmDo data len) 15 kind (data.setWidth 32))
    ∧ (∀ u v, s.uregRead u = .ok v → starts (.lcntrUregDo u len) 15 kind (v.extractLsb' 8 32))
    ∧ ∀ term, starts (.doUntil term len) term (if term = 15 then kind else 0)
        (s.stk.count.toList.getD s.stk.depth.toNat 0)

/-- The sequencer fetches the target of a branch, the top or the exit of a loop, or the next word. The pipeline
advances by one; the two instructions behind a nondelayed branch are killed, those behind a delayed one are not.
Without a branch or an interrupt, and outside counter loops of one or two instructions: when the end of the loop is at
FADDR the loop is tested on the state before the instruction: with the re-entry flag it goes to the top without a
test; if the termination condition is false it goes to the top and a counter loop counts down by one; if true the loop
and PC stacks are popped once and the word after the end is fetched; elsewhere the next word is. A loop of one
instruction that is not counted is tested in a step that executes it (R397, D39); any other step goes to its top. Where the
instruction has written CURLCNTR in the step of the test, the new count is free (assumption log 76, DESIGN CHOICE). With an
empty PC stack the end of a loop is refused (assumption log 53, DESIGN CHOICE; U11). A branch of any form
(JUMP, CALL, RTS, RTI, Type 10, CJUMP), taken or not, as one of the last three instructions of a loop is refused, but for a
CALL that is not delayed; that one is refused there in a loop of one instruction, and in one of two instructions and one
iteration (R393, R400, R921, U18). An instruction before the top of a loop is none of its last three; the loop tested is the one on the stacks (log 53). A
branch, but for such a CALL, among the last two instructions of the last pass is refused in the step that ends the loop,
whose words at DADDR and FADDR are looked at; that is the model's choice (log 53, DESIGN CHOICE). Outside loops the
sequencer refuses nothing: that a branch in a delay slot takes effect by R381, and uses of the PC stack there by their own
rules, where R384 lets a model run or refuse them and R921, R925 and U18 have them refused, is the model's choice too (log
24, DESIGN CHOICE). That the count is left alone at the terminating test is decision D37 of the spec, the wrap of the
sequential address D4 (log 38). -/
def Obligations.NextFetchAddress : Prop :=
  ∀ (s u : State) (f : Fetched), u.pipe.mode = .running → u.tr.loopStarted = none →
    let t := s.sequence u f
    let moved : BitVec 24 → Bool → Prop := fun nf kill =>
      t.pipe.pc = s.pipe.daddr ∧ t.pipe.daddr = s.pipe.faddr ∧ t.pipe.faddr = nf
        ∧ t.pipe.killP = (s.pipe.killD || kill) ∧ t.pipe.killD = kill;
    let between := s.loopType = 0 ∧ s.pcTop = s.loopEnd ∧ ¬(s.pipe.killP = false ∧ s.pipe.pc = s.loopEnd);
    let badEnd : Instr → Prop := fun i => ∃ delayed call,
      BranchForm i delayed call ∧ (call = true → delayed = true)
    let noCall := s.loopType = 1 ∨ s.loopStart = some s.loopEnd
      ∨ s.loopType = 2 ∧ s.stk.initial.toList.getD (s.stk.depth.toNat - 1) 0 = 1;
    (u.tr.stall = false →
      (s.shortLoop = false → s.pipe.mode = .running → s.looping = true → s.pipe.faddr = s.loopEnd → s.pcEmpty = true →
        ∀ i, s.conclude i u f = .refused .emptyPcStack)
      ∧ ((s.looping = false ∨ s.pcEmpty = false ∧ u.pcEmpty = false ∧ u.looping = true) →
        (s.looping = false → ∀ i, s.conclude i u f = finish s (s.fullStep i u f))
        ∧ (s.looping = true →
          (∀ b, s.loopStart = some b → (s.loopEnd - s.pipe.pc).toNat ≤ (s.loopEnd - b).toNat) →
          (s.pipe.pc = s.loopEnd ∨ s.pipe.pc = s.loopEnd - 1 ∧ s.loopType ≠ 1
            ∨ s.pipe.pc = s.loopEnd - 2 ∧ s.shortLoop = false) →
          ∀ i, (badEnd i ∨ noCall ∧ ∃ delayed call, BranchForm i delayed call) →
            s.conclude (some i) u f = .refused .loopBranch)
        ∧ (s.looping = true → s.shortLoop = false → s.pipe.mode = .running →
          s.pipe.faddr = s.loopEnd → s.pipe.lrf = false → ¬between → s.term (s.laddr.extractLsb' 24 5) = true →
          ((∃ i, badEnd i ∧ decode f.word = .ok i)
            ∨ s.pipe.killD = false ∧ s.pipe.daddr = s.loopEnd - 1
              ∧ ∃ i d, badEnd i ∧ u.pipe.irD = some d ∧ decode d.word = .ok i) →
          ∀ i, s.conclude i u f = .refused .loopBranch)))
    ∧ (∀ a, u.tr.branch = .nondelayed a → moved a true)
    ∧ (∀ a, u.tr.branch = .delayed a → moved a false ∧ t.pipe.slots = 2)
    ∧ (u.tr.branch = .none → (s.selected = none ∨ s.pipe.holdoff ≠ 0) → s.shortLoop = false → s.pipe.mode = .running →
      ((s.looping = false ∨ s.pipe.faddr ≠ s.loopEnd) → u.shortLoop = false →
        moved (s.pipe.faddr + 1) false ∧ t.stk = u.stk)
      ∧ (s.looping = true → s.pipe.faddr = s.loopEnd →
        (s.pipe.lrf = true → u.shortLoop = false → moved s.pcTop false ∧ t.stk = u.stk)
        ∧ (s.pipe.lrf = false → s.term (s.laddr.extractLsb' 24 5) = false → u.stk = s.stk →
          moved s.pcTop false ∧ t.stk = { s.stk with count := t.stk.count }
            ∧ ∃ v, SixthWritten s.stk.count t.stk.count (s.stk.depth.toNat - 1) v
              ∧ (s.loopType = 0 → v = s.curlcntr)
              ∧ (s.loopType ≠ 0 → u.tr.countWritten = false → v = s.curlcntr - 1))
        ∧ (between → u.shortLoop = false → moved s.pcTop false ∧ t.stk = u.stk)
        ∧ (s.pipe.lrf = false → ¬between → s.term (s.laddr.extractLsb' 24 5) = true → u.stk = s.stk →
          { s with stk.depth := s.stk.depth - 1 }.shortLoop = false →
          moved (s.loopEnd + 1) false ∧ t.stk = { s.stk with
            depth := s.stk.depth - 1, pcstkp := if s.stk.pcstkp = 0 then 0 else s.stk.pcstkp - 1 })))

/-- The interrupt selected is the lowest-numbered one that is latched, unmasked and not held by nesting. Outside
IDLE16 and a boot: interrupt k is selected exactly when IRPTEN = 1, k is the least number of 2 or more with its bits
of IRPTL and IMASK set, no interrupt is in service or NESTM = 1 and those in service all have higher numbers. That a
reserved bit of IRPTL is selected like any other is decision D46 of the spec (log 38). -/
def Obligations.InterruptSelection : Prop :=
  ∀ (s : State) (k : Nat), s.pipe.mode ≠ .idle16 → s.iop.hid.booting = false →
    let ready : Nat → Prop := fun n =>
      2 ≤ n ∧ n < 32 ∧ s.sys.irptl.getLsbD n = true ∧ s.sys.imask.getLsbD n = true
        ∧ (s.sys.imaskp = 0 ∨ s.sys.mode1.getLsbD 11 = true ∧ ∀ j, j ≤ n → s.sys.imaskp.getLsbD j = false);
    s.selected = some k ↔ s.sys.mode1.getLsbD 12 = true ∧ ready k ∧ ∀ n, n < k → ¬ ready n

/-- Taking an interrupt saves DADDR and, for five of them, ASTAT and MODE1, and goes to the vector. A step that
selects interrupt k and is not held off takes it after its instruction: DADDR goes on the PC stack; ASTAT and MODE1 on
the status stack for TMZHI, VIRPTI and IRQ2-0 (bits 4 to 8); the latch bit is cleared and the mask pointer bit set;
the two instructions behind are killed, the fetch goes to the vector: VIRPT for VIRPTI, else the vector table's base
plus 4k, both as they were before the instruction; the core is not idle; nothing else changes. In a branch, and in the
step after it and the two after an entry, none is taken: this exact hold-off is decision D43 of the spec and
assumption log 40 (DEDUCED); nor in the third-to-last pass of a loop of one instruction, the one with a count of 3 or the
one whose test is true (R677 item 3). That the push to 29 entries requests SOVFI is D9 (log 38). -/
def Obligations.InterruptEntry : Prop :=
  (∀ (u : State) (k : Nat) (v : BitVec 24), k < 32 →
    let t := u.takeInterrupt k v;
    (∃ x y, PcPushed u x u.pipe.daddr ∧ (if 4 ≤ k ∧ k ≤ 8 then StatusPushed x y else y = x)
      ∧ t = { y with
          sys.irptl := t.sys.irptl, sys.imaskp := t.sys.imaskp
          pipe := { u.pipe with
            pc := u.pipe.daddr, daddr := u.pipe.faddr
            faddr := v
            killP := true, killD := true, irP := none, irD := none, mode := .running, slots := 0, holdoff := 2 }
          iop.hid.booting := false, iop.hid.bootRom := false })
    ∧ ∀ j, j < 32 → t.sys.irptl.getLsbD j = (u.sys.irptl.getLsbD j && decide (j ≠ k))
        ∧ t.sys.imaskp.getLsbD j = (u.sys.imaskp.getLsbD j || decide (j = k)))
  ∧ ∀ (s u : State) (f : Fetched),
    let alone := s.looping = true ∧ s.pcTop = s.loopEnd ∧ s.pipe.mode = .running ∧ s.pipe.killP = false
      ∧ s.pipe.pc = s.loopEnd;
    (∀ k, s.selected = some k → s.pipe.holdoff = 0 → u.tr.branch = .none → u.tr.loopStarted = none →
      s.shortLoop = false → ¬(alone ∧ s.loopType = 0) →
      let base : BitVec 24 := if s.env.bootMode = .noboot ∧ s.syscon.getLsbD 2 = false then 0x020000 else 0x008000
      s.sequence u f = (u.loopCount s s.loopStep).takeInterrupt k
        (if k = 5 then s.iop.sys.virpt.setWidth 24 else base + BitVec.ofNat 24 (4 * k)))
    ∧ ((s.pipe.holdoff ≠ 0 ∨ u.tr.branch ≠ .none
        ∨ alone ∧ u.tr.loopStarted = none ∧ s.loopType = 1 ∧ s.curlcntr = 3
        ∨ alone ∧ u.tr.loopStarted = none ∧ s.loopType = 0 ∧ s.pipe.faddr = s.loopEnd ∧ s.pipe.lrf = false
          ∧ s.term (s.laddr.extractLsb' 24 5) = true) →
        (s.sequence u f).sys = u.sys ∧ (s.sequence u f).stk.status = u.stk.status)
    ∧ (u.pipe.mode = .running → u.tr.branch ≠ .none → (s.sequence u f).pipe.holdoff = 1)

/-- At the end of a step requests set latch bits, and the bits of interrupts in service are cleared. Bit k of IRPTL is
then set exactly when it was set or requested, or its level request stands, and the mask pointer, as it stood when the
step began, does not hold k: R654, with the state that R720 has every part of a step read. The
level requests are, in a step in which the core does its part, the sticky arithmetic flags at the start of the step (AOS
or MOS; AVS or MVS; AUS or MUS; AIS or MIS), and in every step, one in which the core waits too, the buffers of the serial and external ports; that the serial port requests are levels is decision D55 of the
spec (log 38). Nothing else but DMASTAT, which shows the channels one step late, changes. -/
def Obligations.InterruptLatch : Prop :=
  ∀ (u s : State) (core : Bool),
    let st : Nat → Bool := fun k => s.sys.stky.getLsbD k
    let level : Nat → Bool := fun k =>
      if k = 24 then core && (st 2 || st 6) else if k = 25 then core && (st 1 || st 7)
      else if k = 26 then core && (st 0 || st 8) else if k = 27 then core && (st 5 || st 9)
      else if k = 10 then s.iop.sport0.rxRequest else if k = 11 then s.iop.sport1.rxRequest
      else if k = 12 then s.iop.sport0.txRequest else if k = 13 then s.iop.sport1.txRequest
      else if k = 16 then s.iop.ep0.levelRequest else if k = 17 then s.iop.ep1.levelRequest else false
    let t := u.latch s core;
    t = { u with sys.irptl := t.sys.irptl, iop.sys.dmastat := s.dmaStatus }
    ∧ ∀ k, k < 32 → t.sys.irptl.getLsbD k =
      ((u.sys.irptl.getLsbD k || u.tr.requests.getLsbD k || level k)
        && !s.sys.imaskp.getLsbD k)

/-- An explicit write of MODE1, MODE2, ASTAT, IMASKP or PCSTKP takes effect one step later; a waiting step makes nothing
take effect. For every step that answers a next state: MODE1 and MODE2 in effect afterwards are as they were when it began,
ASTAT and IMASKP either so or as they are now; or the step waited, and data registers, address generators, stacks,
pipeline, cache and the values in effect are as they were, but for SYSCON, which the outside may write, and the note of
the bus master by which an instruction that waits was conditioned: an IF BM goes by the master there was when its
condition was evaluated first (R286, R777); or the chip was reset, and ASTAT shows the flag pins. Which
of the two holds for ASTAT and IMASKP is said of the end of the step, after an instruction that led to u: as they were
before the step when u notes an explicit write (UregWritten and StatusPopped set the note, ComputeFrame keeps it), and as
they are now when it does not, where a computation, or the entry or end of an interrupt, changed them. A value that the
instruction has written to PCSTKP is kept to the end of the next step of the core, at which it becomes the pointer (R24,
R38), also where that step has pushed or popped the stack: which change stays is the model's choice (assumption log 50,
DESIGN CHOICE). That a popped ASTAT counts as an
explicit write and BTF as a flag is assumption log 14 (DEDUCED), the waiting step log 13 (DESIGN CHOICE), what a reset
keeps log 28 (DEDUCED). -/
def Obligations.ModesTakeEffectOneStepLater : Prop :=
  (∀ s t : State, step s = .next t →
    (t.lat.mode1 = s.sys.mode1 ∧ t.lat.mode2 = s.sys.mode2
      ∧ (t.lat.imaskp = s.sys.imaskp ∨ t.lat.imaskp = t.sys.imaskp)
      ∧ (t.lat.astat = s.sys.astat ∨ t.lat.astat = t.sys.astat)
      ∧ ∀ v, s.lat.pcstkp = some v → t.stk.pcstkp = v)
    ∨ (t.lat = { s.lat with syscon := t.lat.syscon, master := t.lat.master } ∧ t.data = s.data ∧ t.dag = s.dag ∧ t.stk = s.stk
      ∧ t.pipe = s.pipe ∧ t.cache = s.cache)
    ∨ (t.lat = { (State.resetWith s.env.bootMode s.env.id).lat with astat := t.sys.astat }
      ∧ t.sys.astat = (t.env.flags.extractLsb' 0 4).setWidth 32 <<< 19))
  ∧ ∀ (s u t : State) (i : Option Instr) (f : Fetched), s.conclude i u f = .next t →
    (if u.tr.stall then t.lat.master = some (s.lat.master.getD s.busMaster)
      else t.lat.mode1 = s.sys.mode1 ∧ t.lat.mode2 = s.sys.mode2 ∧ t.lat.master = none
      ∧ t.lat.pcstkp = u.tr.pcstkp ∧ (∀ v, s.lat.pcstkp = some v → t.stk.pcstkp = v)
      ∧ t.lat.imaskp = (if u.tr.imaskpWritten then s.sys.imaskp else t.sys.imaskp)
      ∧ t.lat.astat = (if u.tr.astatWritten then s.sys.astat else t.sys.astat))
    ∨ (t.lat = { (State.resetWith u.env.bootMode u.env.id).lat with astat := t.sys.astat }
      ∧ t.sys.astat = (t.env.flags.extractLsb' 0 4).setWidth 32 <<< 19)

/-- An access waits for the external bus, or for a buffer that is full or empty, with none of its effect. A Type 14
transfer to external memory or the other processor while the bus or ACK is not there, and, with BHD = 0, a store to
EPBx, TX or RX when the buffer is full and a load when it is empty: the instruction changes nothing and what it waits
for is noted, so that it is tried again (assumption log 13, DESIGN CHOICE). While the core's access is in progress, waiting
for ACK or aborted by SBTS, HBR gets the bus only under SBTS, which suspends an access of external memory and is refused
for one of the other processor's space (R777, U30). EPBx is not in use by DMA. Refused is an access of EPBx while a write of
DMACx.DEN, or a flush by DMACx.FLSH, is not in effect for certain (61_dma_extport.md R733, U39; assumption log 25). -/
def Obligations.AccessesThatWait : Prop :=
  ∀ (s : State) (g d : Bool) (n : BitVec 4) (a : BitVec 32),
    let i : Bool → BitVec 32 → Instr := fun d a => .uregMemDirect g d (.r n) a
    let sportAddr : Bool → Bool → Bool → BitVec 32 := fun x rx z =>
      (if x then 0xF2 else 0xE2) + (if z then 12 else 0) + if rx then 1 else 0;
    let p := place s.env.id (if g then a &&& 0x00FFFFFF else a)
    let waiting := { s with tr.stall := true, iop.hid.coreWait := Wait.buffer };
    (s.completes false p = false → (∀ r, p ≠ .iop r) →
      exec (i d a) s = .next { s with
        tr.stall := true, iop.hid.coreWait := s.extWait (decide (p = .remote)) false, iop.hid.busWait := true })
    ∧ (s.pipe.mode ≠ .idle16 → s.env.id ≠ 0 → s.busMaster = true → s.busLock = false → s.dmaInBus = false →
      ∀ remote, (s.iop.hid.coreWait = .ack remote ∨ s.iop.hid.coreWait = .cut remote) →
        s.event (.hostBus true) =
          if s.env.sbts = false then .ok none
          else if remote then .error (.refuse .sbtsTransfer) else .ok (some { s with iop.sys.hstm := true }))
    ∧ (s.bhd = false →
      (∀ x : Bool, (s.iop.ep x).den = false → (s.chan (if x then 9 else 8)).run = false →
        let at_ : BitVec 32 := if x then 5 else 4;
        let unsure := (s.iop.ep x).unsure 0 || (s.iop.ep x).unsure 13;
        (unsure = true → exec (i d at_) s = .refused .dmacLatency)
        ∧ (unsure = false → (s.iop.ep x).fifo = [] → exec (i false at_) s = .next waiting)
        ∧ (unsure = false → 6 ≤ (s.iop.ep x).fifo.length → exec (i true at_) s = .next waiting))
      ∧ ∀ x rx z : Bool,
        let q := if rx then ((s.iop.sport x).rx z).queue else ((s.iop.sport x).tx z).queue;
        (q = [] → exec (i false (sportAddr x rx z)) s = .next waiting)
        ∧ (2 ≤ q.length → exec (i true (sportAddr x rx z)) s = .next waiting))

/-- BIT SET, CLR and TGL write the combined value; TST and XOR write only the bit test flag. For each of the nine
system registers: the value read combined with the mask is written as UregWrite writes the register, so read-only bits
stay; setting bit 1 of IRPTL is the fault irptlResetBit (U13). TST sets BTF when all masked bits are set, XOR when the
register equals the value, and both clear it otherwise; no other bit and no other register changes. That all six stack
flags of STKY are read-only is decision D5 of the spec (log 38); that BTF so changed is visible at once, like a flag of a
computation, is assumption log 14 (DEDUCED). -/
def Obligations.BitOperations : Prop :=
  ∀ (s : State) (r : Sreg) (data : BitVec 32),
    let v := s.sregRead r
    let writes : Instr → BitVec 32 → Prop := fun i w =>
      (s.settable false r.ureg w = true → Completes i s fun t => UregWritten s t false r.ureg (w ++ 0#8))
      ∧ (r = .irptl → w.getLsbD 1 = true → exec i s = .fault .irptlResetBit)
    let tests : Instr → Bool → Prop := fun i b => Completes i s fun t =>
      t = { s with sys.astat := t.sys.astat }
        ∧ ∀ j, j < 32 → t.sys.astat.getLsbD j = if j = 18 then b else s.sys.astat.getLsbD j;
    writes (.bitSet r data) (v ||| data) ∧ writes (.bitClr r data) (v &&& ~~~data) ∧ writes (.bitTgl r data) (v ^^^ data)
      ∧ tests (.bitTst r data) (decide (v &&& data = data)) ∧ tests (.bitXor r data) (decide (v = data))

/-- A Type 20 word does each of its stack operations, and flushing the cache makes every entry invalid. All seven
instructions (stackInstr gives pushLoop, popLoop, pushSts, popSts, pushPcstk, popPcstk, flushCache). PUSH LOOP pushes
LCNTR's value with an entry of any value (U19), POP LOOP removes both tops; PUSH STS and POP STS save and restore
ASTAT and MODE1; PUSH PCSTK pushes the address of the next instruction, POP PCSTK removes the top. Nothing else
changes. A push with a pop of one stack (U18), and a pop of an empty stack (U11), are refused. That the push to 29
entries requests SOVFI is decision D9 of the spec (log 38); that a popped ASTAT counts as an explicit write is
assumption log 14 (DEDUCED). -/
def Obligations.StackOperations : Prop :=
  ∀ (s : State) (lpu lpo spu spo ppu ppo fc : Bool),
    let i := stackInstr lpu lpo spu spo ppu ppo fc
    let both := (lpu && lpo) || (spu && spo) || (ppu && ppo);
    (both = true → exec i s = .refused .pushPop)
    ∧ (both = false →
      (lpo = true → s.looping = false → exec i s = .refused .emptyLoopStack)
      ∧ ((lpo = true → s.looping = true) →
        (spo = true → s.stk.status = [] → exec i s = .refused .emptyStatusStack)
        ∧ ((spo = true → s.stk.status ≠ []) →
          (ppo = true → s.pcEmpty = true → exec i s = .refused .emptyPcStack)
          ∧ ((ppo = true → s.pcEmpty = false) → Completes i s fun t => ∃ x y z entry,
            (if lpu then LoopPushed s x entry (s.stk.count.toList.getD s.stk.depth.toNat 0) none
              else if lpo then x = { s with stk.depth := s.stk.depth - 1 } else x = s)
            ∧ (if spu then StatusPushed x y else if spo then StatusPopped x y else y = x)
            ∧ (if ppu then PcPushed y z (s.pipe.pc + 1)
              else if ppo then z = { y with stk.pcstkp := y.stk.pcstkp - 1 } else z = y)
            ∧ if fc then t = { z with cache := t.cache }
                ∧ ∀ k : Fin 16, (t.cache.get k).first.valid = false ∧ (t.cache.get k).second.valid = false
              else t = z))))

/-- NOP does nothing, IDLE and IDLE16 stop the core, CJUMP and RFRAME move the frame registers. IDLE and IDLE16 change
only the mode of the core, and are refused in a delay slot (U18). CJUMP puts I6 in R2 and I7 in I6 and takes a delayed
branch; RFRAME puts I6 in I7 and loads I6 from DM at I6. What CJUMP and RFRAME do is the family's (the spec marks it
as general knowledge). -/
def Obligations.NopIdleAndFrames : Prop :=
  ∀ s : State,
    exec .nop s = .next s
    ∧ (∀ e ∈ [(Instr.idle, CoreMode.idle), (Instr.idle16, CoreMode.idle16)],
      (s.pipe.slots = 0 → exec e.1 s = .next { s with pipe.mode := e.2 })
      ∧ (s.pipe.slots ≠ 0 → exec e.1 s = .refused .delaySlot))
    ∧ (∀ (a rel : BitVec 24), ∀ e ∈ [(Instr.cjumpDirect a, a), (Instr.cjumpPcrel rel, s.pipe.pc + rel)],
      Completes e.1 s fun t => ∃ x y, UregWritten s x false (.r 2) (s.dagReg .i false 6 ++ 0#8)
        ∧ UregWritten x y false (.i 6) (s.dagReg .i false 7 ++ 0#8) ∧ BranchTaken y t true e.2)
    ∧ (let p := place s.env.id (s.dagReg .i false 6);
      LoadOk s (.i 6) p → Completes .rframe s fun t => ∃ w x y, Loaded s x false (.i 6) p w ∧ LoadWritten x y (.i 6) w
        ∧ UregWritten y t false (.i 7) (s.dagReg .i false 6 ++ 0#8))

/-- A tick of a PWMOUT timer counts from 1 to the period and requests its interrupt there. In PWMOUT mode, enabled and
running with a count not above the period: at the period the count is 1 again, the pin low, the timer's expired bit of
STKY set and its interrupt (TMZHI or TMZLI) requested; before, the count goes up by one and the pin goes high when the
count equals the width. A timer not enabled does not tick. The other timer is as it was. -/
def Obligations.TimerPulses : Prop :=
  ∀ (s : State) (x : Bool),
    let m := s.lat.mode2
    let t := s.iop.timer x
    let expired : BitVec 32 := if x then 0x8000 else 0x2000
    let irq : BitVec 32 := if m.getLsbD (if x then 13 else 8) then 0x10 else 0x800000;
    (m.getLsbD (if x then 11 else 5) = false → t.enabled = false → s.tick x = .ok s)
    ∧ (m.getLsbD (if x then 11 else 5) = true → m.getLsbD (if x then 12 else 7) = true → t.enabled = true →
      t.count ≤ t.period → ∃ u, s.tick x = .ok u ∧ u.iop.timer (!x) = s.iop.timer (!x)
        ∧ if t.count = t.period then
            u = { s with
              iop := u.iop, sys.stky := s.sys.stky ||| expired, tr.requests := s.tr.requests ||| irq }
              ∧ u.iop.timer x = { t with count := 1, pwm := false }
          else
            u = { s with iop := u.iop }
              ∧ u.iop.timer x = { t with count := t.count + 1, pwm := t.pwm || decide (t.count = t.width) })

/-- A serial receive DMA transfer stores the oldest word, advances the index and counts down. Channels 0 to 3 with the
index at a 32-bit word of internal memory: the word stands there, every other byte is as it was; the index goes on by
the signed modifier, from beyond the end of a block to its start; the count is one less; at the end of the count the sequence is
over and, without chaining, the channel's interrupt is requested. The other channels do not change. The address is the
index itself, decision D16 of the spec (assumption log 30, DEDUCED); with the parameter dmaOffset it is 0x8000 above
the index, as R736, R737 and R820 write it. -/
def Obligations.SerialReceiveDma : Prop :=
  ∀ (s : State) (c : Fin 10) (b : Bool) (off : Nat), MemInv s → c.val < 4 →
    let d := s.chan c
    let p := Place.normal b off
    let offset : BitVec 17 := if s.env.dmaOffset then 0x8000 else 0
    let addr : BitVec 17 → BitVec 32 := fun v => v.setWidth 32 + if s.env.dmaOffset then 0x8000 else 0
    let q := ((s.iop.sport (c.val / 2 % 2 == 1)).rx (c.val % 2 == 1)).queue
    let at_ := (addr d.ii).toNat
    let next : Int := at_ + d.im.toInt;
    place 0 (addr d.ii) = p → s.imdw b = false → ∃ t, s.dmaXfer c = .ok t
      ∧ t = { s with mem := t.mem, shadow := t.shadow, iop := t.iop, tr.requests := t.tr.requests }
      ∧ t.wordAt false p = (q.headD ⟨0, 0⟩).word ++ 0#16
      ∧ (∀ k, k ∉ s.storedKeys false p → t.byteAt k = s.byteAt k)
      ∧ ((t.iop.sport (c.val / 2 % 2 == 1)).rx (c.val % 2 == 1)).queue = q.tail
      ∧ (t.chan c).c = d.c - 1 ∧ (t.chan c).im = d.im ∧ (t.chan c).cp = d.cp
      ∧ (t.chan c).ii =
        (if 0x8000 ≤ at_ ∧ at_ ≤ 0x9FFF ∧ 0x9FFF < next then 0x08000 - offset
        else if 0xC000 ≤ at_ ∧ at_ ≤ 0xDFFF ∧ 0xDFFF < next then 0x0C000 - offset
        else d.ii + d.im.signExtend 17)
      ∧ (∀ e, e ≠ c → t.chan e = s.chan e)
      ∧ (d.c ≠ 1 → (t.chan c).run = d.run ∧ t.tr.requests = s.tr.requests)
      ∧ (d.c = 1 → (t.chan c).run = false
        ∧ (s.chen c = false → t.tr.requests = s.tr.requests ||| if c.val < 2 then 0x400 else 0x800))
end

