-- ==== Sys2Proof/Laws/State.lean ====
section
/-! SUPPORT. What each operation leaves alone, one lemma per operation and field, for `simp`: no later proof unfolds a
record update. -/

namespace Sys2Proof.Machine

/-! ### setRreg -/

@[simp] theorem setRreg_data_acc0 (s : State) (n : BitVec 4) (v : BitVec 40) : (s.setRreg n v).data.acc0 = s.data.acc0 := by unfold State.setRreg; split <;> rfl
@[simp] theorem setRreg_data_acc1 (s : State) (n : BitVec 4) (v : BitVec 40) : (s.setRreg n v).data.acc1 = s.data.acc1 := by unfold State.setRreg; split <;> rfl
@[simp] theorem setRreg_data_px (s : State) (n : BitVec 4) (v : BitVec 40) : (s.setRreg n v).data.px = s.data.px := by unfold State.setRreg; split <;> rfl
@[simp] theorem setRreg_dag (s : State) (n : BitVec 4) (v : BitVec 40) : (s.setRreg n v).dag = s.dag := by unfold State.setRreg; split <;> rfl
@[simp] theorem setRreg_sys (s : State) (n : BitVec 4) (v : BitVec 40) : (s.setRreg n v).sys = s.sys := by unfold State.setRreg; split <;> rfl
@[simp] theorem setRreg_lat (s : State) (n : BitVec 4) (v : BitVec 40) : (s.setRreg n v).lat = s.lat := by unfold State.setRreg; split <;> rfl
@[simp] theorem setRreg_pipe (s : State) (n : BitVec 4) (v : BitVec 40) : (s.setRreg n v).pipe = s.pipe := by unfold State.setRreg; split <;> rfl
@[simp] theorem setRreg_stk (s : State) (n : BitVec 4) (v : BitVec 40) : (s.setRreg n v).stk = s.stk := by unfold State.setRreg; split <;> rfl
@[simp] theorem setRreg_cache (s : State) (n : BitVec 4) (v : BitVec 40) : (s.setRreg n v).cache = s.cache := by unfold State.setRreg; split <;> rfl
@[simp] theorem setRreg_mem (s : State) (n : BitVec 4) (v : BitVec 40) : (s.setRreg n v).mem = s.mem := by unfold State.setRreg; split <;> rfl
@[simp] theorem setRreg_shadow (s : State) (n : BitVec 4) (v : BitVec 40) : (s.setRreg n v).shadow = s.shadow := by unfold State.setRreg; split <;> rfl
@[simp] theorem setRreg_iop (s : State) (n : BitVec 4) (v : BitVec 40) : (s.setRreg n v).iop = s.iop := by unfold State.setRreg; split <;> rfl
@[simp] theorem setRreg_env (s : State) (n : BitVec 4) (v : BitVec 40) : (s.setRreg n v).env = s.env := by unfold State.setRreg; split <;> rfl
@[simp] theorem setRreg_tr (s : State) (n : BitVec 4) (v : BitVec 40) : (s.setRreg n v).tr = s.tr := by unfold State.setRreg; split <;> rfl
@[simp] theorem setRreg_free (s : State) (n : BitVec 4) (v : BitVec 40) : (s.setRreg n v).free = s.free := by unfold State.setRreg; split <;> rfl

/-! ### setRfix -/

@[simp] theorem setRfix_data_acc0 (s : State) (n : BitVec 4) (v : BitVec 32) : (s.setRfix n v).data.acc0 = s.data.acc0 := by simp [State.setRfix]
@[simp] theorem setRfix_data_acc1 (s : State) (n : BitVec 4) (v : BitVec 32) : (s.setRfix n v).data.acc1 = s.data.acc1 := by simp [State.setRfix]
@[simp] theorem setRfix_data_px (s : State) (n : BitVec 4) (v : BitVec 32) : (s.setRfix n v).data.px = s.data.px := by simp [State.setRfix]
@[simp] theorem setRfix_dag (s : State) (n : BitVec 4) (v : BitVec 32) : (s.setRfix n v).dag = s.dag := by simp [State.setRfix]
@[simp] theorem setRfix_sys (s : State) (n : BitVec 4) (v : BitVec 32) : (s.setRfix n v).sys = s.sys := by simp [State.setRfix]
@[simp] theorem setRfix_lat (s : State) (n : BitVec 4) (v : BitVec 32) : (s.setRfix n v).lat = s.lat := by simp [State.setRfix]
@[simp] theorem setRfix_pipe (s : State) (n : BitVec 4) (v : BitVec 32) : (s.setRfix n v).pipe = s.pipe := by simp [State.setRfix]
@[simp] theorem setRfix_stk (s : State) (n : BitVec 4) (v : BitVec 32) : (s.setRfix n v).stk = s.stk := by simp [State.setRfix]
@[simp] theorem setRfix_cache (s : State) (n : BitVec 4) (v : BitVec 32) : (s.setRfix n v).cache = s.cache := by simp [State.setRfix]
@[simp] theorem setRfix_mem (s : State) (n : BitVec 4) (v : BitVec 32) : (s.setRfix n v).mem = s.mem := by simp [State.setRfix]
@[simp] theorem setRfix_shadow (s : State) (n : BitVec 4) (v : BitVec 32) : (s.setRfix n v).shadow = s.shadow := by simp [State.setRfix]
@[simp] theorem setRfix_iop (s : State) (n : BitVec 4) (v : BitVec 32) : (s.setRfix n v).iop = s.iop := by simp [State.setRfix]
@[simp] theorem setRfix_env (s : State) (n : BitVec 4) (v : BitVec 32) : (s.setRfix n v).env = s.env := by simp [State.setRfix]
@[simp] theorem setRfix_tr (s : State) (n : BitVec 4) (v : BitVec 32) : (s.setRfix n v).tr = s.tr := by simp [State.setRfix]
@[simp] theorem setRfix_free (s : State) (n : BitVec 4) (v : BitVec 32) : (s.setRfix n v).free = s.free := by simp [State.setRfix]

/-! ### setAcc -/

@[simp] theorem setAcc_data_primary (s : State) (b : Bool) (v : BitVec 80) : (s.setAcc b v).data.primary = s.data.primary := by unfold State.setAcc; split <;> rfl
@[simp] theorem setAcc_data_alternate (s : State) (b : Bool) (v : BitVec 80) : (s.setAcc b v).data.alternate = s.data.alternate := by unfold State.setAcc; split <;> rfl
@[simp] theorem setAcc_data_px (s : State) (b : Bool) (v : BitVec 80) : (s.setAcc b v).data.px = s.data.px := by unfold State.setAcc; split <;> rfl
@[simp] theorem setAcc_dag (s : State) (b : Bool) (v : BitVec 80) : (s.setAcc b v).dag = s.dag := by unfold State.setAcc; split <;> rfl
@[simp] theorem setAcc_sys (s : State) (b : Bool) (v : BitVec 80) : (s.setAcc b v).sys = s.sys := by unfold State.setAcc; split <;> rfl
@[simp] theorem setAcc_lat (s : State) (b : Bool) (v : BitVec 80) : (s.setAcc b v).lat = s.lat := by unfold State.setAcc; split <;> rfl
@[simp] theorem setAcc_pipe (s : State) (b : Bool) (v : BitVec 80) : (s.setAcc b v).pipe = s.pipe := by unfold State.setAcc; split <;> rfl
@[simp] theorem setAcc_stk (s : State) (b : Bool) (v : BitVec 80) : (s.setAcc b v).stk = s.stk := by unfold State.setAcc; split <;> rfl
@[simp] theorem setAcc_cache (s : State) (b : Bool) (v : BitVec 80) : (s.setAcc b v).cache = s.cache := by unfold State.setAcc; split <;> rfl
@[simp] theorem setAcc_mem (s : State) (b : Bool) (v : BitVec 80) : (s.setAcc b v).mem = s.mem := by unfold State.setAcc; split <;> rfl
@[simp] theorem setAcc_shadow (s : State) (b : Bool) (v : BitVec 80) : (s.setAcc b v).shadow = s.shadow := by unfold State.setAcc; split <;> rfl
@[simp] theorem setAcc_iop (s : State) (b : Bool) (v : BitVec 80) : (s.setAcc b v).iop = s.iop := by unfold State.setAcc; split <;> rfl
@[simp] theorem setAcc_env (s : State) (b : Bool) (v : BitVec 80) : (s.setAcc b v).env = s.env := by unfold State.setAcc; split <;> rfl
@[simp] theorem setAcc_tr (s : State) (b : Bool) (v : BitVec 80) : (s.setAcc b v).tr = s.tr := by unfold State.setAcc; split <;> rfl
@[simp] theorem setAcc_free (s : State) (b : Bool) (v : BitVec 80) : (s.setAcc b v).free = s.free := by unfold State.setAcc; split <;> rfl

/-! ### setDagReg -/

@[simp] theorem setDagReg_data (s : State) (f : DagFile) (g : Bool) (k : BitVec 3) (v : BitVec 32) : (s.setDagReg f g k v).data = s.data := by unfold State.setDagReg; split <;> rfl
@[simp] theorem setDagReg_sys (s : State) (f : DagFile) (g : Bool) (k : BitVec 3) (v : BitVec 32) : (s.setDagReg f g k v).sys = s.sys := by unfold State.setDagReg; split <;> rfl
@[simp] theorem setDagReg_lat (s : State) (f : DagFile) (g : Bool) (k : BitVec 3) (v : BitVec 32) : (s.setDagReg f g k v).lat = s.lat := by unfold State.setDagReg; split <;> rfl
@[simp] theorem setDagReg_pipe (s : State) (f : DagFile) (g : Bool) (k : BitVec 3) (v : BitVec 32) : (s.setDagReg f g k v).pipe = s.pipe := by unfold State.setDagReg; split <;> rfl
@[simp] theorem setDagReg_stk (s : State) (f : DagFile) (g : Bool) (k : BitVec 3) (v : BitVec 32) : (s.setDagReg f g k v).stk = s.stk := by unfold State.setDagReg; split <;> rfl
@[simp] theorem setDagReg_cache (s : State) (f : DagFile) (g : Bool) (k : BitVec 3) (v : BitVec 32) : (s.setDagReg f g k v).cache = s.cache := by unfold State.setDagReg; split <;> rfl
@[simp] theorem setDagReg_mem (s : State) (f : DagFile) (g : Bool) (k : BitVec 3) (v : BitVec 32) : (s.setDagReg f g k v).mem = s.mem := by unfold State.setDagReg; split <;> rfl
@[simp] theorem setDagReg_shadow (s : State) (f : DagFile) (g : Bool) (k : BitVec 3) (v : BitVec 32) : (s.setDagReg f g k v).shadow = s.shadow := by unfold State.setDagReg; split <;> rfl
@[simp] theorem setDagReg_iop (s : State) (f : DagFile) (g : Bool) (k : BitVec 3) (v : BitVec 32) : (s.setDagReg f g k v).iop = s.iop := by unfold State.setDagReg; split <;> rfl
@[simp] theorem setDagReg_env (s : State) (f : DagFile) (g : Bool) (k : BitVec 3) (v : BitVec 32) : (s.setDagReg f g k v).env = s.env := by unfold State.setDagReg; split <;> rfl
@[simp] theorem setDagReg_tr (s : State) (f : DagFile) (g : Bool) (k : BitVec 3) (v : BitVec 32) : (s.setDagReg f g k v).tr = s.tr := by unfold State.setDagReg; split <;> rfl
@[simp] theorem setDagReg_free (s : State) (f : DagFile) (g : Bool) (k : BitVec 3) (v : BitVec 32) : (s.setDagReg f g k v).free = s.free := by unfold State.setDagReg; split <;> rfl

/-! ### aluStatus -/

@[simp] theorem aluStatus_data (s : State) (f : AluFlags) : (s.aluStatus f).data = s.data := rfl
@[simp] theorem aluStatus_dag (s : State) (f : AluFlags) : (s.aluStatus f).dag = s.dag := rfl
@[simp] theorem aluStatus_sys_mode1 (s : State) (f : AluFlags) : (s.aluStatus f).sys.mode1 = s.sys.mode1 := rfl
@[simp] theorem aluStatus_sys_mode2 (s : State) (f : AluFlags) : (s.aluStatus f).sys.mode2 = s.sys.mode2 := rfl
@[simp] theorem aluStatus_sys_irptl (s : State) (f : AluFlags) : (s.aluStatus f).sys.irptl = s.sys.irptl := rfl
@[simp] theorem aluStatus_sys_imask (s : State) (f : AluFlags) : (s.aluStatus f).sys.imask = s.sys.imask := rfl
@[simp] theorem aluStatus_sys_imaskp (s : State) (f : AluFlags) : (s.aluStatus f).sys.imaskp = s.sys.imaskp := rfl
@[simp] theorem aluStatus_sys_ustat1 (s : State) (f : AluFlags) : (s.aluStatus f).sys.ustat1 = s.sys.ustat1 := rfl
@[simp] theorem aluStatus_sys_ustat2 (s : State) (f : AluFlags) : (s.aluStatus f).sys.ustat2 = s.sys.ustat2 := rfl
@[simp] theorem aluStatus_lat (s : State) (f : AluFlags) : (s.aluStatus f).lat = s.lat := rfl
@[simp] theorem aluStatus_pipe (s : State) (f : AluFlags) : (s.aluStatus f).pipe = s.pipe := rfl
@[simp] theorem aluStatus_stk (s : State) (f : AluFlags) : (s.aluStatus f).stk = s.stk := rfl
@[simp] theorem aluStatus_cache (s : State) (f : AluFlags) : (s.aluStatus f).cache = s.cache := rfl
@[simp] theorem aluStatus_mem (s : State) (f : AluFlags) : (s.aluStatus f).mem = s.mem := rfl
@[simp] theorem aluStatus_shadow (s : State) (f : AluFlags) : (s.aluStatus f).shadow = s.shadow := rfl
@[simp] theorem aluStatus_iop (s : State) (f : AluFlags) : (s.aluStatus f).iop = s.iop := rfl
@[simp] theorem aluStatus_env (s : State) (f : AluFlags) : (s.aluStatus f).env = s.env := rfl
@[simp] theorem aluStatus_tr (s : State) (f : AluFlags) : (s.aluStatus f).tr = s.tr := rfl
@[simp] theorem aluStatus_free (s : State) (f : AluFlags) : (s.aluStatus f).free = s.free := rfl

/-! ### mulStatus -/

@[simp] theorem mulStatus_data (s : State) (f : MulFlags) : (s.mulStatus f).data = s.data := rfl
@[simp] theorem mulStatus_dag (s : State) (f : MulFlags) : (s.mulStatus f).dag = s.dag := rfl
@[simp] theorem mulStatus_sys_mode1 (s : State) (f : MulFlags) : (s.mulStatus f).sys.mode1 = s.sys.mode1 := rfl
@[simp] theorem mulStatus_sys_mode2 (s : State) (f : MulFlags) : (s.mulStatus f).sys.mode2 = s.sys.mode2 := rfl
@[simp] theorem mulStatus_sys_irptl (s : State) (f : MulFlags) : (s.mulStatus f).sys.irptl = s.sys.irptl := rfl
@[simp] theorem mulStatus_sys_imask (s : State) (f : MulFlags) : (s.mulStatus f).sys.imask = s.sys.imask := rfl
@[simp] theorem mulStatus_sys_imaskp (s : State) (f : MulFlags) : (s.mulStatus f).sys.imaskp = s.sys.imaskp := rfl
@[simp] theorem mulStatus_sys_ustat1 (s : State) (f : MulFlags) : (s.mulStatus f).sys.ustat1 = s.sys.ustat1 := rfl
@[simp] theorem mulStatus_sys_ustat2 (s : State) (f : MulFlags) : (s.mulStatus f).sys.ustat2 = s.sys.ustat2 := rfl
@[simp] theorem mulStatus_lat (s : State) (f : MulFlags) : (s.mulStatus f).lat = s.lat := rfl
@[simp] theorem mulStatus_pipe (s : State) (f : MulFlags) : (s.mulStatus f).pipe = s.pipe := rfl
@[simp] theorem mulStatus_stk (s : State) (f : MulFlags) : (s.mulStatus f).stk = s.stk := rfl
@[simp] theorem mulStatus_cache (s : State) (f : MulFlags) : (s.mulStatus f).cache = s.cache := rfl
@[simp] theorem mulStatus_mem (s : State) (f : MulFlags) : (s.mulStatus f).mem = s.mem := rfl
@[simp] theorem mulStatus_shadow (s : State) (f : MulFlags) : (s.mulStatus f).shadow = s.shadow := rfl
@[simp] theorem mulStatus_iop (s : State) (f : MulFlags) : (s.mulStatus f).iop = s.iop := rfl
@[simp] theorem mulStatus_env (s : State) (f : MulFlags) : (s.mulStatus f).env = s.env := rfl
@[simp] theorem mulStatus_tr (s : State) (f : MulFlags) : (s.mulStatus f).tr = s.tr := rfl
@[simp] theorem mulStatus_free (s : State) (f : MulFlags) : (s.mulStatus f).free = s.free := rfl

/-! ### shiftStatus -/

@[simp] theorem shiftStatus_data (s : State) (f : ShiftFlags) : (s.shiftStatus f).data = s.data := rfl
@[simp] theorem shiftStatus_dag (s : State) (f : ShiftFlags) : (s.shiftStatus f).dag = s.dag := rfl
@[simp] theorem shiftStatus_sys_mode1 (s : State) (f : ShiftFlags) : (s.shiftStatus f).sys.mode1 = s.sys.mode1 := rfl
@[simp] theorem shiftStatus_sys_mode2 (s : State) (f : ShiftFlags) : (s.shiftStatus f).sys.mode2 = s.sys.mode2 := rfl
@[simp] theorem shiftStatus_sys_irptl (s : State) (f : ShiftFlags) : (s.shiftStatus f).sys.irptl = s.sys.irptl := rfl
@[simp] theorem shiftStatus_sys_imask (s : State) (f : ShiftFlags) : (s.shiftStatus f).sys.imask = s.sys.imask := rfl
@[simp] theorem shiftStatus_sys_imaskp (s : State) (f : ShiftFlags) : (s.shiftStatus f).sys.imaskp = s.sys.imaskp := rfl
@[simp] theorem shiftStatus_sys_stky (s : State) (f : ShiftFlags) : (s.shiftStatus f).sys.stky = s.sys.stky := rfl
@[simp] theorem shiftStatus_sys_ustat1 (s : State) (f : ShiftFlags) : (s.shiftStatus f).sys.ustat1 = s.sys.ustat1 := rfl
@[simp] theorem shiftStatus_sys_ustat2 (s : State) (f : ShiftFlags) : (s.shiftStatus f).sys.ustat2 = s.sys.ustat2 := rfl
@[simp] theorem shiftStatus_lat (s : State) (f : ShiftFlags) : (s.shiftStatus f).lat = s.lat := rfl
@[simp] theorem shiftStatus_pipe (s : State) (f : ShiftFlags) : (s.shiftStatus f).pipe = s.pipe := rfl
@[simp] theorem shiftStatus_stk (s : State) (f : ShiftFlags) : (s.shiftStatus f).stk = s.stk := rfl
@[simp] theorem shiftStatus_cache (s : State) (f : ShiftFlags) : (s.shiftStatus f).cache = s.cache := rfl
@[simp] theorem shiftStatus_mem (s : State) (f : ShiftFlags) : (s.shiftStatus f).mem = s.mem := rfl
@[simp] theorem shiftStatus_shadow (s : State) (f : ShiftFlags) : (s.shiftStatus f).shadow = s.shadow := rfl
@[simp] theorem shiftStatus_iop (s : State) (f : ShiftFlags) : (s.shiftStatus f).iop = s.iop := rfl
@[simp] theorem shiftStatus_env (s : State) (f : ShiftFlags) : (s.shiftStatus f).env = s.env := rfl
@[simp] theorem shiftStatus_tr (s : State) (f : ShiftFlags) : (s.shiftStatus f).tr = s.tr := rfl
@[simp] theorem shiftStatus_free (s : State) (f : ShiftFlags) : (s.shiftStatus f).free = s.free := rfl

/-! ### setBtf -/

@[simp] theorem setBtf_data (s : State) (b : Bool) : (s.setBtf b).data = s.data := rfl
@[simp] theorem setBtf_dag (s : State) (b : Bool) : (s.setBtf b).dag = s.dag := rfl
@[simp] theorem setBtf_sys_mode1 (s : State) (b : Bool) : (s.setBtf b).sys.mode1 = s.sys.mode1 := rfl
@[simp] theorem setBtf_sys_mode2 (s : State) (b : Bool) : (s.setBtf b).sys.mode2 = s.sys.mode2 := rfl
@[simp] theorem setBtf_sys_irptl (s : State) (b : Bool) : (s.setBtf b).sys.irptl = s.sys.irptl := rfl
@[simp] theorem setBtf_sys_imask (s : State) (b : Bool) : (s.setBtf b).sys.imask = s.sys.imask := rfl
@[simp] theorem setBtf_sys_imaskp (s : State) (b : Bool) : (s.setBtf b).sys.imaskp = s.sys.imaskp := rfl
@[simp] theorem setBtf_sys_stky (s : State) (b : Bool) : (s.setBtf b).sys.stky = s.sys.stky := rfl
@[simp] theorem setBtf_sys_ustat1 (s : State) (b : Bool) : (s.setBtf b).sys.ustat1 = s.sys.ustat1 := rfl
@[simp] theorem setBtf_sys_ustat2 (s : State) (b : Bool) : (s.setBtf b).sys.ustat2 = s.sys.ustat2 := rfl
@[simp] theorem setBtf_lat (s : State) (b : Bool) : (s.setBtf b).lat = s.lat := rfl
@[simp] theorem setBtf_pipe (s : State) (b : Bool) : (s.setBtf b).pipe = s.pipe := rfl
@[simp] theorem setBtf_stk (s : State) (b : Bool) : (s.setBtf b).stk = s.stk := rfl
@[simp] theorem setBtf_cache (s : State) (b : Bool) : (s.setBtf b).cache = s.cache := rfl
@[simp] theorem setBtf_mem (s : State) (b : Bool) : (s.setBtf b).mem = s.mem := rfl
@[simp] theorem setBtf_shadow (s : State) (b : Bool) : (s.setBtf b).shadow = s.shadow := rfl
@[simp] theorem setBtf_iop (s : State) (b : Bool) : (s.setBtf b).iop = s.iop := rfl
@[simp] theorem setBtf_env (s : State) (b : Bool) : (s.setBtf b).env = s.env := rfl
@[simp] theorem setBtf_tr (s : State) (b : Bool) : (s.setBtf b).tr = s.tr := rfl
@[simp] theorem setBtf_free (s : State) (b : Bool) : (s.setBtf b).free = s.free := rfl

/-! ### noteCond -/

@[simp] theorem noteCond_data (s : State) (c : BitVec 5) : (s.noteCond c).data = s.data := by unfold State.noteCond; split <;> rfl
@[simp] theorem noteCond_dag (s : State) (c : BitVec 5) : (s.noteCond c).dag = s.dag := by unfold State.noteCond; split <;> rfl
@[simp] theorem noteCond_sys (s : State) (c : BitVec 5) : (s.noteCond c).sys = s.sys := by unfold State.noteCond; split <;> rfl
@[simp] theorem noteCond_lat (s : State) (c : BitVec 5) : (s.noteCond c).lat = s.lat := by unfold State.noteCond; split <;> rfl
@[simp] theorem noteCond_pipe (s : State) (c : BitVec 5) : (s.noteCond c).pipe = s.pipe := by unfold State.noteCond; split <;> rfl
@[simp] theorem noteCond_stk (s : State) (c : BitVec 5) : (s.noteCond c).stk = s.stk := by unfold State.noteCond; split <;> rfl
@[simp] theorem noteCond_cache (s : State) (c : BitVec 5) : (s.noteCond c).cache = s.cache := by unfold State.noteCond; split <;> rfl
@[simp] theorem noteCond_mem (s : State) (c : BitVec 5) : (s.noteCond c).mem = s.mem := by unfold State.noteCond; split <;> rfl
@[simp] theorem noteCond_shadow (s : State) (c : BitVec 5) : (s.noteCond c).shadow = s.shadow := by unfold State.noteCond; split <;> rfl
@[simp] theorem noteCond_iop (s : State) (c : BitVec 5) : (s.noteCond c).iop = s.iop := by unfold State.noteCond; split <;> rfl
@[simp] theorem noteCond_env (s : State) (c : BitVec 5) : (s.noteCond c).env = s.env := by unfold State.noteCond; split <;> rfl
@[simp] theorem noteCond_tr_branch (s : State) (c : BitVec 5) : (s.noteCond c).tr.branch = s.tr.branch := by unfold State.noteCond; split <;> rfl
@[simp] theorem noteCond_tr_requests (s : State) (c : BitVec 5) : (s.noteCond c).tr.requests = s.tr.requests := by unfold State.noteCond; split <;> rfl
@[simp] theorem noteCond_tr_stall (s : State) (c : BitVec 5) : (s.noteCond c).tr.stall = s.tr.stall := by unfold State.noteCond; split <;> rfl
@[simp] theorem noteCond_tr_astatWritten (s : State) (c : BitVec 5) : (s.noteCond c).tr.astatWritten = s.tr.astatWritten := by unfold State.noteCond; split <;> rfl
@[simp] theorem noteCond_tr_pcstkp (s : State) (c : BitVec 5) : (s.noteCond c).tr.pcstkp = s.tr.pcstkp := by unfold State.noteCond; split <;> rfl
@[simp] theorem noteCond_tr_imaskpWritten (s : State) (c : BitVec 5) : (s.noteCond c).tr.imaskpWritten = s.tr.imaskpWritten := by unfold State.noteCond; split <;> rfl
@[simp] theorem noteCond_tr_curlcntr (s : State) (c : BitVec 5) : (s.noteCond c).tr.curlcntr = s.tr.curlcntr := by unfold State.noteCond; split <;> rfl
@[simp] theorem noteCond_tr_countWritten (s : State) (c : BitVec 5) : (s.noteCond c).tr.countWritten = s.tr.countWritten := by unfold State.noteCond; split <;> rfl
@[simp] theorem noteCond_tr_loopStarted (s : State) (c : BitVec 5) : (s.noteCond c).tr.loopStarted = s.tr.loopStarted := by unfold State.noteCond; split <;> rfl
@[simp] theorem noteCond_tr_syscon (s : State) (c : BitVec 5) : (s.noteCond c).tr.syscon = s.tr.syscon := by unfold State.noteCond; split <;> rfl
@[simp] theorem noteCond_tr_reset (s : State) (c : BitVec 5) : (s.noteCond c).tr.reset = s.tr.reset := by unfold State.noteCond; split <;> rfl
@[simp] theorem noteCond_free (s : State) (c : BitVec 5) : (s.noteCond c).free = s.free := by unfold State.noteCond; split <;> rfl

/-! ### request -/

@[simp] theorem request_data (s : State) (k : Nat) : (s.request k).data = s.data := rfl
@[simp] theorem request_dag (s : State) (k : Nat) : (s.request k).dag = s.dag := rfl
@[simp] theorem request_sys (s : State) (k : Nat) : (s.request k).sys = s.sys := rfl
@[simp] theorem request_lat (s : State) (k : Nat) : (s.request k).lat = s.lat := rfl
@[simp] theorem request_pipe (s : State) (k : Nat) : (s.request k).pipe = s.pipe := rfl
@[simp] theorem request_stk (s : State) (k : Nat) : (s.request k).stk = s.stk := rfl
@[simp] theorem request_cache (s : State) (k : Nat) : (s.request k).cache = s.cache := rfl
@[simp] theorem request_mem (s : State) (k : Nat) : (s.request k).mem = s.mem := rfl
@[simp] theorem request_shadow (s : State) (k : Nat) : (s.request k).shadow = s.shadow := rfl
@[simp] theorem request_iop (s : State) (k : Nat) : (s.request k).iop = s.iop := rfl
@[simp] theorem request_env (s : State) (k : Nat) : (s.request k).env = s.env := rfl
@[simp] theorem request_tr_branch (s : State) (k : Nat) : (s.request k).tr.branch = s.tr.branch := rfl
@[simp] theorem request_tr_stall (s : State) (k : Nat) : (s.request k).tr.stall = s.tr.stall := rfl
@[simp] theorem request_tr_astatWritten (s : State) (k : Nat) : (s.request k).tr.astatWritten = s.tr.astatWritten := rfl
@[simp] theorem request_tr_pcstkp (s : State) (k : Nat) : (s.request k).tr.pcstkp = s.tr.pcstkp := rfl
@[simp] theorem request_tr_imaskpWritten (s : State) (k : Nat) : (s.request k).tr.imaskpWritten = s.tr.imaskpWritten := rfl
@[simp] theorem request_tr_curlcntr (s : State) (k : Nat) : (s.request k).tr.curlcntr = s.tr.curlcntr := rfl
@[simp] theorem request_tr_countWritten (s : State) (k : Nat) : (s.request k).tr.countWritten = s.tr.countWritten := rfl
@[simp] theorem request_tr_notLce (s : State) (k : Nat) : (s.request k).tr.notLce = s.tr.notLce := rfl
@[simp] theorem request_tr_loopStarted (s : State) (k : Nat) : (s.request k).tr.loopStarted = s.tr.loopStarted := rfl
@[simp] theorem request_tr_syscon (s : State) (k : Nat) : (s.request k).tr.syscon = s.tr.syscon := rfl
@[simp] theorem request_tr_reset (s : State) (k : Nat) : (s.request k).tr.reset = s.tr.reset := rfl
@[simp] theorem request_free (s : State) (k : Nat) : (s.request k).free = s.free := rfl

/-! ### branchTo -/

@[simp] theorem branchTo_data (s : State) (d : Bool) (a : BitVec 24) : (s.branchTo d a).data = s.data := rfl
@[simp] theorem branchTo_dag (s : State) (d : Bool) (a : BitVec 24) : (s.branchTo d a).dag = s.dag := rfl
@[simp] theorem branchTo_sys (s : State) (d : Bool) (a : BitVec 24) : (s.branchTo d a).sys = s.sys := rfl
@[simp] theorem branchTo_lat (s : State) (d : Bool) (a : BitVec 24) : (s.branchTo d a).lat = s.lat := rfl
@[simp] theorem branchTo_pipe (s : State) (d : Bool) (a : BitVec 24) : (s.branchTo d a).pipe = s.pipe := rfl
@[simp] theorem branchTo_stk (s : State) (d : Bool) (a : BitVec 24) : (s.branchTo d a).stk = s.stk := rfl
@[simp] theorem branchTo_cache (s : State) (d : Bool) (a : BitVec 24) : (s.branchTo d a).cache = s.cache := rfl
@[simp] theorem branchTo_mem (s : State) (d : Bool) (a : BitVec 24) : (s.branchTo d a).mem = s.mem := rfl
@[simp] theorem branchTo_shadow (s : State) (d : Bool) (a : BitVec 24) : (s.branchTo d a).shadow = s.shadow := rfl
@[simp] theorem branchTo_iop (s : State) (d : Bool) (a : BitVec 24) : (s.branchTo d a).iop = s.iop := rfl
@[simp] theorem branchTo_env (s : State) (d : Bool) (a : BitVec 24) : (s.branchTo d a).env = s.env := rfl
@[simp] theorem branchTo_tr_requests (s : State) (d : Bool) (a : BitVec 24) : (s.branchTo d a).tr.requests = s.tr.requests := rfl
@[simp] theorem branchTo_tr_stall (s : State) (d : Bool) (a : BitVec 24) : (s.branchTo d a).tr.stall = s.tr.stall := rfl
@[simp] theorem branchTo_tr_astatWritten (s : State) (d : Bool) (a : BitVec 24) : (s.branchTo d a).tr.astatWritten = s.tr.astatWritten := rfl
@[simp] theorem branchTo_tr_pcstkp (s : State) (d : Bool) (a : BitVec 24) : (s.branchTo d a).tr.pcstkp = s.tr.pcstkp := rfl
@[simp] theorem branchTo_tr_imaskpWritten (s : State) (d : Bool) (a : BitVec 24) : (s.branchTo d a).tr.imaskpWritten = s.tr.imaskpWritten := rfl
@[simp] theorem branchTo_tr_curlcntr (s : State) (d : Bool) (a : BitVec 24) : (s.branchTo d a).tr.curlcntr = s.tr.curlcntr := rfl
@[simp] theorem branchTo_tr_countWritten (s : State) (d : Bool) (a : BitVec 24) : (s.branchTo d a).tr.countWritten = s.tr.countWritten := rfl
@[simp] theorem branchTo_tr_notLce (s : State) (d : Bool) (a : BitVec 24) : (s.branchTo d a).tr.notLce = s.tr.notLce := rfl
@[simp] theorem branchTo_tr_loopStarted (s : State) (d : Bool) (a : BitVec 24) : (s.branchTo d a).tr.loopStarted = s.tr.loopStarted := rfl
@[simp] theorem branchTo_tr_syscon (s : State) (d : Bool) (a : BitVec 24) : (s.branchTo d a).tr.syscon = s.tr.syscon := rfl
@[simp] theorem branchTo_tr_reset (s : State) (d : Bool) (a : BitVec 24) : (s.branchTo d a).tr.reset = s.tr.reset := rfl
@[simp] theorem branchTo_free (s : State) (d : Bool) (a : BitVec 24) : (s.branchTo d a).free = s.free := rfl

/-! ### setLrf -/

@[simp] theorem setLrf_data (s : State) (a : BitVec 24) : (s.setLrf a).data = s.data := rfl
@[simp] theorem setLrf_dag (s : State) (a : BitVec 24) : (s.setLrf a).dag = s.dag := rfl
@[simp] theorem setLrf_sys (s : State) (a : BitVec 24) : (s.setLrf a).sys = s.sys := rfl
@[simp] theorem setLrf_lat (s : State) (a : BitVec 24) : (s.setLrf a).lat = s.lat := rfl
@[simp] theorem setLrf_pipe_pc (s : State) (a : BitVec 24) : (s.setLrf a).pipe.pc = s.pipe.pc := rfl
@[simp] theorem setLrf_pipe_daddr (s : State) (a : BitVec 24) : (s.setLrf a).pipe.daddr = s.pipe.daddr := rfl
@[simp] theorem setLrf_pipe_faddr (s : State) (a : BitVec 24) : (s.setLrf a).pipe.faddr = s.pipe.faddr := rfl
@[simp] theorem setLrf_pipe_killP (s : State) (a : BitVec 24) : (s.setLrf a).pipe.killP = s.pipe.killP := rfl
@[simp] theorem setLrf_pipe_killD (s : State) (a : BitVec 24) : (s.setLrf a).pipe.killD = s.pipe.killD := rfl
@[simp] theorem setLrf_pipe_irP (s : State) (a : BitVec 24) : (s.setLrf a).pipe.irP = s.pipe.irP := rfl
@[simp] theorem setLrf_pipe_irD (s : State) (a : BitVec 24) : (s.setLrf a).pipe.irD = s.pipe.irD := rfl
@[simp] theorem setLrf_pipe_mode (s : State) (a : BitVec 24) : (s.setLrf a).pipe.mode = s.pipe.mode := rfl
@[simp] theorem setLrf_pipe_slots (s : State) (a : BitVec 24) : (s.setLrf a).pipe.slots = s.pipe.slots := rfl
@[simp] theorem setLrf_pipe_holdoff (s : State) (a : BitVec 24) : (s.setLrf a).pipe.holdoff = s.pipe.holdoff := rfl
@[simp] theorem setLrf_stk (s : State) (a : BitVec 24) : (s.setLrf a).stk = s.stk := rfl
@[simp] theorem setLrf_cache (s : State) (a : BitVec 24) : (s.setLrf a).cache = s.cache := rfl
@[simp] theorem setLrf_mem (s : State) (a : BitVec 24) : (s.setLrf a).mem = s.mem := rfl
@[simp] theorem setLrf_shadow (s : State) (a : BitVec 24) : (s.setLrf a).shadow = s.shadow := rfl
@[simp] theorem setLrf_iop (s : State) (a : BitVec 24) : (s.setLrf a).iop = s.iop := rfl
@[simp] theorem setLrf_env (s : State) (a : BitVec 24) : (s.setLrf a).env = s.env := rfl
@[simp] theorem setLrf_tr (s : State) (a : BitVec 24) : (s.setLrf a).tr = s.tr := rfl
@[simp] theorem setLrf_free (s : State) (a : BitVec 24) : (s.setLrf a).free = s.free := rfl

/-! ### extCount, extTouch -/

@[simp] theorem extCount_data (s : State) (n : Nat) : (s.extCount n).data = s.data := rfl
@[simp] theorem extCount_dag (s : State) (n : Nat) : (s.extCount n).dag = s.dag := rfl
@[simp] theorem extCount_sys (s : State) (n : Nat) : (s.extCount n).sys = s.sys := rfl
@[simp] theorem extCount_lat (s : State) (n : Nat) : (s.extCount n).lat = s.lat := rfl
@[simp] theorem extCount_pipe (s : State) (n : Nat) : (s.extCount n).pipe = s.pipe := rfl
@[simp] theorem extCount_stk (s : State) (n : Nat) : (s.extCount n).stk = s.stk := rfl
@[simp] theorem extCount_cache (s : State) (n : Nat) : (s.extCount n).cache = s.cache := rfl
@[simp] theorem extCount_mem (s : State) (n : Nat) : (s.extCount n).mem = s.mem := rfl
@[simp] theorem extCount_shadow (s : State) (n : Nat) : (s.extCount n).shadow = s.shadow := rfl
@[simp] theorem extCount_iop_dma (s : State) (n : Nat) : (s.extCount n).iop.dma = s.iop.dma := rfl
@[simp] theorem extCount_iop_ep0 (s : State) (n : Nat) : (s.extCount n).iop.ep0 = s.iop.ep0 := rfl
@[simp] theorem extCount_iop_ep1 (s : State) (n : Nat) : (s.extCount n).iop.ep1 = s.iop.ep1 := rfl
@[simp] theorem extCount_iop_sport0 (s : State) (n : Nat) : (s.extCount n).iop.sport0 = s.iop.sport0 := rfl
@[simp] theorem extCount_iop_sport1 (s : State) (n : Nat) : (s.extCount n).iop.sport1 = s.iop.sport1 := rfl
@[simp] theorem extCount_iop_timer0 (s : State) (n : Nat) : (s.extCount n).iop.timer0 = s.iop.timer0 := rfl
@[simp] theorem extCount_iop_timer1 (s : State) (n : Nat) : (s.extCount n).iop.timer1 = s.iop.timer1 := rfl
@[simp] theorem extCount_env (s : State) (n : Nat) : (s.extCount n).env = s.env := rfl
@[simp] theorem extCount_tr (s : State) (n : Nat) : (s.extCount n).tr = s.tr := rfl
@[simp] theorem extCount_free (s : State) (n : Nat) : (s.extCount n).free = s.free := rfl
@[simp] theorem extTouch_data (s : State) (px : Bool) : (s.extTouch px).data = s.data := rfl
@[simp] theorem extTouch_dag (s : State) (px : Bool) : (s.extTouch px).dag = s.dag := rfl
@[simp] theorem extTouch_sys (s : State) (px : Bool) : (s.extTouch px).sys = s.sys := rfl
@[simp] theorem extTouch_lat (s : State) (px : Bool) : (s.extTouch px).lat = s.lat := rfl
@[simp] theorem extTouch_pipe (s : State) (px : Bool) : (s.extTouch px).pipe = s.pipe := rfl
@[simp] theorem extTouch_stk (s : State) (px : Bool) : (s.extTouch px).stk = s.stk := rfl
@[simp] theorem extTouch_cache (s : State) (px : Bool) : (s.extTouch px).cache = s.cache := rfl
@[simp] theorem extTouch_mem (s : State) (px : Bool) : (s.extTouch px).mem = s.mem := rfl
@[simp] theorem extTouch_shadow (s : State) (px : Bool) : (s.extTouch px).shadow = s.shadow := rfl
@[simp] theorem extTouch_iop_dma (s : State) (px : Bool) : (s.extTouch px).iop.dma = s.iop.dma := rfl
@[simp] theorem extTouch_iop_ep0 (s : State) (px : Bool) : (s.extTouch px).iop.ep0 = s.iop.ep0 := rfl
@[simp] theorem extTouch_iop_ep1 (s : State) (px : Bool) : (s.extTouch px).iop.ep1 = s.iop.ep1 := rfl
@[simp] theorem extTouch_iop_sport0 (s : State) (px : Bool) : (s.extTouch px).iop.sport0 = s.iop.sport0 := rfl
@[simp] theorem extTouch_iop_sport1 (s : State) (px : Bool) : (s.extTouch px).iop.sport1 = s.iop.sport1 := rfl
@[simp] theorem extTouch_iop_timer0 (s : State) (px : Bool) : (s.extTouch px).iop.timer0 = s.iop.timer0 := rfl
@[simp] theorem extTouch_iop_timer1 (s : State) (px : Bool) : (s.extTouch px).iop.timer1 = s.iop.timer1 := rfl
@[simp] theorem extTouch_env (s : State) (px : Bool) : (s.extTouch px).env = s.env := rfl
@[simp] theorem extTouch_tr (s : State) (px : Bool) : (s.extTouch px).tr = s.tr := rfl
@[simp] theorem extTouch_free (s : State) (px : Bool) : (s.extTouch px).free = s.free := rfl

/-! ### queueWrite -/

@[simp] theorem queueWrite_data (s : State) (w : Bool) (cs : List (Nat × BitVec 16)) : (s.queueWrite w cs).data = s.data := by unfold State.queueWrite; split <;> rfl
@[simp] theorem queueWrite_dag (s : State) (w : Bool) (cs : List (Nat × BitVec 16)) : (s.queueWrite w cs).dag = s.dag := by unfold State.queueWrite; split <;> rfl
@[simp] theorem queueWrite_sys (s : State) (w : Bool) (cs : List (Nat × BitVec 16)) : (s.queueWrite w cs).sys = s.sys := by unfold State.queueWrite; split <;> rfl
@[simp] theorem queueWrite_lat (s : State) (w : Bool) (cs : List (Nat × BitVec 16)) : (s.queueWrite w cs).lat = s.lat := by unfold State.queueWrite; split <;> rfl
@[simp] theorem queueWrite_pipe (s : State) (w : Bool) (cs : List (Nat × BitVec 16)) : (s.queueWrite w cs).pipe = s.pipe := by unfold State.queueWrite; split <;> rfl
@[simp] theorem queueWrite_stk (s : State) (w : Bool) (cs : List (Nat × BitVec 16)) : (s.queueWrite w cs).stk = s.stk := by unfold State.queueWrite; split <;> rfl
@[simp] theorem queueWrite_cache (s : State) (w : Bool) (cs : List (Nat × BitVec 16)) : (s.queueWrite w cs).cache = s.cache := by unfold State.queueWrite; split <;> rfl
@[simp] theorem queueWrite_iop (s : State) (w : Bool) (cs : List (Nat × BitVec 16)) : (s.queueWrite w cs).iop = s.iop := by unfold State.queueWrite; split <;> rfl
@[simp] theorem queueWrite_env (s : State) (w : Bool) (cs : List (Nat × BitVec 16)) : (s.queueWrite w cs).env = s.env := by unfold State.queueWrite; split <;> rfl
@[simp] theorem queueWrite_tr (s : State) (w : Bool) (cs : List (Nat × BitVec 16)) : (s.queueWrite w cs).tr = s.tr := by unfold State.queueWrite; split <;> rfl
@[simp] theorem queueWrite_free (s : State) (w : Bool) (cs : List (Nat × BitVec 16)) : (s.queueWrite w cs).free = s.free := by unfold State.queueWrite; split <;> rfl

/-! ### storeExt -/

@[simp] theorem storeExt_data (s : State) (a : Nat) (v : BitVec 32) : (s.storeExt a v).data = s.data := by unfold State.storeExt; split <;> rfl
@[simp] theorem storeExt_dag (s : State) (a : Nat) (v : BitVec 32) : (s.storeExt a v).dag = s.dag := by unfold State.storeExt; split <;> rfl
@[simp] theorem storeExt_sys (s : State) (a : Nat) (v : BitVec 32) : (s.storeExt a v).sys = s.sys := by unfold State.storeExt; split <;> rfl
@[simp] theorem storeExt_lat (s : State) (a : Nat) (v : BitVec 32) : (s.storeExt a v).lat = s.lat := by unfold State.storeExt; split <;> rfl
@[simp] theorem storeExt_pipe (s : State) (a : Nat) (v : BitVec 32) : (s.storeExt a v).pipe = s.pipe := by unfold State.storeExt; split <;> rfl
@[simp] theorem storeExt_stk (s : State) (a : Nat) (v : BitVec 32) : (s.storeExt a v).stk = s.stk := by unfold State.storeExt; split <;> rfl
@[simp] theorem storeExt_cache (s : State) (a : Nat) (v : BitVec 32) : (s.storeExt a v).cache = s.cache := by unfold State.storeExt; split <;> rfl
@[simp] theorem storeExt_shadow (s : State) (a : Nat) (v : BitVec 32) : (s.storeExt a v).shadow = s.shadow := by unfold State.storeExt; split <;> rfl
@[simp] theorem storeExt_iop (s : State) (a : Nat) (v : BitVec 32) : (s.storeExt a v).iop = s.iop := by unfold State.storeExt; split <;> rfl
@[simp] theorem storeExt_env (s : State) (a : Nat) (v : BitVec 32) : (s.storeExt a v).env = s.env := by unfold State.storeExt; split <;> rfl
@[simp] theorem storeExt_tr (s : State) (a : Nat) (v : BitVec 32) : (s.storeExt a v).tr = s.tr := by unfold State.storeExt; split <;> rfl
@[simp] theorem storeExt_free (s : State) (a : Nat) (v : BitVec 32) : (s.storeExt a v).free = s.free := by unfold State.storeExt; split <;> rfl

/-! ### storeExtWide -/

@[simp] theorem storeExtWide_data (s : State) (a : Nat) (v : BitVec 48) : (s.storeExtWide a v).data = s.data := by unfold State.storeExtWide; split <;> rfl
@[simp] theorem storeExtWide_dag (s : State) (a : Nat) (v : BitVec 48) : (s.storeExtWide a v).dag = s.dag := by unfold State.storeExtWide; split <;> rfl
@[simp] theorem storeExtWide_sys (s : State) (a : Nat) (v : BitVec 48) : (s.storeExtWide a v).sys = s.sys := by unfold State.storeExtWide; split <;> rfl
@[simp] theorem storeExtWide_lat (s : State) (a : Nat) (v : BitVec 48) : (s.storeExtWide a v).lat = s.lat := by unfold State.storeExtWide; split <;> rfl
@[simp] theorem storeExtWide_pipe (s : State) (a : Nat) (v : BitVec 48) : (s.storeExtWide a v).pipe = s.pipe := by unfold State.storeExtWide; split <;> rfl
@[simp] theorem storeExtWide_stk (s : State) (a : Nat) (v : BitVec 48) : (s.storeExtWide a v).stk = s.stk := by unfold State.storeExtWide; split <;> rfl
@[simp] theorem storeExtWide_cache (s : State) (a : Nat) (v : BitVec 48) : (s.storeExtWide a v).cache = s.cache := by unfold State.storeExtWide; split <;> rfl
@[simp] theorem storeExtWide_shadow (s : State) (a : Nat) (v : BitVec 48) : (s.storeExtWide a v).shadow = s.shadow := by unfold State.storeExtWide; split <;> rfl
@[simp] theorem storeExtWide_iop (s : State) (a : Nat) (v : BitVec 48) : (s.storeExtWide a v).iop = s.iop := by unfold State.storeExtWide; split <;> rfl
@[simp] theorem storeExtWide_env (s : State) (a : Nat) (v : BitVec 48) : (s.storeExtWide a v).env = s.env := by unfold State.storeExtWide; split <;> rfl
@[simp] theorem storeExtWide_tr (s : State) (a : Nat) (v : BitVec 48) : (s.storeExtWide a v).tr = s.tr := by unfold State.storeExtWide; split <;> rfl
@[simp] theorem storeExtWide_free (s : State) (a : Nat) (v : BitVec 48) : (s.storeExtWide a v).free = s.free := by unfold State.storeExtWide; split <;> rfl

/-! ### pushPc -/

@[simp] theorem pushPc_data (s : State) (a : BitVec 24) : (s.pushPc a).data = s.data := by simp only [State.pushPc]; split <;> (try split) <;> rfl
@[simp] theorem pushPc_dag (s : State) (a : BitVec 24) : (s.pushPc a).dag = s.dag := by simp only [State.pushPc]; split <;> (try split) <;> rfl
@[simp] theorem pushPc_sys (s : State) (a : BitVec 24) : (s.pushPc a).sys = s.sys := by simp only [State.pushPc]; split <;> (try split) <;> rfl
@[simp] theorem pushPc_lat (s : State) (a : BitVec 24) : (s.pushPc a).lat = s.lat := by simp only [State.pushPc]; split <;> (try split) <;> rfl
@[simp] theorem pushPc_pipe (s : State) (a : BitVec 24) : (s.pushPc a).pipe = s.pipe := by simp only [State.pushPc]; split <;> (try split) <;> rfl
@[simp] theorem pushPc_stk_laddr (s : State) (a : BitVec 24) : (s.pushPc a).stk.laddr = s.stk.laddr := by simp only [State.pushPc]; split <;> (try split) <;> rfl
@[simp] theorem pushPc_stk_count (s : State) (a : BitVec 24) : (s.pushPc a).stk.count = s.stk.count := by simp only [State.pushPc]; split <;> (try split) <;> rfl
@[simp] theorem pushPc_stk_initial (s : State) (a : BitVec 24) : (s.pushPc a).stk.initial = s.stk.initial := by simp only [State.pushPc]; split <;> (try split) <;> rfl
@[simp] theorem pushPc_stk_top (s : State) (a : BitVec 24) : (s.pushPc a).stk.top = s.stk.top := by simp only [State.pushPc]; split <;> (try split) <;> rfl
@[simp] theorem pushPc_stk_depth (s : State) (a : BitVec 24) : (s.pushPc a).stk.depth = s.stk.depth := by simp only [State.pushPc]; split <;> (try split) <;> rfl
@[simp] theorem pushPc_stk_status (s : State) (a : BitVec 24) : (s.pushPc a).stk.status = s.stk.status := by simp only [State.pushPc]; split <;> (try split) <;> rfl
@[simp] theorem pushPc_cache (s : State) (a : BitVec 24) : (s.pushPc a).cache = s.cache := by simp only [State.pushPc]; split <;> (try split) <;> rfl
@[simp] theorem pushPc_mem (s : State) (a : BitVec 24) : (s.pushPc a).mem = s.mem := by simp only [State.pushPc]; split <;> (try split) <;> rfl
@[simp] theorem pushPc_shadow (s : State) (a : BitVec 24) : (s.pushPc a).shadow = s.shadow := by simp only [State.pushPc]; split <;> (try split) <;> rfl
@[simp] theorem pushPc_iop (s : State) (a : BitVec 24) : (s.pushPc a).iop = s.iop := by simp only [State.pushPc]; split <;> (try split) <;> rfl
@[simp] theorem pushPc_env (s : State) (a : BitVec 24) : (s.pushPc a).env = s.env := by simp only [State.pushPc]; split <;> (try split) <;> rfl
@[simp] theorem pushPc_tr_branch (s : State) (a : BitVec 24) : (s.pushPc a).tr.branch = s.tr.branch := by simp only [State.pushPc]; split <;> (try split) <;> rfl
@[simp] theorem pushPc_tr_stall (s : State) (a : BitVec 24) : (s.pushPc a).tr.stall = s.tr.stall := by simp only [State.pushPc]; split <;> (try split) <;> rfl
@[simp] theorem pushPc_tr_astatWritten (s : State) (a : BitVec 24) : (s.pushPc a).tr.astatWritten = s.tr.astatWritten := by simp only [State.pushPc]; split <;> (try split) <;> rfl
@[simp] theorem pushPc_tr_pcstkp (s : State) (a : BitVec 24) : (s.pushPc a).tr.pcstkp = s.tr.pcstkp := by simp only [State.pushPc]; split <;> (try split) <;> rfl
@[simp] theorem pushPc_tr_imaskpWritten (s : State) (a : BitVec 24) : (s.pushPc a).tr.imaskpWritten = s.tr.imaskpWritten := by simp only [State.pushPc]; split <;> (try split) <;> rfl
@[simp] theorem pushPc_tr_curlcntr (s : State) (a : BitVec 24) : (s.pushPc a).tr.curlcntr = s.tr.curlcntr := by simp only [State.pushPc]; split <;> (try split) <;> rfl
@[simp] theorem pushPc_tr_countWritten (s : State) (a : BitVec 24) : (s.pushPc a).tr.countWritten = s.tr.countWritten := by simp only [State.pushPc]; split <;> (try split) <;> rfl
@[simp] theorem pushPc_tr_notLce (s : State) (a : BitVec 24) : (s.pushPc a).tr.notLce = s.tr.notLce := by simp only [State.pushPc]; split <;> (try split) <;> rfl
@[simp] theorem pushPc_tr_loopStarted (s : State) (a : BitVec 24) : (s.pushPc a).tr.loopStarted = s.tr.loopStarted := by simp only [State.pushPc]; split <;> (try split) <;> rfl
@[simp] theorem pushPc_tr_syscon (s : State) (a : BitVec 24) : (s.pushPc a).tr.syscon = s.tr.syscon := by simp only [State.pushPc]; split <;> (try split) <;> rfl
@[simp] theorem pushPc_tr_reset (s : State) (a : BitVec 24) : (s.pushPc a).tr.reset = s.tr.reset := by simp only [State.pushPc]; split <;> (try split) <;> rfl
@[simp] theorem pushPc_free (s : State) (a : BitVec 24) : (s.pushPc a).free = s.free := by simp only [State.pushPc]; split <;> (try split) <;> rfl

/-! ### pushLoop -/

@[simp] theorem pushLoop_data (s : State) (e c : BitVec 32) (b : Option (BitVec 24)) : (s.pushLoop e c b).data = s.data := by simp only [State.pushLoop]; split <;> rfl
@[simp] theorem pushLoop_dag (s : State) (e c : BitVec 32) (b : Option (BitVec 24)) : (s.pushLoop e c b).dag = s.dag := by simp only [State.pushLoop]; split <;> rfl
@[simp] theorem pushLoop_sys_mode1 (s : State) (e c : BitVec 32) (b : Option (BitVec 24)) : (s.pushLoop e c b).sys.mode1 = s.sys.mode1 := by simp only [State.pushLoop]; split <;> rfl
@[simp] theorem pushLoop_sys_mode2 (s : State) (e c : BitVec 32) (b : Option (BitVec 24)) : (s.pushLoop e c b).sys.mode2 = s.sys.mode2 := by simp only [State.pushLoop]; split <;> rfl
@[simp] theorem pushLoop_sys_irptl (s : State) (e c : BitVec 32) (b : Option (BitVec 24)) : (s.pushLoop e c b).sys.irptl = s.sys.irptl := by simp only [State.pushLoop]; split <;> rfl
@[simp] theorem pushLoop_sys_imask (s : State) (e c : BitVec 32) (b : Option (BitVec 24)) : (s.pushLoop e c b).sys.imask = s.sys.imask := by simp only [State.pushLoop]; split <;> rfl
@[simp] theorem pushLoop_sys_imaskp (s : State) (e c : BitVec 32) (b : Option (BitVec 24)) : (s.pushLoop e c b).sys.imaskp = s.sys.imaskp := by simp only [State.pushLoop]; split <;> rfl
@[simp] theorem pushLoop_sys_astat (s : State) (e c : BitVec 32) (b : Option (BitVec 24)) : (s.pushLoop e c b).sys.astat = s.sys.astat := by simp only [State.pushLoop]; split <;> rfl
@[simp] theorem pushLoop_sys_ustat1 (s : State) (e c : BitVec 32) (b : Option (BitVec 24)) : (s.pushLoop e c b).sys.ustat1 = s.sys.ustat1 := by simp only [State.pushLoop]; split <;> rfl
@[simp] theorem pushLoop_sys_ustat2 (s : State) (e c : BitVec 32) (b : Option (BitVec 24)) : (s.pushLoop e c b).sys.ustat2 = s.sys.ustat2 := by simp only [State.pushLoop]; split <;> rfl
@[simp] theorem pushLoop_lat (s : State) (e c : BitVec 32) (b : Option (BitVec 24)) : (s.pushLoop e c b).lat = s.lat := by simp only [State.pushLoop]; split <;> rfl
@[simp] theorem pushLoop_pipe (s : State) (e c : BitVec 32) (b : Option (BitVec 24)) : (s.pushLoop e c b).pipe = s.pipe := by simp only [State.pushLoop]; split <;> rfl
@[simp] theorem pushLoop_stk_pc (s : State) (e c : BitVec 32) (b : Option (BitVec 24)) : (s.pushLoop e c b).stk.pc = s.stk.pc := by simp only [State.pushLoop]; split <;> rfl
@[simp] theorem pushLoop_stk_pcstkp (s : State) (e c : BitVec 32) (b : Option (BitVec 24)) : (s.pushLoop e c b).stk.pcstkp = s.stk.pcstkp := by simp only [State.pushLoop]; split <;> rfl
@[simp] theorem pushLoop_stk_status (s : State) (e c : BitVec 32) (b : Option (BitVec 24)) : (s.pushLoop e c b).stk.status = s.stk.status := by simp only [State.pushLoop]; split <;> rfl
@[simp] theorem pushLoop_cache (s : State) (e c : BitVec 32) (b : Option (BitVec 24)) : (s.pushLoop e c b).cache = s.cache := by simp only [State.pushLoop]; split <;> rfl
@[simp] theorem pushLoop_mem (s : State) (e c : BitVec 32) (b : Option (BitVec 24)) : (s.pushLoop e c b).mem = s.mem := by simp only [State.pushLoop]; split <;> rfl
@[simp] theorem pushLoop_shadow (s : State) (e c : BitVec 32) (b : Option (BitVec 24)) : (s.pushLoop e c b).shadow = s.shadow := by simp only [State.pushLoop]; split <;> rfl
@[simp] theorem pushLoop_iop (s : State) (e c : BitVec 32) (b : Option (BitVec 24)) : (s.pushLoop e c b).iop = s.iop := by simp only [State.pushLoop]; split <;> rfl
@[simp] theorem pushLoop_env (s : State) (e c : BitVec 32) (b : Option (BitVec 24)) : (s.pushLoop e c b).env = s.env := by simp only [State.pushLoop]; split <;> rfl
@[simp] theorem pushLoop_tr_branch (s : State) (e c : BitVec 32) (b : Option (BitVec 24)) : (s.pushLoop e c b).tr.branch = s.tr.branch := by simp only [State.pushLoop]; split <;> rfl
@[simp] theorem pushLoop_tr_stall (s : State) (e c : BitVec 32) (b : Option (BitVec 24)) : (s.pushLoop e c b).tr.stall = s.tr.stall := by simp only [State.pushLoop]; split <;> rfl
@[simp] theorem pushLoop_tr_astatWritten (s : State) (e c : BitVec 32) (b : Option (BitVec 24)) : (s.pushLoop e c b).tr.astatWritten = s.tr.astatWritten := by simp only [State.pushLoop]; split <;> rfl
@[simp] theorem pushLoop_tr_pcstkp (s : State) (e c : BitVec 32) (b : Option (BitVec 24)) : (s.pushLoop e c b).tr.pcstkp = s.tr.pcstkp := by simp only [State.pushLoop]; split <;> rfl
@[simp] theorem pushLoop_tr_imaskpWritten (s : State) (e c : BitVec 32) (b : Option (BitVec 24)) : (s.pushLoop e c b).tr.imaskpWritten = s.tr.imaskpWritten := by simp only [State.pushLoop]; split <;> rfl
@[simp] theorem pushLoop_tr_curlcntr (s : State) (e c : BitVec 32) (b : Option (BitVec 24)) : (s.pushLoop e c b).tr.curlcntr = s.tr.curlcntr := by simp only [State.pushLoop]; split <;> rfl
@[simp] theorem pushLoop_tr_countWritten (s : State) (e c : BitVec 32) (b : Option (BitVec 24)) : (s.pushLoop e c b).tr.countWritten = s.tr.countWritten := by simp only [State.pushLoop]; split <;> rfl
@[simp] theorem pushLoop_tr_notLce (s : State) (e c : BitVec 32) (b : Option (BitVec 24)) : (s.pushLoop e c b).tr.notLce = s.tr.notLce := by simp only [State.pushLoop]; split <;> rfl
@[simp] theorem pushLoop_tr_loopStarted (s : State) (e c : BitVec 32) (b : Option (BitVec 24)) : (s.pushLoop e c b).tr.loopStarted = s.tr.loopStarted := by simp only [State.pushLoop]; split <;> rfl
@[simp] theorem pushLoop_tr_syscon (s : State) (e c : BitVec 32) (b : Option (BitVec 24)) : (s.pushLoop e c b).tr.syscon = s.tr.syscon := by simp only [State.pushLoop]; split <;> rfl
@[simp] theorem pushLoop_tr_reset (s : State) (e c : BitVec 32) (b : Option (BitVec 24)) : (s.pushLoop e c b).tr.reset = s.tr.reset := by simp only [State.pushLoop]; split <;> rfl
@[simp] theorem pushLoop_free (s : State) (e c : BitVec 32) (b : Option (BitVec 24)) : (s.pushLoop e c b).free = s.free := by simp only [State.pushLoop]; split <;> rfl

/-! ### pushStatus -/

@[simp] theorem pushStatus_data (s : State) : s.pushStatus.data = s.data := by unfold State.pushStatus; split <;> rfl
@[simp] theorem pushStatus_dag (s : State) : s.pushStatus.dag = s.dag := by unfold State.pushStatus; split <;> rfl
@[simp] theorem pushStatus_sys_mode1 (s : State) : s.pushStatus.sys.mode1 = s.sys.mode1 := by unfold State.pushStatus; split <;> rfl
@[simp] theorem pushStatus_sys_mode2 (s : State) : s.pushStatus.sys.mode2 = s.sys.mode2 := by unfold State.pushStatus; split <;> rfl
@[simp] theorem pushStatus_sys_irptl (s : State) : s.pushStatus.sys.irptl = s.sys.irptl := by unfold State.pushStatus; split <;> rfl
@[simp] theorem pushStatus_sys_imask (s : State) : s.pushStatus.sys.imask = s.sys.imask := by unfold State.pushStatus; split <;> rfl
@[simp] theorem pushStatus_sys_imaskp (s : State) : s.pushStatus.sys.imaskp = s.sys.imaskp := by unfold State.pushStatus; split <;> rfl
@[simp] theorem pushStatus_sys_astat (s : State) : s.pushStatus.sys.astat = s.sys.astat := by unfold State.pushStatus; split <;> rfl
@[simp] theorem pushStatus_sys_ustat1 (s : State) : s.pushStatus.sys.ustat1 = s.sys.ustat1 := by unfold State.pushStatus; split <;> rfl
@[simp] theorem pushStatus_sys_ustat2 (s : State) : s.pushStatus.sys.ustat2 = s.sys.ustat2 := by unfold State.pushStatus; split <;> rfl
@[simp] theorem pushStatus_lat (s : State) : s.pushStatus.lat = s.lat := by unfold State.pushStatus; split <;> rfl
@[simp] theorem pushStatus_pipe (s : State) : s.pushStatus.pipe = s.pipe := by unfold State.pushStatus; split <;> rfl
@[simp] theorem pushStatus_stk_pc (s : State) : s.pushStatus.stk.pc = s.stk.pc := by unfold State.pushStatus; split <;> rfl
@[simp] theorem pushStatus_stk_pcstkp (s : State) : s.pushStatus.stk.pcstkp = s.stk.pcstkp := by unfold State.pushStatus; split <;> rfl
@[simp] theorem pushStatus_stk_laddr (s : State) : s.pushStatus.stk.laddr = s.stk.laddr := by unfold State.pushStatus; split <;> rfl
@[simp] theorem pushStatus_stk_count (s : State) : s.pushStatus.stk.count = s.stk.count := by unfold State.pushStatus; split <;> rfl
@[simp] theorem pushStatus_stk_initial (s : State) : s.pushStatus.stk.initial = s.stk.initial := by unfold State.pushStatus; split <;> rfl
@[simp] theorem pushStatus_stk_top (s : State) : s.pushStatus.stk.top = s.stk.top := by unfold State.pushStatus; split <;> rfl
@[simp] theorem pushStatus_stk_depth (s : State) : s.pushStatus.stk.depth = s.stk.depth := by unfold State.pushStatus; split <;> rfl
@[simp] theorem pushStatus_cache (s : State) : s.pushStatus.cache = s.cache := by unfold State.pushStatus; split <;> rfl
@[simp] theorem pushStatus_mem (s : State) : s.pushStatus.mem = s.mem := by unfold State.pushStatus; split <;> rfl
@[simp] theorem pushStatus_shadow (s : State) : s.pushStatus.shadow = s.shadow := by unfold State.pushStatus; split <;> rfl
@[simp] theorem pushStatus_iop (s : State) : s.pushStatus.iop = s.iop := by unfold State.pushStatus; split <;> rfl
@[simp] theorem pushStatus_env (s : State) : s.pushStatus.env = s.env := by unfold State.pushStatus; split <;> rfl
@[simp] theorem pushStatus_tr_branch (s : State) : s.pushStatus.tr.branch = s.tr.branch := by unfold State.pushStatus; split <;> rfl
@[simp] theorem pushStatus_tr_stall (s : State) : s.pushStatus.tr.stall = s.tr.stall := by unfold State.pushStatus; split <;> rfl
@[simp] theorem pushStatus_tr_astatWritten (s : State) : s.pushStatus.tr.astatWritten = s.tr.astatWritten := by unfold State.pushStatus; split <;> rfl
@[simp] theorem pushStatus_tr_pcstkp (s : State) : s.pushStatus.tr.pcstkp = s.tr.pcstkp := by unfold State.pushStatus; split <;> rfl
@[simp] theorem pushStatus_tr_imaskpWritten (s : State) : s.pushStatus.tr.imaskpWritten = s.tr.imaskpWritten := by unfold State.pushStatus; split <;> rfl
@[simp] theorem pushStatus_tr_curlcntr (s : State) : s.pushStatus.tr.curlcntr = s.tr.curlcntr := by unfold State.pushStatus; split <;> rfl
@[simp] theorem pushStatus_tr_countWritten (s : State) : s.pushStatus.tr.countWritten = s.tr.countWritten := by unfold State.pushStatus; split <;> rfl
@[simp] theorem pushStatus_tr_notLce (s : State) : s.pushStatus.tr.notLce = s.tr.notLce := by unfold State.pushStatus; split <;> rfl
@[simp] theorem pushStatus_tr_loopStarted (s : State) : s.pushStatus.tr.loopStarted = s.tr.loopStarted := by unfold State.pushStatus; split <;> rfl
@[simp] theorem pushStatus_tr_syscon (s : State) : s.pushStatus.tr.syscon = s.tr.syscon := by unfold State.pushStatus; split <;> rfl
@[simp] theorem pushStatus_tr_reset (s : State) : s.pushStatus.tr.reset = s.tr.reset := by unfold State.pushStatus; split <;> rfl
@[simp] theorem pushStatus_free (s : State) : s.pushStatus.free = s.free := by unfold State.pushStatus; split <;> rfl

/-! ### postmodify -/

@[simp] theorem postmodify_data (s : State) (g : Bool) (k : BitVec 3) (m : BitVec 32) : (s.postmodify g k m).data = s.data := by simp only [State.postmodify]; split <;> simp
@[simp] theorem postmodify_sys_mode1 (s : State) (g : Bool) (k : BitVec 3) (m : BitVec 32) : (s.postmodify g k m).sys.mode1 = s.sys.mode1 := by simp only [State.postmodify]; split <;> simp
@[simp] theorem postmodify_sys_mode2 (s : State) (g : Bool) (k : BitVec 3) (m : BitVec 32) : (s.postmodify g k m).sys.mode2 = s.sys.mode2 := by simp only [State.postmodify]; split <;> simp
@[simp] theorem postmodify_sys_irptl (s : State) (g : Bool) (k : BitVec 3) (m : BitVec 32) : (s.postmodify g k m).sys.irptl = s.sys.irptl := by simp only [State.postmodify]; split <;> simp
@[simp] theorem postmodify_sys_imask (s : State) (g : Bool) (k : BitVec 3) (m : BitVec 32) : (s.postmodify g k m).sys.imask = s.sys.imask := by simp only [State.postmodify]; split <;> simp
@[simp] theorem postmodify_sys_imaskp (s : State) (g : Bool) (k : BitVec 3) (m : BitVec 32) : (s.postmodify g k m).sys.imaskp = s.sys.imaskp := by simp only [State.postmodify]; split <;> simp
@[simp] theorem postmodify_sys_astat (s : State) (g : Bool) (k : BitVec 3) (m : BitVec 32) : (s.postmodify g k m).sys.astat = s.sys.astat := by simp only [State.postmodify]; split <;> simp
@[simp] theorem postmodify_sys_ustat1 (s : State) (g : Bool) (k : BitVec 3) (m : BitVec 32) : (s.postmodify g k m).sys.ustat1 = s.sys.ustat1 := by simp only [State.postmodify]; split <;> simp
@[simp] theorem postmodify_sys_ustat2 (s : State) (g : Bool) (k : BitVec 3) (m : BitVec 32) : (s.postmodify g k m).sys.ustat2 = s.sys.ustat2 := by simp only [State.postmodify]; split <;> simp
@[simp] theorem postmodify_lat (s : State) (g : Bool) (k : BitVec 3) (m : BitVec 32) : (s.postmodify g k m).lat = s.lat := by simp only [State.postmodify]; split <;> simp
@[simp] theorem postmodify_pipe (s : State) (g : Bool) (k : BitVec 3) (m : BitVec 32) : (s.postmodify g k m).pipe = s.pipe := by simp only [State.postmodify]; split <;> simp
@[simp] theorem postmodify_stk (s : State) (g : Bool) (k : BitVec 3) (m : BitVec 32) : (s.postmodify g k m).stk = s.stk := by simp only [State.postmodify]; split <;> simp
@[simp] theorem postmodify_cache (s : State) (g : Bool) (k : BitVec 3) (m : BitVec 32) : (s.postmodify g k m).cache = s.cache := by simp only [State.postmodify]; split <;> simp
@[simp] theorem postmodify_mem (s : State) (g : Bool) (k : BitVec 3) (m : BitVec 32) : (s.postmodify g k m).mem = s.mem := by simp only [State.postmodify]; split <;> simp
@[simp] theorem postmodify_shadow (s : State) (g : Bool) (k : BitVec 3) (m : BitVec 32) : (s.postmodify g k m).shadow = s.shadow := by simp only [State.postmodify]; split <;> simp
@[simp] theorem postmodify_iop (s : State) (g : Bool) (k : BitVec 3) (m : BitVec 32) : (s.postmodify g k m).iop = s.iop := by simp only [State.postmodify]; split <;> simp
@[simp] theorem postmodify_env (s : State) (g : Bool) (k : BitVec 3) (m : BitVec 32) : (s.postmodify g k m).env = s.env := by simp only [State.postmodify]; split <;> simp
@[simp] theorem postmodify_tr_branch (s : State) (g : Bool) (k : BitVec 3) (m : BitVec 32) : (s.postmodify g k m).tr.branch = s.tr.branch := by simp only [State.postmodify]; split <;> simp
@[simp] theorem postmodify_tr_stall (s : State) (g : Bool) (k : BitVec 3) (m : BitVec 32) : (s.postmodify g k m).tr.stall = s.tr.stall := by simp only [State.postmodify]; split <;> simp
@[simp] theorem postmodify_tr_astatWritten (s : State) (g : Bool) (k : BitVec 3) (m : BitVec 32) : (s.postmodify g k m).tr.astatWritten = s.tr.astatWritten := by simp only [State.postmodify]; split <;> simp
@[simp] theorem postmodify_tr_pcstkp (s : State) (g : Bool) (k : BitVec 3) (m : BitVec 32) : (s.postmodify g k m).tr.pcstkp = s.tr.pcstkp := by simp only [State.postmodify]; split <;> simp
@[simp] theorem postmodify_tr_imaskpWritten (s : State) (g : Bool) (k : BitVec 3) (m : BitVec 32) : (s.postmodify g k m).tr.imaskpWritten = s.tr.imaskpWritten := by simp only [State.postmodify]; split <;> simp
@[simp] theorem postmodify_tr_curlcntr (s : State) (g : Bool) (k : BitVec 3) (m : BitVec 32) : (s.postmodify g k m).tr.curlcntr = s.tr.curlcntr := by simp only [State.postmodify]; split <;> simp
@[simp] theorem postmodify_tr_countWritten (s : State) (g : Bool) (k : BitVec 3) (m : BitVec 32) : (s.postmodify g k m).tr.countWritten = s.tr.countWritten := by simp only [State.postmodify]; split <;> simp
@[simp] theorem postmodify_tr_notLce (s : State) (g : Bool) (k : BitVec 3) (m : BitVec 32) : (s.postmodify g k m).tr.notLce = s.tr.notLce := by simp only [State.postmodify]; split <;> simp
@[simp] theorem postmodify_tr_loopStarted (s : State) (g : Bool) (k : BitVec 3) (m : BitVec 32) : (s.postmodify g k m).tr.loopStarted = s.tr.loopStarted := by simp only [State.postmodify]; split <;> simp
@[simp] theorem postmodify_tr_syscon (s : State) (g : Bool) (k : BitVec 3) (m : BitVec 32) : (s.postmodify g k m).tr.syscon = s.tr.syscon := by simp only [State.postmodify]; split <;> simp
@[simp] theorem postmodify_tr_reset (s : State) (g : Bool) (k : BitVec 3) (m : BitVec 32) : (s.postmodify g k m).tr.reset = s.tr.reset := by simp only [State.postmodify]; split <;> simp
@[simp] theorem postmodify_free (s : State) (g : Bool) (k : BitVec 3) (m : BitVec 32) : (s.postmodify g k m).free = s.free := by simp only [State.postmodify]; split <;> simp

/-! ### flush -/

@[simp] theorem flush_data (s : State) : s.flush.data = s.data := rfl
@[simp] theorem flush_dag (s : State) : s.flush.dag = s.dag := rfl
@[simp] theorem flush_sys (s : State) : s.flush.sys = s.sys := rfl
@[simp] theorem flush_lat (s : State) : s.flush.lat = s.lat := rfl
@[simp] theorem flush_pipe (s : State) : s.flush.pipe = s.pipe := rfl
@[simp] theorem flush_stk (s : State) : s.flush.stk = s.stk := rfl
@[simp] theorem flush_mem (s : State) : s.flush.mem = s.mem := rfl
@[simp] theorem flush_shadow (s : State) : s.flush.shadow = s.shadow := rfl
@[simp] theorem flush_iop (s : State) : s.flush.iop = s.iop := rfl
@[simp] theorem flush_env (s : State) : s.flush.env = s.env := rfl
@[simp] theorem flush_tr (s : State) : s.flush.tr = s.tr := rfl
@[simp] theorem flush_free (s : State) : s.flush.free = s.free := rfl

/-! ### setEp -/

@[simp] theorem setEp_data (s : State) (x : Bool) (e : ExtPort) : (s.setEp x e).data = s.data := by unfold State.setEp; split <;> rfl
@[simp] theorem setEp_dag (s : State) (x : Bool) (e : ExtPort) : (s.setEp x e).dag = s.dag := by unfold State.setEp; split <;> rfl
@[simp] theorem setEp_sys (s : State) (x : Bool) (e : ExtPort) : (s.setEp x e).sys = s.sys := by unfold State.setEp; split <;> rfl
@[simp] theorem setEp_lat (s : State) (x : Bool) (e : ExtPort) : (s.setEp x e).lat = s.lat := by unfold State.setEp; split <;> rfl
@[simp] theorem setEp_pipe (s : State) (x : Bool) (e : ExtPort) : (s.setEp x e).pipe = s.pipe := by unfold State.setEp; split <;> rfl
@[simp] theorem setEp_stk (s : State) (x : Bool) (e : ExtPort) : (s.setEp x e).stk = s.stk := by unfold State.setEp; split <;> rfl
@[simp] theorem setEp_cache (s : State) (x : Bool) (e : ExtPort) : (s.setEp x e).cache = s.cache := by unfold State.setEp; split <;> rfl
@[simp] theorem setEp_mem (s : State) (x : Bool) (e : ExtPort) : (s.setEp x e).mem = s.mem := by unfold State.setEp; split <;> rfl
@[simp] theorem setEp_shadow (s : State) (x : Bool) (e : ExtPort) : (s.setEp x e).shadow = s.shadow := by unfold State.setEp; split <;> rfl
@[simp] theorem setEp_iop_sys (s : State) (x : Bool) (e : ExtPort) : (s.setEp x e).iop.sys = s.iop.sys := by unfold State.setEp; split <;> rfl
@[simp] theorem setEp_iop_hid (s : State) (x : Bool) (e : ExtPort) : (s.setEp x e).iop.hid = s.iop.hid := by unfold State.setEp; split <;> rfl
@[simp] theorem setEp_iop_dma (s : State) (x : Bool) (e : ExtPort) : (s.setEp x e).iop.dma = s.iop.dma := by unfold State.setEp; split <;> rfl
@[simp] theorem setEp_iop_sport0 (s : State) (x : Bool) (e : ExtPort) : (s.setEp x e).iop.sport0 = s.iop.sport0 := by unfold State.setEp; split <;> rfl
@[simp] theorem setEp_iop_sport1 (s : State) (x : Bool) (e : ExtPort) : (s.setEp x e).iop.sport1 = s.iop.sport1 := by unfold State.setEp; split <;> rfl
@[simp] theorem setEp_iop_timer0 (s : State) (x : Bool) (e : ExtPort) : (s.setEp x e).iop.timer0 = s.iop.timer0 := by unfold State.setEp; split <;> rfl
@[simp] theorem setEp_iop_timer1 (s : State) (x : Bool) (e : ExtPort) : (s.setEp x e).iop.timer1 = s.iop.timer1 := by unfold State.setEp; split <;> rfl
@[simp] theorem setEp_env (s : State) (x : Bool) (e : ExtPort) : (s.setEp x e).env = s.env := by unfold State.setEp; split <;> rfl
@[simp] theorem setEp_tr (s : State) (x : Bool) (e : ExtPort) : (s.setEp x e).tr = s.tr := by unfold State.setEp; split <;> rfl
@[simp] theorem setEp_free (s : State) (x : Bool) (e : ExtPort) : (s.setEp x e).free = s.free := by unfold State.setEp; split <;> rfl

/-! ### setSport -/

@[simp] theorem setSport_data (s : State) (x : Bool) (p : Sport) : (s.setSport x p).data = s.data := by unfold State.setSport; split <;> rfl
@[simp] theorem setSport_dag (s : State) (x : Bool) (p : Sport) : (s.setSport x p).dag = s.dag := by unfold State.setSport; split <;> rfl
@[simp] theorem setSport_sys (s : State) (x : Bool) (p : Sport) : (s.setSport x p).sys = s.sys := by unfold State.setSport; split <;> rfl
@[simp] theorem setSport_lat (s : State) (x : Bool) (p : Sport) : (s.setSport x p).lat = s.lat := by unfold State.setSport; split <;> rfl
@[simp] theorem setSport_pipe (s : State) (x : Bool) (p : Sport) : (s.setSport x p).pipe = s.pipe := by unfold State.setSport; split <;> rfl
@[simp] theorem setSport_stk (s : State) (x : Bool) (p : Sport) : (s.setSport x p).stk = s.stk := by unfold State.setSport; split <;> rfl
@[simp] theorem setSport_cache (s : State) (x : Bool) (p : Sport) : (s.setSport x p).cache = s.cache := by unfold State.setSport; split <;> rfl
@[simp] theorem setSport_mem (s : State) (x : Bool) (p : Sport) : (s.setSport x p).mem = s.mem := by unfold State.setSport; split <;> rfl
@[simp] theorem setSport_shadow (s : State) (x : Bool) (p : Sport) : (s.setSport x p).shadow = s.shadow := by unfold State.setSport; split <;> rfl
@[simp] theorem setSport_iop_sys (s : State) (x : Bool) (p : Sport) : (s.setSport x p).iop.sys = s.iop.sys := by unfold State.setSport; split <;> rfl
@[simp] theorem setSport_iop_hid (s : State) (x : Bool) (p : Sport) : (s.setSport x p).iop.hid = s.iop.hid := by unfold State.setSport; split <;> rfl
@[simp] theorem setSport_iop_dma (s : State) (x : Bool) (p : Sport) : (s.setSport x p).iop.dma = s.iop.dma := by unfold State.setSport; split <;> rfl
@[simp] theorem setSport_iop_ep0 (s : State) (x : Bool) (p : Sport) : (s.setSport x p).iop.ep0 = s.iop.ep0 := by unfold State.setSport; split <;> rfl
@[simp] theorem setSport_iop_ep1 (s : State) (x : Bool) (p : Sport) : (s.setSport x p).iop.ep1 = s.iop.ep1 := by unfold State.setSport; split <;> rfl
@[simp] theorem setSport_iop_timer0 (s : State) (x : Bool) (p : Sport) : (s.setSport x p).iop.timer0 = s.iop.timer0 := by unfold State.setSport; split <;> rfl
@[simp] theorem setSport_iop_timer1 (s : State) (x : Bool) (p : Sport) : (s.setSport x p).iop.timer1 = s.iop.timer1 := by unfold State.setSport; split <;> rfl
@[simp] theorem setSport_env (s : State) (x : Bool) (p : Sport) : (s.setSport x p).env = s.env := by unfold State.setSport; split <;> rfl
@[simp] theorem setSport_tr (s : State) (x : Bool) (p : Sport) : (s.setSport x p).tr = s.tr := by unfold State.setSport; split <;> rfl
@[simp] theorem setSport_free (s : State) (x : Bool) (p : Sport) : (s.setSport x p).free = s.free := by unfold State.setSport; split <;> rfl

/-! ### setChan -/

@[simp] theorem setChan_data (s : State) (c : Fin 10) (d : DmaChannel) : (s.setChan c d).data = s.data := rfl
@[simp] theorem setChan_dag (s : State) (c : Fin 10) (d : DmaChannel) : (s.setChan c d).dag = s.dag := rfl
@[simp] theorem setChan_sys (s : State) (c : Fin 10) (d : DmaChannel) : (s.setChan c d).sys = s.sys := rfl
@[simp] theorem setChan_lat (s : State) (c : Fin 10) (d : DmaChannel) : (s.setChan c d).lat = s.lat := rfl
@[simp] theorem setChan_pipe (s : State) (c : Fin 10) (d : DmaChannel) : (s.setChan c d).pipe = s.pipe := rfl
@[simp] theorem setChan_stk (s : State) (c : Fin 10) (d : DmaChannel) : (s.setChan c d).stk = s.stk := rfl
@[simp] theorem setChan_cache (s : State) (c : Fin 10) (d : DmaChannel) : (s.setChan c d).cache = s.cache := rfl
@[simp] theorem setChan_mem (s : State) (c : Fin 10) (d : DmaChannel) : (s.setChan c d).mem = s.mem := rfl
@[simp] theorem setChan_shadow (s : State) (c : Fin 10) (d : DmaChannel) : (s.setChan c d).shadow = s.shadow := rfl
@[simp] theorem setChan_iop_sys (s : State) (c : Fin 10) (d : DmaChannel) : (s.setChan c d).iop.sys = s.iop.sys := rfl
@[simp] theorem setChan_iop_hid (s : State) (c : Fin 10) (d : DmaChannel) : (s.setChan c d).iop.hid = s.iop.hid := rfl
@[simp] theorem setChan_iop_ep0 (s : State) (c : Fin 10) (d : DmaChannel) : (s.setChan c d).iop.ep0 = s.iop.ep0 := rfl
@[simp] theorem setChan_iop_ep1 (s : State) (c : Fin 10) (d : DmaChannel) : (s.setChan c d).iop.ep1 = s.iop.ep1 := rfl
@[simp] theorem setChan_iop_sport0 (s : State) (c : Fin 10) (d : DmaChannel) : (s.setChan c d).iop.sport0 = s.iop.sport0 := rfl
@[simp] theorem setChan_iop_sport1 (s : State) (c : Fin 10) (d : DmaChannel) : (s.setChan c d).iop.sport1 = s.iop.sport1 := rfl
@[simp] theorem setChan_iop_timer0 (s : State) (c : Fin 10) (d : DmaChannel) : (s.setChan c d).iop.timer0 = s.iop.timer0 := rfl
@[simp] theorem setChan_iop_timer1 (s : State) (c : Fin 10) (d : DmaChannel) : (s.setChan c d).iop.timer1 = s.iop.timer1 := rfl
@[simp] theorem setChan_env (s : State) (c : Fin 10) (d : DmaChannel) : (s.setChan c d).env = s.env := rfl
@[simp] theorem setChan_tr (s : State) (c : Fin 10) (d : DmaChannel) : (s.setChan c d).tr = s.tr := rfl
@[simp] theorem setChan_free (s : State) (c : Fin 10) (d : DmaChannel) : (s.setChan c d).free = s.free := rfl

/-! ### setTimer -/

@[simp] theorem setTimer_data (s : State) (x : Bool) (t : Timer) : (s.setTimer x t).data = s.data := by unfold State.setTimer; split <;> rfl
@[simp] theorem setTimer_dag (s : State) (x : Bool) (t : Timer) : (s.setTimer x t).dag = s.dag := by unfold State.setTimer; split <;> rfl
@[simp] theorem setTimer_sys (s : State) (x : Bool) (t : Timer) : (s.setTimer x t).sys = s.sys := by unfold State.setTimer; split <;> rfl
@[simp] theorem setTimer_lat (s : State) (x : Bool) (t : Timer) : (s.setTimer x t).lat = s.lat := by unfold State.setTimer; split <;> rfl
@[simp] theorem setTimer_pipe (s : State) (x : Bool) (t : Timer) : (s.setTimer x t).pipe = s.pipe := by unfold State.setTimer; split <;> rfl
@[simp] theorem setTimer_stk (s : State) (x : Bool) (t : Timer) : (s.setTimer x t).stk = s.stk := by unfold State.setTimer; split <;> rfl
@[simp] theorem setTimer_cache (s : State) (x : Bool) (t : Timer) : (s.setTimer x t).cache = s.cache := by unfold State.setTimer; split <;> rfl
@[simp] theorem setTimer_mem (s : State) (x : Bool) (t : Timer) : (s.setTimer x t).mem = s.mem := by unfold State.setTimer; split <;> rfl
@[simp] theorem setTimer_shadow (s : State) (x : Bool) (t : Timer) : (s.setTimer x t).shadow = s.shadow := by unfold State.setTimer; split <;> rfl
@[simp] theorem setTimer_iop_sys (s : State) (x : Bool) (t : Timer) : (s.setTimer x t).iop.sys = s.iop.sys := by unfold State.setTimer; split <;> rfl
@[simp] theorem setTimer_iop_hid (s : State) (x : Bool) (t : Timer) : (s.setTimer x t).iop.hid = s.iop.hid := by unfold State.setTimer; split <;> rfl
@[simp] theorem setTimer_iop_dma (s : State) (x : Bool) (t : Timer) : (s.setTimer x t).iop.dma = s.iop.dma := by unfold State.setTimer; split <;> rfl
@[simp] theorem setTimer_iop_ep0 (s : State) (x : Bool) (t : Timer) : (s.setTimer x t).iop.ep0 = s.iop.ep0 := by unfold State.setTimer; split <;> rfl
@[simp] theorem setTimer_iop_ep1 (s : State) (x : Bool) (t : Timer) : (s.setTimer x t).iop.ep1 = s.iop.ep1 := by unfold State.setTimer; split <;> rfl
@[simp] theorem setTimer_iop_sport0 (s : State) (x : Bool) (t : Timer) : (s.setTimer x t).iop.sport0 = s.iop.sport0 := by unfold State.setTimer; split <;> rfl
@[simp] theorem setTimer_iop_sport1 (s : State) (x : Bool) (t : Timer) : (s.setTimer x t).iop.sport1 = s.iop.sport1 := by unfold State.setTimer; split <;> rfl
@[simp] theorem setTimer_env (s : State) (x : Bool) (t : Timer) : (s.setTimer x t).env = s.env := by unfold State.setTimer; split <;> rfl
@[simp] theorem setTimer_tr (s : State) (x : Bool) (t : Timer) : (s.setTimer x t).tr = s.tr := by unfold State.setTimer; split <;> rfl
@[simp] theorem setTimer_free (s : State) (x : Bool) (t : Timer) : (s.setTimer x t).free = s.free := by unfold State.setTimer; split <;> rfl

/-! ### payBudget -/

@[simp] theorem payBudget_data (s : State) : s.payBudget.data = s.data := rfl
@[simp] theorem payBudget_dag (s : State) : s.payBudget.dag = s.dag := rfl
@[simp] theorem payBudget_sys (s : State) : s.payBudget.sys = s.sys := rfl
@[simp] theorem payBudget_lat (s : State) : s.payBudget.lat = s.lat := rfl
@[simp] theorem payBudget_pipe (s : State) : s.payBudget.pipe = s.pipe := rfl
@[simp] theorem payBudget_stk (s : State) : s.payBudget.stk = s.stk := rfl
@[simp] theorem payBudget_cache (s : State) : s.payBudget.cache = s.cache := rfl
@[simp] theorem payBudget_mem (s : State) : s.payBudget.mem = s.mem := rfl
@[simp] theorem payBudget_shadow (s : State) : s.payBudget.shadow = s.shadow := rfl
@[simp] theorem payBudget_iop_dma (s : State) : s.payBudget.iop.dma = s.iop.dma := rfl
@[simp] theorem payBudget_iop_ep0 (s : State) : s.payBudget.iop.ep0 = s.iop.ep0 := rfl
@[simp] theorem payBudget_iop_ep1 (s : State) : s.payBudget.iop.ep1 = s.iop.ep1 := rfl
@[simp] theorem payBudget_iop_sport0 (s : State) : s.payBudget.iop.sport0 = s.iop.sport0 := rfl
@[simp] theorem payBudget_iop_sport1 (s : State) : s.payBudget.iop.sport1 = s.iop.sport1 := rfl
@[simp] theorem payBudget_iop_timer0 (s : State) : s.payBudget.iop.timer0 = s.iop.timer0 := rfl
@[simp] theorem payBudget_iop_timer1 (s : State) : s.payBudget.iop.timer1 = s.iop.timer1 := rfl
@[simp] theorem payBudget_env (s : State) : s.payBudget.env = s.env := rfl
@[simp] theorem payBudget_tr (s : State) : s.payBudget.tr = s.tr := rfl
@[simp] theorem payBudget_free (s : State) : s.payBudget.free = s.free := rfl

/-! ### noteLoads -/

@[simp] theorem noteLoads_data (t s : State) (i : Option Instr) : (t.noteLoads s i).data = t.data := rfl
@[simp] theorem noteLoads_dag (t s : State) (i : Option Instr) : (t.noteLoads s i).dag = t.dag := rfl
@[simp] theorem noteLoads_sys (t s : State) (i : Option Instr) : (t.noteLoads s i).sys = t.sys := rfl
@[simp] theorem noteLoads_pipe (t s : State) (i : Option Instr) : (t.noteLoads s i).pipe = t.pipe := rfl
@[simp] theorem noteLoads_stk (t s : State) (i : Option Instr) : (t.noteLoads s i).stk = t.stk := rfl
@[simp] theorem noteLoads_cache (t s : State) (i : Option Instr) : (t.noteLoads s i).cache = t.cache := rfl
@[simp] theorem noteLoads_mem (t s : State) (i : Option Instr) : (t.noteLoads s i).mem = t.mem := rfl
@[simp] theorem noteLoads_shadow (t s : State) (i : Option Instr) : (t.noteLoads s i).shadow = t.shadow := rfl
@[simp] theorem noteLoads_iop (t s : State) (i : Option Instr) : (t.noteLoads s i).iop = t.iop := rfl
@[simp] theorem noteLoads_env (t s : State) (i : Option Instr) : (t.noteLoads s i).env = t.env := rfl
@[simp] theorem noteLoads_tr (t s : State) (i : Option Instr) : (t.noteLoads s i).tr = t.tr := rfl
@[simp] theorem noteLoads_free (t s : State) (i : Option Instr) : (t.noteLoads s i).free = t.free := rfl
@[simp] theorem noteLoads_lat_mode1 (t s : State) (i : Option Instr) : (t.noteLoads s i).lat.mode1 = t.lat.mode1 := rfl
@[simp] theorem noteLoads_lat_mode2 (t s : State) (i : Option Instr) : (t.noteLoads s i).lat.mode2 = t.lat.mode2 := rfl
@[simp] theorem noteLoads_lat_astat (t s : State) (i : Option Instr) : (t.noteLoads s i).lat.astat = t.lat.astat := rfl
@[simp] theorem noteLoads_lat_imaskp (t s : State) (i : Option Instr) : (t.noteLoads s i).lat.imaskp = t.lat.imaskp := rfl
@[simp] theorem noteLoads_lat_pcstkp (t s : State) (i : Option Instr) : (t.noteLoads s i).lat.pcstkp = t.lat.pcstkp := rfl
@[simp] theorem noteLoads_lat_curlcntr (t s : State) (i : Option Instr) : (t.noteLoads s i).lat.curlcntr = t.lat.curlcntr := rfl
@[simp] theorem noteLoads_lat_syscon (t s : State) (i : Option Instr) : (t.noteLoads s i).lat.syscon = t.lat.syscon := rfl
@[simp] theorem noteLoads_lat_afterNotLce (t s : State) (i : Option Instr) : (t.noteLoads s i).lat.afterNotLce = t.lat.afterNotLce := rfl
@[simp] theorem noteLoads_lat_master (t s : State) (i : Option Instr) : (t.noteLoads s i).lat.master = t.lat.master := rfl

/-! ### stopChan -/

@[simp] theorem stopChan_data (s : State) (c : Fin 10) : (s.stopChan c).data = s.data := rfl
@[simp] theorem stopChan_dag (s : State) (c : Fin 10) : (s.stopChan c).dag = s.dag := rfl
@[simp] theorem stopChan_sys (s : State) (c : Fin 10) : (s.stopChan c).sys = s.sys := rfl
@[simp] theorem stopChan_lat (s : State) (c : Fin 10) : (s.stopChan c).lat = s.lat := rfl
@[simp] theorem stopChan_pipe (s : State) (c : Fin 10) : (s.stopChan c).pipe = s.pipe := rfl
@[simp] theorem stopChan_stk (s : State) (c : Fin 10) : (s.stopChan c).stk = s.stk := rfl
@[simp] theorem stopChan_cache (s : State) (c : Fin 10) : (s.stopChan c).cache = s.cache := rfl
@[simp] theorem stopChan_mem (s : State) (c : Fin 10) : (s.stopChan c).mem = s.mem := rfl
@[simp] theorem stopChan_shadow (s : State) (c : Fin 10) : (s.stopChan c).shadow = s.shadow := rfl
@[simp] theorem stopChan_iop_sys (s : State) (c : Fin 10) : (s.stopChan c).iop.sys = s.iop.sys := rfl
@[simp] theorem stopChan_iop_ep0 (s : State) (c : Fin 10) : (s.stopChan c).iop.ep0 = s.iop.ep0 := rfl
@[simp] theorem stopChan_iop_ep1 (s : State) (c : Fin 10) : (s.stopChan c).iop.ep1 = s.iop.ep1 := rfl
@[simp] theorem stopChan_iop_sport0 (s : State) (c : Fin 10) : (s.stopChan c).iop.sport0 = s.iop.sport0 := rfl
@[simp] theorem stopChan_iop_sport1 (s : State) (c : Fin 10) : (s.stopChan c).iop.sport1 = s.iop.sport1 := rfl
@[simp] theorem stopChan_iop_timer0 (s : State) (c : Fin 10) : (s.stopChan c).iop.timer0 = s.iop.timer0 := rfl
@[simp] theorem stopChan_iop_timer1 (s : State) (c : Fin 10) : (s.stopChan c).iop.timer1 = s.iop.timer1 := rfl
@[simp] theorem stopChan_env (s : State) (c : Fin 10) : (s.stopChan c).env = s.env := rfl
@[simp] theorem stopChan_tr (s : State) (c : Fin 10) : (s.stopChan c).tr = s.tr := rfl
@[simp] theorem stopChan_free (s : State) (c : Fin 10) : (s.stopChan c).free = s.free := rfl

/-! ### timerEvent -/

@[simp] theorem timerEvent_data (s : State) (x e : Bool) : (s.timerEvent x e).data = s.data := rfl
@[simp] theorem timerEvent_dag (s : State) (x e : Bool) : (s.timerEvent x e).dag = s.dag := rfl
@[simp] theorem timerEvent_sys_mode1 (s : State) (x e : Bool) : (s.timerEvent x e).sys.mode1 = s.sys.mode1 := rfl
@[simp] theorem timerEvent_sys_mode2 (s : State) (x e : Bool) : (s.timerEvent x e).sys.mode2 = s.sys.mode2 := rfl
@[simp] theorem timerEvent_sys_irptl (s : State) (x e : Bool) : (s.timerEvent x e).sys.irptl = s.sys.irptl := rfl
@[simp] theorem timerEvent_sys_imask (s : State) (x e : Bool) : (s.timerEvent x e).sys.imask = s.sys.imask := rfl
@[simp] theorem timerEvent_sys_imaskp (s : State) (x e : Bool) : (s.timerEvent x e).sys.imaskp = s.sys.imaskp := rfl
@[simp] theorem timerEvent_sys_astat (s : State) (x e : Bool) : (s.timerEvent x e).sys.astat = s.sys.astat := rfl
@[simp] theorem timerEvent_sys_ustat1 (s : State) (x e : Bool) : (s.timerEvent x e).sys.ustat1 = s.sys.ustat1 := rfl
@[simp] theorem timerEvent_sys_ustat2 (s : State) (x e : Bool) : (s.timerEvent x e).sys.ustat2 = s.sys.ustat2 := rfl
@[simp] theorem timerEvent_lat (s : State) (x e : Bool) : (s.timerEvent x e).lat = s.lat := rfl
@[simp] theorem timerEvent_pipe (s : State) (x e : Bool) : (s.timerEvent x e).pipe = s.pipe := rfl
@[simp] theorem timerEvent_stk (s : State) (x e : Bool) : (s.timerEvent x e).stk = s.stk := rfl
@[simp] theorem timerEvent_cache (s : State) (x e : Bool) : (s.timerEvent x e).cache = s.cache := rfl
@[simp] theorem timerEvent_mem (s : State) (x e : Bool) : (s.timerEvent x e).mem = s.mem := rfl
@[simp] theorem timerEvent_shadow (s : State) (x e : Bool) : (s.timerEvent x e).shadow = s.shadow := rfl
@[simp] theorem timerEvent_iop (s : State) (x e : Bool) : (s.timerEvent x e).iop = s.iop := rfl
@[simp] theorem timerEvent_env (s : State) (x e : Bool) : (s.timerEvent x e).env = s.env := rfl
@[simp] theorem timerEvent_tr_branch (s : State) (x e : Bool) : (s.timerEvent x e).tr.branch = s.tr.branch := rfl
@[simp] theorem timerEvent_tr_stall (s : State) (x e : Bool) : (s.timerEvent x e).tr.stall = s.tr.stall := rfl
@[simp] theorem timerEvent_tr_astatWritten (s : State) (x e : Bool) : (s.timerEvent x e).tr.astatWritten = s.tr.astatWritten := rfl
@[simp] theorem timerEvent_tr_pcstkp (s : State) (x e : Bool) : (s.timerEvent x e).tr.pcstkp = s.tr.pcstkp := rfl
@[simp] theorem timerEvent_tr_imaskpWritten (s : State) (x e : Bool) : (s.timerEvent x e).tr.imaskpWritten = s.tr.imaskpWritten := rfl
@[simp] theorem timerEvent_tr_curlcntr (s : State) (x e : Bool) : (s.timerEvent x e).tr.curlcntr = s.tr.curlcntr := rfl
@[simp] theorem timerEvent_tr_countWritten (s : State) (x e : Bool) : (s.timerEvent x e).tr.countWritten = s.tr.countWritten := rfl
@[simp] theorem timerEvent_tr_notLce (s : State) (x e : Bool) : (s.timerEvent x e).tr.notLce = s.tr.notLce := rfl
@[simp] theorem timerEvent_tr_loopStarted (s : State) (x e : Bool) : (s.timerEvent x e).tr.loopStarted = s.tr.loopStarted := rfl
@[simp] theorem timerEvent_tr_syscon (s : State) (x e : Bool) : (s.timerEvent x e).tr.syscon = s.tr.syscon := rfl
@[simp] theorem timerEvent_tr_reset (s : State) (x e : Bool) : (s.timerEvent x e).tr.reset = s.tr.reset := rfl
@[simp] theorem timerEvent_free (s : State) (x e : Bool) : (s.timerEvent x e).free = s.free := rfl

/-! ### fresh -/

@[simp] theorem fresh_data (s : State) : s.fresh.data = s.data := rfl
@[simp] theorem fresh_dag (s : State) : s.fresh.dag = s.dag := rfl
@[simp] theorem fresh_sys (s : State) : s.fresh.sys = s.sys := rfl
@[simp] theorem fresh_lat (s : State) : s.fresh.lat = s.lat := rfl
@[simp] theorem fresh_pipe (s : State) : s.fresh.pipe = s.pipe := rfl
@[simp] theorem fresh_stk (s : State) : s.fresh.stk = s.stk := rfl
@[simp] theorem fresh_cache (s : State) : s.fresh.cache = s.cache := rfl
@[simp] theorem fresh_mem (s : State) : s.fresh.mem = s.mem := rfl
@[simp] theorem fresh_shadow (s : State) : s.fresh.shadow = s.shadow := rfl
@[simp] theorem fresh_iop_sys (s : State) : s.fresh.iop.sys = s.iop.sys := rfl
@[simp] theorem fresh_iop_dma (s : State) : s.fresh.iop.dma = s.iop.dma := rfl
@[simp] theorem fresh_iop_ep0 (s : State) : s.fresh.iop.ep0 = s.iop.ep0 := rfl
@[simp] theorem fresh_iop_ep1 (s : State) : s.fresh.iop.ep1 = s.iop.ep1 := rfl
@[simp] theorem fresh_iop_sport0 (s : State) : s.fresh.iop.sport0 = s.iop.sport0 := rfl
@[simp] theorem fresh_iop_sport1 (s : State) : s.fresh.iop.sport1 = s.iop.sport1 := rfl
@[simp] theorem fresh_iop_timer0 (s : State) : s.fresh.iop.timer0 = s.iop.timer0 := rfl
@[simp] theorem fresh_iop_timer1 (s : State) : s.fresh.iop.timer1 = s.iop.timer1 := rfl
@[simp] theorem fresh_env (s : State) : s.fresh.env = s.env := rfl
@[simp] theorem fresh_free (s : State) : s.fresh.free = s.free := rfl

/-! ### setCacheSet -/

@[simp] theorem setCacheSet_data (s : State) (a : BitVec 24) (c : CacheSet) : (s.setCacheSet a c).data = s.data := rfl
@[simp] theorem setCacheSet_dag (s : State) (a : BitVec 24) (c : CacheSet) : (s.setCacheSet a c).dag = s.dag := rfl
@[simp] theorem setCacheSet_sys (s : State) (a : BitVec 24) (c : CacheSet) : (s.setCacheSet a c).sys = s.sys := rfl
@[simp] theorem setCacheSet_lat (s : State) (a : BitVec 24) (c : CacheSet) : (s.setCacheSet a c).lat = s.lat := rfl
@[simp] theorem setCacheSet_pipe (s : State) (a : BitVec 24) (c : CacheSet) : (s.setCacheSet a c).pipe = s.pipe := rfl
@[simp] theorem setCacheSet_stk (s : State) (a : BitVec 24) (c : CacheSet) : (s.setCacheSet a c).stk = s.stk := rfl
@[simp] theorem setCacheSet_mem (s : State) (a : BitVec 24) (c : CacheSet) : (s.setCacheSet a c).mem = s.mem := rfl
@[simp] theorem setCacheSet_shadow (s : State) (a : BitVec 24) (c : CacheSet) : (s.setCacheSet a c).shadow = s.shadow := rfl
@[simp] theorem setCacheSet_iop (s : State) (a : BitVec 24) (c : CacheSet) : (s.setCacheSet a c).iop = s.iop := rfl
@[simp] theorem setCacheSet_env (s : State) (a : BitVec 24) (c : CacheSet) : (s.setCacheSet a c).env = s.env := rfl
@[simp] theorem setCacheSet_tr (s : State) (a : BitVec 24) (c : CacheSet) : (s.setCacheSet a c).tr = s.tr := rfl
@[simp] theorem setCacheSet_free (s : State) (a : BitVec 24) (c : CacheSet) : (s.setCacheSet a c).free = s.free := rfl

/-! ### takeInterrupt -/

@[simp] theorem takeInterrupt_data (s : State) (k : Nat) (v : BitVec 24) : (s.takeInterrupt k v).data = s.data := by simp only [State.takeInterrupt]; first | rfl | (split <;> simp)
@[simp] theorem takeInterrupt_dag (s : State) (k : Nat) (v : BitVec 24) : (s.takeInterrupt k v).dag = s.dag := by simp only [State.takeInterrupt]; first | rfl | (split <;> simp)
@[simp] theorem takeInterrupt_sys_mode1 (s : State) (k : Nat) (v : BitVec 24) : (s.takeInterrupt k v).sys.mode1 = s.sys.mode1 := by simp only [State.takeInterrupt]; first | rfl | (split <;> simp)
@[simp] theorem takeInterrupt_sys_mode2 (s : State) (k : Nat) (v : BitVec 24) : (s.takeInterrupt k v).sys.mode2 = s.sys.mode2 := by simp only [State.takeInterrupt]; first | rfl | (split <;> simp)
@[simp] theorem takeInterrupt_sys_imask (s : State) (k : Nat) (v : BitVec 24) : (s.takeInterrupt k v).sys.imask = s.sys.imask := by simp only [State.takeInterrupt]; first | rfl | (split <;> simp)
@[simp] theorem takeInterrupt_sys_astat (s : State) (k : Nat) (v : BitVec 24) : (s.takeInterrupt k v).sys.astat = s.sys.astat := by simp only [State.takeInterrupt]; first | rfl | (split <;> simp)
@[simp] theorem takeInterrupt_sys_ustat1 (s : State) (k : Nat) (v : BitVec 24) : (s.takeInterrupt k v).sys.ustat1 = s.sys.ustat1 := by simp only [State.takeInterrupt]; first | rfl | (split <;> simp)
@[simp] theorem takeInterrupt_sys_ustat2 (s : State) (k : Nat) (v : BitVec 24) : (s.takeInterrupt k v).sys.ustat2 = s.sys.ustat2 := by simp only [State.takeInterrupt]; first | rfl | (split <;> simp)
@[simp] theorem takeInterrupt_lat (s : State) (k : Nat) (v : BitVec 24) : (s.takeInterrupt k v).lat = s.lat := by simp only [State.takeInterrupt]; first | rfl | (split <;> simp)
@[simp] theorem takeInterrupt_stk_laddr (s : State) (k : Nat) (v : BitVec 24) : (s.takeInterrupt k v).stk.laddr = s.stk.laddr := by simp only [State.takeInterrupt]; first | rfl | (split <;> simp)
@[simp] theorem takeInterrupt_stk_count (s : State) (k : Nat) (v : BitVec 24) : (s.takeInterrupt k v).stk.count = s.stk.count := by simp only [State.takeInterrupt]; first | rfl | (split <;> simp)
@[simp] theorem takeInterrupt_stk_initial (s : State) (k : Nat) (v : BitVec 24) : (s.takeInterrupt k v).stk.initial = s.stk.initial := by simp only [State.takeInterrupt]; first | rfl | (split <;> simp)
@[simp] theorem takeInterrupt_stk_top (s : State) (k : Nat) (v : BitVec 24) : (s.takeInterrupt k v).stk.top = s.stk.top := by simp only [State.takeInterrupt]; first | rfl | (split <;> simp)
@[simp] theorem takeInterrupt_stk_depth (s : State) (k : Nat) (v : BitVec 24) : (s.takeInterrupt k v).stk.depth = s.stk.depth := by simp only [State.takeInterrupt]; first | rfl | (split <;> simp)
@[simp] theorem takeInterrupt_cache (s : State) (k : Nat) (v : BitVec 24) : (s.takeInterrupt k v).cache = s.cache := by simp only [State.takeInterrupt]; first | rfl | (split <;> simp)
@[simp] theorem takeInterrupt_mem (s : State) (k : Nat) (v : BitVec 24) : (s.takeInterrupt k v).mem = s.mem := by simp only [State.takeInterrupt]; first | rfl | (split <;> simp)
@[simp] theorem takeInterrupt_shadow (s : State) (k : Nat) (v : BitVec 24) : (s.takeInterrupt k v).shadow = s.shadow := by simp only [State.takeInterrupt]; first | rfl | (split <;> simp)
@[simp] theorem takeInterrupt_iop_sys (s : State) (k : Nat) (v : BitVec 24) : (s.takeInterrupt k v).iop.sys = s.iop.sys := by simp only [State.takeInterrupt]; first | rfl | (split <;> simp)
@[simp] theorem takeInterrupt_iop_dma (s : State) (k : Nat) (v : BitVec 24) : (s.takeInterrupt k v).iop.dma = s.iop.dma := by simp only [State.takeInterrupt]; first | rfl | (split <;> simp)
@[simp] theorem takeInterrupt_iop_ep0 (s : State) (k : Nat) (v : BitVec 24) : (s.takeInterrupt k v).iop.ep0 = s.iop.ep0 := by simp only [State.takeInterrupt]; first | rfl | (split <;> simp)
@[simp] theorem takeInterrupt_iop_ep1 (s : State) (k : Nat) (v : BitVec 24) : (s.takeInterrupt k v).iop.ep1 = s.iop.ep1 := by simp only [State.takeInterrupt]; first | rfl | (split <;> simp)
@[simp] theorem takeInterrupt_iop_sport0 (s : State) (k : Nat) (v : BitVec 24) : (s.takeInterrupt k v).iop.sport0 = s.iop.sport0 := by simp only [State.takeInterrupt]; first | rfl | (split <;> simp)
@[simp] theorem takeInterrupt_iop_sport1 (s : State) (k : Nat) (v : BitVec 24) : (s.takeInterrupt k v).iop.sport1 = s.iop.sport1 := by simp only [State.takeInterrupt]; first | rfl | (split <;> simp)
@[simp] theorem takeInterrupt_iop_timer0 (s : State) (k : Nat) (v : BitVec 24) : (s.takeInterrupt k v).iop.timer0 = s.iop.timer0 := by simp only [State.takeInterrupt]; first | rfl | (split <;> simp)
@[simp] theorem takeInterrupt_iop_timer1 (s : State) (k : Nat) (v : BitVec 24) : (s.takeInterrupt k v).iop.timer1 = s.iop.timer1 := by simp only [State.takeInterrupt]; first | rfl | (split <;> simp)
@[simp] theorem takeInterrupt_env (s : State) (k : Nat) (v : BitVec 24) : (s.takeInterrupt k v).env = s.env := by simp only [State.takeInterrupt]; first | rfl | (split <;> simp)
@[simp] theorem takeInterrupt_tr_branch (s : State) (k : Nat) (v : BitVec 24) : (s.takeInterrupt k v).tr.branch = s.tr.branch := by simp only [State.takeInterrupt]; first | rfl | (split <;> simp)
@[simp] theorem takeInterrupt_tr_stall (s : State) (k : Nat) (v : BitVec 24) : (s.takeInterrupt k v).tr.stall = s.tr.stall := by simp only [State.takeInterrupt]; first | rfl | (split <;> simp)
@[simp] theorem takeInterrupt_tr_astatWritten (s : State) (k : Nat) (v : BitVec 24) : (s.takeInterrupt k v).tr.astatWritten = s.tr.astatWritten := by simp only [State.takeInterrupt]; first | rfl | (split <;> simp)
@[simp] theorem takeInterrupt_tr_pcstkp (s : State) (k : Nat) (v : BitVec 24) : (s.takeInterrupt k v).tr.pcstkp = s.tr.pcstkp := by simp only [State.takeInterrupt]; first | rfl | (split <;> simp)
@[simp] theorem takeInterrupt_tr_imaskpWritten (s : State) (k : Nat) (v : BitVec 24) : (s.takeInterrupt k v).tr.imaskpWritten = s.tr.imaskpWritten := by simp only [State.takeInterrupt]; first | rfl | (split <;> simp)
@[simp] theorem takeInterrupt_tr_curlcntr (s : State) (k : Nat) (v : BitVec 24) : (s.takeInterrupt k v).tr.curlcntr = s.tr.curlcntr := by simp only [State.takeInterrupt]; first | rfl | (split <;> simp)
@[simp] theorem takeInterrupt_tr_countWritten (s : State) (k : Nat) (v : BitVec 24) : (s.takeInterrupt k v).tr.countWritten = s.tr.countWritten := by simp only [State.takeInterrupt]; first | rfl | (split <;> simp)
@[simp] theorem takeInterrupt_tr_notLce (s : State) (k : Nat) (v : BitVec 24) : (s.takeInterrupt k v).tr.notLce = s.tr.notLce := by simp only [State.takeInterrupt]; first | rfl | (split <;> simp)
@[simp] theorem takeInterrupt_tr_loopStarted (s : State) (k : Nat) (v : BitVec 24) : (s.takeInterrupt k v).tr.loopStarted = s.tr.loopStarted := by simp only [State.takeInterrupt]; first | rfl | (split <;> simp)
@[simp] theorem takeInterrupt_tr_syscon (s : State) (k : Nat) (v : BitVec 24) : (s.takeInterrupt k v).tr.syscon = s.tr.syscon := by simp only [State.takeInterrupt]; first | rfl | (split <;> simp)
@[simp] theorem takeInterrupt_tr_reset (s : State) (k : Nat) (v : BitVec 24) : (s.takeInterrupt k v).tr.reset = s.tr.reset := by simp only [State.takeInterrupt]; first | rfl | (split <;> simp)
@[simp] theorem takeInterrupt_free (s : State) (k : Nat) (v : BitVec 24) : (s.takeInterrupt k v).free = s.free := by simp only [State.takeInterrupt]; first | rfl | (split <;> simp)

/-! ### sampleFlags -/

@[simp] theorem sampleFlags_data (s : State) : s.sampleFlags.data = s.data := rfl
@[simp] theorem sampleFlags_dag (s : State) : s.sampleFlags.dag = s.dag := rfl
@[simp] theorem sampleFlags_sys_mode1 (s : State) : s.sampleFlags.sys.mode1 = s.sys.mode1 := rfl
@[simp] theorem sampleFlags_sys_mode2 (s : State) : s.sampleFlags.sys.mode2 = s.sys.mode2 := rfl
@[simp] theorem sampleFlags_sys_irptl (s : State) : s.sampleFlags.sys.irptl = s.sys.irptl := rfl
@[simp] theorem sampleFlags_sys_imask (s : State) : s.sampleFlags.sys.imask = s.sys.imask := rfl
@[simp] theorem sampleFlags_sys_imaskp (s : State) : s.sampleFlags.sys.imaskp = s.sys.imaskp := rfl
@[simp] theorem sampleFlags_sys_stky (s : State) : s.sampleFlags.sys.stky = s.sys.stky := rfl
@[simp] theorem sampleFlags_sys_ustat1 (s : State) : s.sampleFlags.sys.ustat1 = s.sys.ustat1 := rfl
@[simp] theorem sampleFlags_sys_ustat2 (s : State) : s.sampleFlags.sys.ustat2 = s.sys.ustat2 := rfl
@[simp] theorem sampleFlags_lat (s : State) : s.sampleFlags.lat = s.lat := rfl
@[simp] theorem sampleFlags_pipe (s : State) : s.sampleFlags.pipe = s.pipe := rfl
@[simp] theorem sampleFlags_stk (s : State) : s.sampleFlags.stk = s.stk := rfl
@[simp] theorem sampleFlags_cache (s : State) : s.sampleFlags.cache = s.cache := rfl
@[simp] theorem sampleFlags_mem (s : State) : s.sampleFlags.mem = s.mem := rfl
@[simp] theorem sampleFlags_shadow (s : State) : s.sampleFlags.shadow = s.shadow := rfl
@[simp] theorem sampleFlags_iop_hid (s : State) : s.sampleFlags.iop.hid = s.iop.hid := rfl
@[simp] theorem sampleFlags_iop_dma (s : State) : s.sampleFlags.iop.dma = s.iop.dma := rfl
@[simp] theorem sampleFlags_iop_ep0 (s : State) : s.sampleFlags.iop.ep0 = s.iop.ep0 := rfl
@[simp] theorem sampleFlags_iop_ep1 (s : State) : s.sampleFlags.iop.ep1 = s.iop.ep1 := rfl
@[simp] theorem sampleFlags_iop_sport0 (s : State) : s.sampleFlags.iop.sport0 = s.iop.sport0 := rfl
@[simp] theorem sampleFlags_iop_sport1 (s : State) : s.sampleFlags.iop.sport1 = s.iop.sport1 := rfl
@[simp] theorem sampleFlags_iop_timer0 (s : State) : s.sampleFlags.iop.timer0 = s.iop.timer0 := rfl
@[simp] theorem sampleFlags_iop_timer1 (s : State) : s.sampleFlags.iop.timer1 = s.iop.timer1 := rfl
@[simp] theorem sampleFlags_env (s : State) : s.sampleFlags.env = s.env := rfl
@[simp] theorem sampleFlags_tr (s : State) : s.sampleFlags.tr = s.tr := rfl
@[simp] theorem sampleFlags_free (s : State) : s.sampleFlags.free = s.free := rfl


end Sys2Proof.Machine
end

