-- ==== Sys2Proof/Laws/Memory.lean ====
section
/-! SUPPORT. The laws of memory: reading after writing, and that every memory operation keeps the canonical form. -/

namespace Sys2Proof.Machine

/-! ### Bytes -/

theorem keysAbove_mono {j k : Nat} (h : j ≤ k) : ∀ {m : List Host.Cell}, keysAbove k m = true → keysAbove j m = true
  | [], _ => rfl
  | (a, v) :: m, hk => by
    simp only [keysAbove, Bool.and_eq_true, decide_eq_true_eq] at hk ⊢
    exact ⟨by omega, keysAbove_mono h hk.2⟩

theorem readByte_of_keysAbove {k j : Nat} (h : j ≤ k) :
    ∀ {m : List Host.Cell}, keysAbove k m = true → readByte m j = 0
  | [], _ => rfl
  | (a, v) :: m, hk => by
    simp only [keysAbove, Bool.and_eq_true, decide_eq_true_eq] at hk
    rw [readByte, if_neg (by omega), readByte_of_keysAbove h hk.2]

theorem keysAbove_writeByte {j k : Nat} (v : BitVec 8) (h : j < k) :
    ∀ {m : List Host.Cell}, keysAbove j m = true → keysAbove j (writeByte m k v) = true
  | [], _ => by
    rw [writeByte]; split <;> simp [keysAbove, h]
  | (a, w) :: m, hm => by
    have hm' := hm
    simp only [keysAbove, Bool.and_eq_true, decide_eq_true_eq] at hm'
    rw [writeByte]
    split
    · split <;> simp_all [keysAbove]
    · split
      · split <;> simp_all [keysAbove]
      · simp [keysAbove, hm'.1, keysAbove_writeByte v h hm'.2]

/-- A write of a byte keeps the canonical form. -/
theorem wf_writeByte (k : Nat) (v : BitVec 8) : ∀ {m : List Host.Cell}, Memory.wf m = true → Memory.wf (writeByte m k v) = true
  | [], _ => by
    rw [writeByte]; split <;> simp_all [Memory.wf, keysAbove]
  | (a, w) :: m, hm => by
    simp only [Memory.wf, Bool.and_eq_true, decide_eq_true_eq] at hm
    obtain ⟨⟨hw, hk⟩, hm⟩ := hm
    rw [writeByte]
    split
    · rename_i hka
      split
      · simp only [Memory.wf, hk, hm, hw, Bool.and_true, ne_eq, not_false_eq_true, decide_true]
      · rename_i hv
        simp only [Memory.wf, keysAbove, Bool.and_eq_true, decide_eq_true_eq]
        exact ⟨⟨hv, hka, keysAbove_mono (Nat.le_of_lt hka) hk⟩, ⟨hw, hk⟩, hm⟩
    · split
      · rename_i hka; subst hka
        split
        · exact hm
        · rename_i hv
          simp only [Memory.wf, Bool.and_eq_true, decide_eq_true_eq]
          exact ⟨⟨hv, hk⟩, hm⟩
      · simp only [Memory.wf, Bool.and_eq_true, decide_eq_true_eq]
        exact ⟨⟨hw, keysAbove_writeByte v (show a < k by omega) hk⟩, wf_writeByte k v hm⟩

/-- Reading after a write of a byte. -/
theorem readByte_writeByte (k : Nat) (v : BitVec 8) (j : Nat) :
    ∀ {m : List Host.Cell}, Memory.wf m = true → readByte (writeByte m k v) j = if j = k then v else readByte m j
  | [], _ => by
    rw [writeByte]
    split <;> split <;> simp_all [readByte]
  | (a, w) :: m, hm => by
    simp only [Memory.wf, Bool.and_eq_true, decide_eq_true_eq] at hm
    obtain ⟨⟨_, hk⟩, hm⟩ := hm
    rw [writeByte]
    split
    · rename_i hka
      have hz : readByte m k = 0 := readByte_of_keysAbove (Nat.le_of_lt hka) hk
      split
      · rename_i hv
        split
        · rename_i hj; subst hj; rw [readByte, if_neg (by omega), hz, hv]
        · rfl
      · simp [readByte]
    · split
      · rename_i hka; subst hka
        have hz : readByte m k = 0 := readByte_of_keysAbove (Nat.le_refl k) hk
        split
        · rename_i hv
          split
          · rename_i hj; subst hj; rw [hz, hv]
          · rename_i hj; simp [readByte, hj]
        · simp only [readByte]; split <;> rfl
      · rename_i h1 h2
        rw [readByte, readByte_writeByte k v j hm]
        simp only [readByte]
        split
        · rw [if_neg (by omega)]
        · rfl

/-! ### Cells and external words -/

theorem wf_writeCell {m : List Host.Cell} (h : Memory.wf m = true) (c : Nat) (v : BitVec 16) :
    Memory.wf (writeCell m c v) = true := wf_writeByte _ _ (wf_writeByte _ _ h)

theorem wf_writeCells : ∀ (cs : List (Nat × BitVec 16)) {m : List Host.Cell}, Memory.wf m = true →
    Memory.wf (writeCells m cs) = true
  | [], _, h => h
  | (c, v) :: cs, _, h => wf_writeCells cs (wf_writeCell h c v)

theorem wf_writeExt {m : List Host.Cell} (h : Memory.wf m = true) (a : Nat) (v : BitVec 32) :
    Memory.wf (writeExt m a v) = true :=
  wf_writeByte _ _ (wf_writeByte _ _ (wf_writeByte _ _ (wf_writeByte _ _ h)))

theorem wf_writeExtWide {m : List Host.Cell} (h : Memory.wf m = true) (a : Nat) (w : BitVec 48) :
    Memory.wf (writeExtWide m a w) = true := wf_writeExt (wf_writeExt h _ _) _ _

/-- The two bytes of a 16-bit value make it up. -/
theorem bytes16 (v : BitVec 16) : v.extractLsb' 8 8 ++ v.extractLsb' 0 8 = v := by
  ext i hi
  simp only [BitVec.getElem_append, BitVec.getElem_extractLsb']
  split <;> (simp [BitVec.getElem_eq_testBit_toNat, BitVec.getLsbD]; try (congr 1; omega))

/-- A byte after a write of a cell. -/
theorem readByte_writeCell {m : List Host.Cell} (h : Memory.wf m = true) (c : Nat) (v : BitVec 16) (k : Nat) :
    readByte (writeCell m c v) k =
      if k = 2 * c + 1 then v.extractLsb' 8 8 else if k = 2 * c then v.extractLsb' 0 8 else readByte m k := by
  rw [writeCell, readByte_writeByte _ _ _ (wf_writeByte _ _ h), readByte_writeByte _ _ _ h]

/-- Reading a cell after writing one. -/
theorem readCell_writeCell {m : List Host.Cell} (h : Memory.wf m = true) (c d : Nat) (v : BitVec 16) :
    readCell (writeCell m c v) d = if d = c then v else readCell m d := by
  rw [readCell, readByte_writeCell h, readByte_writeCell h]
  by_cases hd : d = c
  · subst hd
    rw [if_pos rfl, if_neg (by omega), if_pos rfl, if_pos rfl]
    exact bytes16 v
  · rw [if_neg (by omega), if_neg (by omega), if_neg (by omega), if_neg (by omega), if_neg hd, readCell]

/-- Reading a cell after writing several: the last value listed for it. -/
theorem readCell_writeCells (d : Nat) : ∀ (cs : List (Nat × BitVec 16)) {m : List Host.Cell}, Memory.wf m = true →
    readCell (writeCells m cs) d = (cellLookup d cs).getD (readCell m d)
  | [], _, _ => rfl
  | (c, v) :: cs, m, h => by
    rw [writeCells, readCell_writeCells d cs (wf_writeCell h c v), readCell_writeCell h, cellLookup]
    cases cellLookup d cs with
    | some w => rfl
    | none => by_cases hd : d = c <;> simp [hd]

/-- A byte outside the cells written. -/
theorem readByte_writeCells (k : Nat) : ∀ (cs : List (Nat × BitVec 16)) {m : List Host.Cell}, Memory.wf m = true →
    (∀ c ∈ cs, k ∉ cellKeys c.1) → readByte (writeCells m cs) k = readByte m k
  | [], _, _, _ => rfl
  | (c, v) :: cs, m, h, hk => by
    have hc := hk (c, v) (List.mem_cons_self ..)
    simp only [cellKeys, List.mem_cons, List.not_mem_nil, or_false, not_or] at hc
    rw [writeCells, readByte_writeCells k cs (wf_writeCell h c v) (fun d hd => hk d (List.mem_cons_of_mem _ hd)),
      readByte_writeCell h, if_neg hc.2, if_neg hc.1]

/-- A byte after a write of an external word. -/
theorem readByte_writeExt {m : List Host.Cell} (h : Memory.wf m = true) (a : Nat) (v : BitVec 32) (k : Nat)
    (hk : k ∉ extKeys a) : readByte (writeExt m a v) k = readByte m k := by
  simp only [extKeys, List.mem_cons, List.not_mem_nil, or_false, not_or] at hk
  rw [writeExt, readByte_writeByte _ _ _ (wf_writeByte _ _ (wf_writeByte _ _ (wf_writeByte _ _ h))),
    readByte_writeByte _ _ _ (wf_writeByte _ _ (wf_writeByte _ _ h)), readByte_writeByte _ _ _ (wf_writeByte _ _ h),
    readByte_writeByte _ _ _ h, if_neg hk.2.2.2, if_neg hk.2.2.1, if_neg hk.2.1, if_neg hk.1]

theorem bytes32 (v : BitVec 32) :
    v.extractLsb' 24 8 ++ v.extractLsb' 16 8 ++ v.extractLsb' 8 8 ++ v.extractLsb' 0 8 = v := by
  ext i hi
  simp only [BitVec.getElem_append, BitVec.getElem_extractLsb']
  split <;> (try split) <;> (try split) <;> simp [BitVec.getElem_eq_testBit_toNat, BitVec.getLsbD] <;> (congr 1; omega)

/-- Reading an external word after writing it. -/
theorem readExt_writeExt_same {m : List Host.Cell} (h : Memory.wf m = true) (a : Nat) (v : BitVec 32) :
    readExt (writeExt m a v) a = v := by
  have h1 := wf_writeByte (extBase + 4 * a) (v.extractLsb' 0 8) h
  have h2 := wf_writeByte (extBase + 4 * a + 1) (v.extractLsb' 8 8) h1
  have h3 := wf_writeByte (extBase + 4 * a + 2) (v.extractLsb' 16 8) h2
  generalize hk : extBase + 4 * a = k at *
  rw [readExt, writeExt]
  simp only [hk, readByte_writeByte _ _ _ h3, readByte_writeByte _ _ _ h2, readByte_writeByte _ _ _ h1,
    readByte_writeByte _ _ _ h, show k + 2 ≠ k + 3 by omega, show k + 1 ≠ k + 3 by omega, show k + 1 ≠ k + 2 by omega,
    show k ≠ k + 3 by omega, show k ≠ k + 2 by omega, show k ≠ k + 1 by omega, if_true, if_false]
  exact bytes32 v

/-- Another external word is not touched. -/
theorem readExt_writeExt_other {m : List Host.Cell} (h : Memory.wf m = true) {a b : Nat} (hab : b ≠ a) (v : BitVec 32) :
    readExt (writeExt m a v) b = readExt m b := by
  have no : ∀ i, i < 4 → extBase + 4 * b + i ∉ extKeys a := by
    intro i hi; simp only [extKeys, List.mem_cons, List.not_mem_nil, or_false]; omega
  simp only [readExt]
  rw [readByte_writeExt h a v _ (no 3 (by omega)), readByte_writeExt h a v _ (no 2 (by omega)),
    readByte_writeExt h a v _ (no 1 (by omega)), readByte_writeExt h a v (extBase + 4 * b) (no 0 (by omega))]

/-- A byte after a write of a 48-bit external word. -/
theorem readByte_writeExtWide {m : List Host.Cell} (h : Memory.wf m = true) (a : Nat) (w : BitVec 48) (k : Nat)
    (hk : k ∉ extKeys (packedAddr a) ++ extKeys (packedAddr a + 1)) : readByte (writeExtWide m a w) k = readByte m k := by
  rw [List.mem_append, not_or] at hk
  rw [writeExtWide, readByte_writeExt (wf_writeExt h _ _) _ _ _ hk.2, readByte_writeExt h _ _ _ hk.1]

theorem halves48 (w : BitVec 48) : w.extractLsb' 16 32 ++ w.extractLsb' 0 16 = w := by
  ext i hi
  simp only [BitVec.getElem_append, BitVec.getElem_extractLsb']
  split <;> (simp [BitVec.getElem_eq_testBit_toNat, BitVec.getLsbD]; try (congr 1; omega))

/-- Reading a 48-bit external word after writing it. -/
theorem readExtWide_writeExtWide_same {m : List Host.Cell} (h : Memory.wf m = true) (a : Nat) (w : BitVec 48) :
    readExtWide (writeExtWide m a w) a = w := by
  rw [readExtWide, writeExtWide, readExt_writeExt_same (wf_writeExt h _ _),
    readExt_writeExt_other (wf_writeExt h _ _) (by omega), readExt_writeExt_same h]
  have : BitVec.extractLsb' 0 16 ((w.extractLsb' 0 16).setWidth 32) = w.extractLsb' 0 16 := by
    apply BitVec.eq_of_getLsbD_eq
    intro i hi
    simp only [BitVec.getLsbD_extractLsb', BitVec.getLsbD_setWidth, hi, decide_true, Bool.true_and, Nat.zero_add]
    simp [show i < 32 by omega]
  rw [this, halves48]

/-! ### The shadow write FIFO -/

theorem settledFind_append (c : Nat) (es fs : List ShadowEntry) :
    settledFind c (es ++ fs) = (settledFind c fs).or (settledFind c es) := by
  induction es with
  | nil => simp [settledFind]
  | cons e es ih => simp only [List.cons_append, settledFind, ih]; cases settledFind c fs <;> rfl

/-- A cell, with every queued write done, after one more write is queued: the last value listed for it, else what it
was. -/
theorem settledCell_queueWrite {s : State} (h : Memory.wf s.mem = true) (wide : Bool) (cells : List (Nat × BitVec 16))
    (c : Nat) : (s.queueWrite wide cells).settledCell c = (cellLookup c cells).getD (s.settledCell c) := by
  have key : settledFind c [ShadowEntry.mk wide cells] = cellLookup c cells := rfl
  unfold State.queueWrite
  split
  · next he => simp only [State.settledCell, he, settledFind]; cases cellLookup c cells <;> rfl
  · next e he =>
      simp only [State.settledCell, he]
      rw [show [e, ShadowEntry.mk wide cells] = [e] ++ [ShadowEntry.mk wide cells] from rfl, settledFind_append, key]
      cases cellLookup c cells <;> rfl
  · next e es _ he =>
      simp only [State.settledCell, he, settledFind]
      rw [settledFind_append, key, readCell_writeCells c _ h]
      cases cellLookup c cells with
      | some v => rfl
      | none => cases settledFind c es <;> simp; cases cellLookup c e.cells <;> rfl

theorem cellLookup_none {c : Nat} : ∀ {cs : List (Nat × BitVec 16)}, (∀ d ∈ cs, d.1 ≠ c) → cellLookup c cs = none
  | [], _ => rfl
  | (d, v) :: cs, h => by
    rw [cellLookup, cellLookup_none (fun x hx => h x (List.mem_cons_of_mem _ hx))]
    simp [Ne.symm (h (d, v) (List.mem_cons_self ..))]

/-- A byte after an internal write is queued: as before, unless it belongs to a cell written. -/
theorem byteAt_queueWrite {s : State} (h : MemInv s) (wide : Bool) (cells : List (Nat × BitVec 16)) (k : Nat)
    (hk : ∀ c ∈ cells, k ∉ cellKeys c.1) : (s.queueWrite wide cells).byteAt k = s.byteAt k := by
  have hc : ∀ d ∈ cells, d.1 ≠ k / 2 := by
    intro d hd he
    have := hk d hd
    simp only [cellKeys, List.mem_cons, List.not_mem_nil, or_false] at this
    omega
  unfold State.byteAt
  rw [settledCell_queueWrite h.canonical, cellLookup_none hc]
  split
  · rfl
  · rename_i hx
    unfold State.queueWrite
    split
    · rfl
    · rfl
    · next e es _ he =>
        refine readByte_writeCells k e.cells h.canonical fun c hc => ?_
        have := h.queued e (he ▸ List.mem_cons_self ..) c hc
        simp only [cellKeys, List.mem_cons, List.not_mem_nil, or_false]
        simp only [extBase] at hx
        omega

/-- Queueing a write of internal cells keeps the memory invariant. -/
theorem MemInv.queueWrite {s : State} (h : MemInv s) (wide : Bool) (cells : List (Nat × BitVec 16))
    (hc : ∀ c ∈ cells, c.1 < 34816) : MemInv (s.queueWrite wide cells) := by
  unfold State.queueWrite
  split
  · refine ⟨h.canonical, ?_, by simp⟩
    intro e he; simp only [List.mem_singleton] at he; subst he; exact hc
  · next e he =>
      refine ⟨h.canonical, ?_, by simp⟩
      intro f hf
      simp only [List.mem_cons, List.not_mem_nil, or_false] at hf
      rcases hf with rfl | rfl
      · exact h.queued f (by simp [he])
      · exact hc
  · next e es _ he =>
      refine ⟨wf_writeCells _ h.canonical, ?_, ?_⟩
      · intro f hf
        simp only [List.mem_append, List.mem_cons, List.not_mem_nil, or_false] at hf
        rcases hf with hf | rfl
        · exact h.queued f (by simp [he, hf])
        · exact hc
      · have := h.short; rw [he] at this; simp only [List.length_cons] at this
        simp; omega

/-! ### Cell numbers -/

theorem wideCell_lt {b : Bool} {off k : Nat} (h : wideExists b off = true) (hk : k < 3) : wideCell b off k < 34816 := by
  cases b <;> simp [wideExists] at h <;> simp only [wideCell, cellNumber] <;> simp <;> omega

theorem narrowCell_lt {b : Bool} {off k : Nat} (h : off < 0x2000) (hk : k < 2) : narrowCell b off k < 34816 := by
  cases b <;> simp only [narrowCell, cellNumber] <;> simp <;> omega

/-- The offset of a normal word, the cell of a short word, the address of an external word stay within their spaces. -/
def Place.bounded : Place → Prop
  | .normal _ off => off < 0x2000
  | .short c => c < 34816
  | .ext n => 0x20000 ≤ n ∧ n < 0x4000000
  | _ => True

theorem Place.bounded_ite {c : Prop} [Decidable c] {x y : Place} (hx : c → x.bounded) (hy : ¬c → y.bounded) :
    (if c then x else y).bounded := by
  split
  · exact hx ‹_›
  · exact hy ‹_›

theorem shortCell_lt {b : Bool} {off : Nat} (h : off < 0x4000) : shortCell b off < 34816 := by
  cases b <;> simp only [shortCell, cellNumber, Bool.false_eq_true, if_true, if_false] <;> split <;> omega

/-- What the memory map can answer (20_memory.md R202). -/
theorem place_bounded (id : BitVec 2) (a : BitVec 32) : (place id a).bounded := by
  unfold place
  repeat' refine Place.bounded_ite (fun _ => ?_) (fun _ => ?_)
  all_goals first
    | exact True.intro
    | (simp only [Place.bounded]; omega)
    | (simp only [Place.bounded, cellNumber, Bool.false_eq_true, if_false]; omega)
    | (simp only [Place.bounded]; exact shortCell_lt (by omega))

theorem place_normal_lt {id : BitVec 2} {a : BitVec 32} {b : Bool} {off : Nat} (h : place id a = .normal b off) :
    off < 0x2000 := by
  have := place_bounded id a; rw [h] at this; exact this

theorem place_short_lt {id : BitVec 2} {a : BitVec 32} {c : Nat} (h : place id a = .short c) : c < 34816 := by
  have := place_bounded id a; rw [h] at this; exact this

theorem place_ext_bounds {id : BitVec 2} {a : BitVec 32} {n : Nat} (h : place id a = .ext n) :
    0x20000 ≤ n ∧ n < 0x4000000 := by
  have := place_bounded id a; rw [h] at this; exact this

end Sys2Proof.Machine
end

