-- ==== Sys2Proof/Laws/Compute.lean ====
section
/-! SUPPORT. What a computation touches: one frame for every operation of the COMPUTE field. -/

namespace Sys2Proof.Machine

/-! ### The read of a byte depends on memory only -/

theorem byteAt_congr {s t : State} (hm : t.mem = s.mem) (hs : t.shadow = s.shadow) (k : Nat) : t.byteAt k = s.byteAt k := by
  unfold State.byteAt State.settledCell; rw [hm, hs]

/-! ### Registers after a register write -/

theorem setRreg_rreg (s : State) (n m : BitVec 4) (v : BitVec 40) :
    (s.setRreg n v).rreg m = if m = n then v else s.rreg m := by
  have hl : (s.setRreg n v).altData m = s.altData m := by simp [State.altData]
  have hne : m ≠ n → n.toNat ≠ m.toNat := fun h e => h (BitVec.eq_of_toNat_eq e.symm)
  unfold State.rreg
  rw [hl]
  unfold State.setRreg
  by_cases hm : m = n
  · subst hm
    split <;> simp_all [Vector.get_eq_getElem]
  · by_cases h1 : s.altData n <;> by_cases h2 : s.altData m <;>
      simp [h1, h2, hm, Vector.get_eq_getElem, Vector.getElem_set_ne, hne hm]

@[simp] theorem setRreg_rreg_same (s : State) (n : BitVec 4) (v : BitVec 40) : (s.setRreg n v).rreg n = v := by
  simp [setRreg_rreg]

theorem setRreg_idleReg (s : State) (n m : BitVec 4) (v : BitVec 40) : (s.setRreg n v).idleReg m = s.idleReg m := by
  have hl : (s.setRreg n v).altData m = s.altData m := by simp [State.altData]
  have hsame : m = n → s.altData m = s.altData n := fun h => by rw [h]
  have hne : m ≠ n → n.toNat ≠ m.toNat := fun h e => h (BitVec.eq_of_toNat_eq e.symm)
  unfold State.idleReg
  rw [hl]
  unfold State.setRreg
  by_cases hm : m = n
  · subst hm
    by_cases h1 : s.altData m <;> simp [h1]
  · by_cases h1 : s.altData n <;> by_cases h2 : s.altData m <;>
      simp [h1, h2, Vector.get_eq_getElem, Vector.getElem_set_ne, hne hm]

theorem setAcc_acc (s : State) (b c : Bool) (v : BitVec 80) : (s.setAcc b v).acc c = if c = b then v else s.acc c := by
  have hl : (s.setAcc b v).accIndex c = s.accIndex c := by simp [State.accIndex]
  unfold State.acc
  rw [hl]
  unfold State.setAcc State.accIndex
  cases s.lat.mode1.getLsbD 2 <;> cases b <;> cases c <;> simp

@[simp] theorem setAcc_acc_same (s : State) (b : Bool) (v : BitVec 80) : (s.setAcc b v).acc b = v := by simp [setAcc_acc]

/-- Data registers depend on the register files and the latched MODE1 only. -/
theorem rreg_congr {s t : State} (hd : t.data = s.data) (hl : t.lat = s.lat) (n : BitVec 4) : t.rreg n = s.rreg n := by
  unfold State.rreg State.altData; rw [hd, hl]

theorem idleReg_congr {s t : State} (hd : t.data = s.data) (hl : t.lat = s.lat) (n : BitVec 4) :
    t.idleReg n = s.idleReg n := by unfold State.idleReg State.altData; rw [hd, hl]

theorem acc_congr {s t : State} (hd : t.data = s.data) (hl : t.lat = s.lat) (b : Bool) : t.acc b = s.acc b := by
  unfold State.acc State.accIndex; rw [hd, hl]

/-! ### Frames compose -/

theorem ComputeFrame.refl (s : State) : ComputeFrame s s [] [] 0 0 where
  rest := rfl
  px := rfl
  regs := fun _ _ => rfl
  idle := fun _ => rfl
  accs := fun _ _ => rfl
  astat := rfl
  stky := rfl
  sticky := by simp
  mem := fun _ => rfl

theorem mask_mono {x y a b : BitVec 32} (h : x &&& ~~~a = y &&& ~~~a) (hab : a &&& ~~~b = 0) : x &&& ~~~b = y &&& ~~~b := by
  apply BitVec.eq_of_getLsbD_eq
  intro i hi
  have h1 := congrArg (·.getLsbD i) h
  have h2 := congrArg (·.getLsbD i) hab
  simp only [BitVec.getLsbD_and, BitVec.getLsbD_not, hi, decide_true, Bool.true_and, BitVec.ofNat_eq_ofNat,
    BitVec.getLsbD_zero] at h1 h2 ⊢
  revert h1 h2
  cases x.getLsbD i <;> cases y.getLsbD i <;> cases b.getLsbD i <;> cases a.getLsbD i <;> decide

theorem mask_trans {x y z a b : BitVec 32} (h1 : y &&& ~~~a = x &&& ~~~a) (h2 : z &&& ~~~b = y &&& ~~~b) :
    z &&& ~~~(a ||| b) = x &&& ~~~(a ||| b) := by
  apply BitVec.eq_of_getLsbD_eq
  intro i hi
  have g1 := congrArg (·.getLsbD i) h1
  have g2 := congrArg (·.getLsbD i) h2
  simp only [BitVec.getLsbD_and, BitVec.getLsbD_not, BitVec.getLsbD_or, hi, decide_true, Bool.true_and] at g1 g2 ⊢
  revert g1 g2
  cases x.getLsbD i <;> cases y.getLsbD i <;> cases z.getLsbD i <;> cases b.getLsbD i <;> cases a.getLsbD i <;> decide

theorem sticky_trans {x y z : BitVec 32} (h1 : x &&& ~~~y = 0) (h2 : y &&& ~~~z = 0) : x &&& ~~~z = 0 := by
  apply BitVec.eq_of_getLsbD_eq
  intro i hi
  have g1 := congrArg (·.getLsbD i) h1
  have g2 := congrArg (·.getLsbD i) h2
  simp only [BitVec.getLsbD_and, BitVec.getLsbD_not, hi, decide_true, Bool.true_and, BitVec.ofNat_eq_ofNat,
    BitVec.getLsbD_zero] at g1 g2 ⊢
  revert g1 g2
  cases x.getLsbD i <;> cases y.getLsbD i <;> cases z.getLsbD i <;> decide

/-- A frame holds with more registers and bits allowed. -/
theorem ComputeFrame.mono {s t : State} {rs rs' : List (BitVec 4)} {as as' : List Bool} {am am' sm sm' : BitVec 32}
    (h : ComputeFrame s t rs as am sm) (hr : ∀ n ∈ rs, n ∈ rs') (ha : ∀ b ∈ as, b ∈ as') (hm : am &&& ~~~am' = 0)
    (hs : sm &&& ~~~sm' = 0) : ComputeFrame s t rs' as' am' sm' where
  rest := h.rest
  px := h.px
  regs := fun n hn => h.regs n fun hc => hn (hr n hc)
  idle := h.idle
  accs := fun b hb => h.accs b fun hc => hb (ha b hc)
  astat := mask_mono h.astat hm
  stky := mask_mono h.stky hs
  sticky := h.sticky
  mem := h.mem

/-- One computation after another. -/
theorem ComputeFrame.trans {s t u : State} {rs rs' : List (BitVec 4)} {as as' : List Bool} {am am' sm sm' : BitVec 32}
    (h : ComputeFrame s t rs as am sm) (g : ComputeFrame t u rs' as' am' sm') :
    ComputeFrame s u (rs ++ rs') (as ++ as') (am ||| am') (sm ||| sm') where
  rest := by rw [g.rest, h.rest]
  px := g.px.trans h.px
  regs := fun n hn => by
    rw [List.mem_append, not_or] at hn
    rw [g.regs n hn.2, h.regs n hn.1]
  idle := fun n => (g.idle n).trans (h.idle n)
  accs := fun b hb => by
    rw [List.mem_append, not_or] at hb
    rw [g.accs b hb.2, h.accs b hb.1]
  astat := mask_trans h.astat g.astat
  stky := mask_trans h.stky g.stky
  sticky := sticky_trans h.sticky g.sticky
  mem := fun k => (g.mem k).trans (h.mem k)

/-! ### The elementary frames -/

theorem setRreg_frame (s : State) (n : BitVec 4) (v : BitVec 40) : ComputeFrame s (s.setRreg n v) [n] [] 0 0 where
  rest := by unfold State.setRreg; split <;> rfl
  px := by simp
  regs := fun m hm => by rw [setRreg_rreg, if_neg (by simpa using hm)]
  idle := fun m => setRreg_idleReg s n m v
  accs := fun b _ => by
    unfold State.acc State.accIndex
    simp
  astat := by simp
  stky := by simp
  sticky := by simp
  mem := fun k => byteAt_congr (by simp) (by simp) k

theorem setAcc_frame (s : State) (b : Bool) (v : BitVec 80) : ComputeFrame s (s.setAcc b v) [] [b] 0 0 where
  rest := by unfold State.setAcc; split <;> rfl
  px := by simp
  regs := fun m _ => by unfold State.rreg State.altData; simp
  idle := fun m => by unfold State.idleReg State.altData; simp
  accs := fun c hc => by rw [setAcc_acc, if_neg (by simpa using hc)]
  astat := by simp
  stky := by simp
  sticky := by simp
  mem := fun k => byteAt_congr (by simp) (by simp) k

/-- A change of ASTAT and STKY alone. -/
theorem status_frame (s : State) (a y am sm : BitVec 32) (ha : a &&& ~~~am = s.sys.astat &&& ~~~am)
    (hy : y &&& ~~~sm = s.sys.stky &&& ~~~sm) (hs : s.sys.stky &&& ~~~y = 0) :
    ComputeFrame s { s with sys.astat := a, sys.stky := y } [] [] am sm where
  rest := rfl
  px := rfl
  regs := fun _ _ => rfl
  idle := fun _ => rfl
  accs := fun _ _ => rfl
  astat := ha
  stky := hy
  sticky := hs
  mem := fun _ => rfl

theorem getLsbD_bitAt (b : Bool) (k i : Nat) (hk : k < 32) : (bitAt b k).getLsbD i = (b && decide (i = k)) := by
  unfold bitAt
  cases b
  · simp
  · simp only [if_true, BitVec.getLsbD_shiftLeft, Bool.true_and]
    by_cases h : i = k
    · subst h; simp [hk]
    · rcases Nat.lt_or_gt_of_ne h with h' | h'
      · simp [h, h']
      · have : i - k ≠ 0 := by omega
        simp [h, BitVec.getLsbD_one, this]

/-- An ALU status without a compare: AZ to AI, AF, and the sticky bits it sets. -/
theorem aluStatus_frame (s : State) (f : AluFlags) (sm : BitVec 32) (hg : f.gt = none)
    (h0 : f.aus = true → sm.getLsbD 0 = true) (h1 : f.avs = true → sm.getLsbD 1 = true)
    (h2 : f.aos = true → sm.getLsbD 2 = true) (h5 : f.ai = true → sm.getLsbD 5 = true) :
    ComputeFrame s (s.aluStatus f) [] [] 0x43F sm := by
  refine status_frame s _ _ _ _ ?_ ?_ ?_
  · simp only [AluFlags.astat, hg]
    apply BitVec.eq_of_getLsbD_eq
    intro i hi
    simp only [BitVec.getLsbD_and, BitVec.getLsbD_not, BitVec.getLsbD_or, getLsbD_bitAt _ _ _ (by decide : 0 < 32),
      getLsbD_bitAt _ _ _ (by decide : 1 < 32), getLsbD_bitAt _ _ _ (by decide : 2 < 32),
      getLsbD_bitAt _ _ _ (by decide : 3 < 32), getLsbD_bitAt _ _ _ (by decide : 4 < 32),
      getLsbD_bitAt _ _ _ (by decide : 5 < 32), getLsbD_bitAt _ _ _ (by decide : 10 < 32)]
    interval_cases i <;> simp
  · apply BitVec.eq_of_getLsbD_eq
    intro i hi
    simp only [AluFlags.stky, BitVec.getLsbD_and, BitVec.getLsbD_not, BitVec.getLsbD_or,
      getLsbD_bitAt _ _ _ (by decide : 0 < 32), getLsbD_bitAt _ _ _ (by decide : 1 < 32),
      getLsbD_bitAt _ _ _ (by decide : 2 < 32), getLsbD_bitAt _ _ _ (by decide : 5 < 32), hi, decide_true, Bool.true_and]
    by_cases i0 : i = 0
    · subst i0; revert h0; cases f.aus <;> cases sm.getLsbD 0 <;> simp
    by_cases i1 : i = 1
    · subst i1; revert h1; cases f.avs <;> cases sm.getLsbD 1 <;> simp
    by_cases i2 : i = 2
    · subst i2; revert h2; cases f.aos <;> cases sm.getLsbD 2 <;> simp
    by_cases i5 : i = 5
    · subst i5; revert h5; cases f.ai <;> cases sm.getLsbD 5 <;> simp
    simp [i0, i1, i2, i5]
  · apply BitVec.eq_of_getLsbD_eq
    intro i hi
    simp only [AluFlags.stky, BitVec.getLsbD_and, BitVec.getLsbD_not, BitVec.getLsbD_or, hi, decide_true, Bool.true_and]
    cases s.sys.stky.getLsbD i <;> simp

/-- The status of a compare: CACC too. -/
theorem compareStatus_frame (s : State) (f : AluFlags) (sm : BitVec 32)
    (h0 : f.aus = true → sm.getLsbD 0 = true) (h1 : f.avs = true → sm.getLsbD 1 = true)
    (h2 : f.aos = true → sm.getLsbD 2 = true) (h5 : f.ai = true → sm.getLsbD 5 = true) :
    ComputeFrame s (s.aluStatus f) [] [] 0xFF00043F sm := by
  have h := aluStatus_frame s { f with gt := none } sm rfl h0 h1 h2 h5
  refine status_frame s _ _ _ _ ?_ h.stky h.sticky
  cases hg : f.gt with
  | none =>
    have e : f.astat s.sys.astat = AluFlags.astat { f with gt := none } s.sys.astat := by simp [AluFlags.astat, hg]
    rw [e]
    exact mask_mono h.astat (by decide)
  | some gt =>
    have e : f.astat s.sys.astat = BitVec.ofBool gt ++ (AluFlags.astat { f with gt := none } s.sys.astat).extractLsb' 25 7
        ++ (AluFlags.astat { f with gt := none } s.sys.astat).extractLsb' 0 24 := by simp [AluFlags.astat, hg]
    rw [e]
    have h' := h.astat
    simp only [State.aluStatus] at h'
    apply BitVec.eq_of_getLsbD_eq
    intro i hi
    have g := congrArg (·.getLsbD i) h'
    simp only [BitVec.getLsbD_and, BitVec.getLsbD_not, hi, decide_true, Bool.true_and] at g ⊢
    by_cases h24 : i < 24
    · rw [BitVec.getLsbD_append]
      simp only [h24, decide_true, BitVec.getLsbD_extractLsb', Nat.zero_add, Bool.true_and]
      interval_cases i <;> first | (simp; done) | simpa using g
    · interval_cases i <;> simp

theorem mulStatus_frame (s : State) (f : MulFlags) (sm : BitVec 32) (h6 : f.mos = true → sm.getLsbD 6 = true)
    (h7 : f.mvs = true → sm.getLsbD 7 = true) (h8 : f.mus = true → sm.getLsbD 8 = true)
    (h9 : f.mi = true → sm.getLsbD 9 = true) : ComputeFrame s (s.mulStatus f) [] [] 0x3C0 sm := by
  refine status_frame s _ _ _ _ ?_ ?_ ?_
  · apply BitVec.eq_of_getLsbD_eq
    intro i hi
    simp only [MulFlags.astat, BitVec.getLsbD_and, BitVec.getLsbD_not, BitVec.getLsbD_or,
      getLsbD_bitAt _ _ _ (by decide : 6 < 32), getLsbD_bitAt _ _ _ (by decide : 7 < 32),
      getLsbD_bitAt _ _ _ (by decide : 8 < 32), getLsbD_bitAt _ _ _ (by decide : 9 < 32)]
    interval_cases i <;> simp
  · apply BitVec.eq_of_getLsbD_eq
    intro i hi
    simp only [MulFlags.stky, BitVec.getLsbD_and, BitVec.getLsbD_not, BitVec.getLsbD_or,
      getLsbD_bitAt _ _ _ (by decide : 6 < 32), getLsbD_bitAt _ _ _ (by decide : 7 < 32),
      getLsbD_bitAt _ _ _ (by decide : 8 < 32), getLsbD_bitAt _ _ _ (by decide : 9 < 32), hi, decide_true, Bool.true_and]
    by_cases i6 : i = 6
    · subst i6; revert h6; cases f.mos <;> cases sm.getLsbD 6 <;> simp
    by_cases i7 : i = 7
    · subst i7; revert h7; cases f.mvs <;> cases sm.getLsbD 7 <;> simp
    by_cases i8 : i = 8
    · subst i8; revert h8; cases f.mus <;> cases sm.getLsbD 8 <;> simp
    by_cases i9 : i = 9
    · subst i9; revert h9; cases f.mi <;> cases sm.getLsbD 9 <;> simp
    simp [i6, i7, i8, i9]
  · apply BitVec.eq_of_getLsbD_eq
    intro i hi
    simp only [MulFlags.stky, BitVec.getLsbD_and, BitVec.getLsbD_not, BitVec.getLsbD_or, hi, decide_true, Bool.true_and]
    cases s.sys.stky.getLsbD i <;> simp

theorem shiftStatus_frame (s : State) (f : ShiftFlags) : ComputeFrame s (s.shiftStatus f) [] [] 0x3800 0 := by
  refine status_frame s _ _ _ _ ?_ rfl (by simp)
  apply BitVec.eq_of_getLsbD_eq
  intro i hi
  simp only [ShiftFlags.astat, BitVec.getLsbD_and, BitVec.getLsbD_not, BitVec.getLsbD_or,
    getLsbD_bitAt _ _ _ (by decide : 11 < 32), getLsbD_bitAt _ _ _ (by decide : 12 < 32),
    getLsbD_bitAt _ _ _ (by decide : 13 < 32)]
  interval_cases i <;> simp

/-! ### The units -/

/-- What an ALU output may leave in STKY. -/
def AluOut.sticks (o : AluOut) (sm : BitVec 32) : Prop :=
  (o.flags.aus = true → sm.getLsbD 0 = true) ∧ (o.flags.avs = true → sm.getLsbD 1 = true) ∧
  (o.flags.aos = true → sm.getLsbD 2 = true) ∧ (o.flags.ai = true → sm.getLsbD 5 = true)

theorem applyAlu_frame (s : State) (rn : BitVec 4) (o : AluOut) (sm : BitVec 32) (hg : o.flags.gt = none)
    (h : o.sticks sm) : ComputeFrame s (s.applyAlu rn o) [rn] [] 0x43F sm := by
  have h1 := aluStatus_frame s o.flags sm hg h.1 h.2.1 h.2.2.1 h.2.2.2
  unfold State.applyAlu
  split
  · exact h1.mono (by simp) (by simp) (by decide) (by simp)
  · exact (h1.trans (setRreg_frame _ rn _)).mono (by simp) (by simp) (by decide) (by simp)

theorem applyCompare_frame (s : State) (rn : BitVec 4) (o : AluOut) (sm : BitVec 32) (hv : o.val = none)
    (h : o.sticks sm) : ComputeFrame s (s.applyAlu rn o) [] [] 0xFF00043F sm := by
  unfold State.applyAlu
  rw [hv]
  exact compareStatus_frame s o.flags sm h.1 h.2.1 h.2.2.1 h.2.2.2

theorem applyDual_frame (s : State) (ra rs : BitVec 4) (a d : AluOut) (sm : BitVec 32) (ha : a.sticks sm)
    (hd : d.sticks sm) : ComputeFrame s (s.applyDual ra rs a d) [rs, ra] [] 0x43F sm := by
  have or_sticks : ∀ {x y c : Bool}, (x = true → c = true) → (y = true → c = true) → (x || y) = true → c = true := by
    decide
  have h1 := aluStatus_frame s (a.flags.or d.flags) sm rfl (or_sticks ha.1 hd.1) (or_sticks ha.2.1 hd.2.1)
    (or_sticks ha.2.2.1 hd.2.2.1) (or_sticks ha.2.2.2 hd.2.2.2)
  have put : ∀ (t : State) (r : BitVec 4) (o : AluOut), ComputeFrame t
      (match o.val with | none => t | some v => t.setRreg r v) [r] [] 0 0 := by
    intro t r o
    split
    · exact (ComputeFrame.refl t).mono (by simp) (by simp) (by simp) (by simp)
    · exact setRreg_frame _ _ _
  simp only [State.applyDual]
  split
  · rename_i he; subst he
    exact (h1.trans (put _ _ _)).mono (by simp) (by simp) (by decide) (by simp)
  · exact ((h1.trans (put _ rs d)).trans (put _ ra a)).mono (by simp) (by simp) (by decide) (by simp)

/-- What a multiplier output may leave in STKY. -/
def MulOut.sticks (o : MulOut) (sm : BitVec 32) : Prop :=
  (o.flags.mos = true → sm.getLsbD 6 = true) ∧ (o.flags.mvs = true → sm.getLsbD 7 = true) ∧
  (o.flags.mus = true → sm.getLsbD 8 = true) ∧ (o.flags.mi = true → sm.getLsbD 9 = true)

/-- The data register a multiplier output goes to, and the accumulator. -/
def MulOut.regs (o : MulOut) (rn : BitVec 4) : List (BitVec 4) := match o.val with | some _ => [rn] | none => []
def MulOut.accs (o : MulOut) : List Bool :=
  match o.val, o.acc with
  | none, some (b, _) => [b]
  | _, _ => []

theorem applyMul_frame (s : State) (rn : BitVec 4) (o : MulOut) (sm : BitVec 32) (h : o.sticks sm) :
    ComputeFrame s (s.applyMul rn o) (o.regs rn) o.accs 0x3C0 sm := by
  have h1 := mulStatus_frame s o.flags sm h.1 h.2.1 h.2.2.1 h.2.2.2
  simp only [State.applyMul, MulOut.regs, MulOut.accs]
  cases hv : o.val with
  | some v => exact (h1.trans (setRreg_frame _ rn _)).mono (by simp) (by simp) (by decide) (by simp)
  | none =>
    cases ha : o.acc with
    | none => exact h1
    | some p => exact (h1.trans (setAcc_frame _ p.1 p.2)).mono (by simp) (by simp) (by decide) (by simp)

theorem applyShift_frame (s : State) (rn : BitVec 4) (o : ShiftOut) :
    ComputeFrame s (s.applyShift rn o) (match o.val with | some _ => [rn] | none => []) [] 0x3800 0 := by
  unfold State.applyShift
  cases o.val with
  | none => exact shiftStatus_frame s o.flags
  | some v =>
    exact ((shiftStatus_frame s o.flags).trans (setRreg_frame _ rn _)).mono (by simp) (by simp) (by decide) (by simp)

/-! ### The operations of the units -/

theorem aluFixed_sticks (md : Modes) (op : AluOp) (x y : BitVec 32) : (aluFixed md op x y).sticks op.stkyMask := by
  cases op <;> simp [aluFixed, AluOut.sticks, AluOp.stkyMask, adder, average, compare, absolute, logicOut, logicFlags]

theorem aluFixed_gt (md : Modes) {op : AluOp} (x y : BitVec 32) (h : op ≠ .comp) : (aluFixed md op x y).flags.gt = none := by
  cases op <;> first | exact absurd rfl h | rfl

theorem fltInvalid_sticks (b : Bool) {sm : BitVec 32} (h5 : sm.getLsbD 5 = true) : (fltInvalid b).sticks sm := by
  simp [AluOut.sticks, fltInvalid, fltFlags, h5]

theorem fltOut_sticks (w : BitVec 40) (sm : BitVec 32) : (fltOut w).sticks sm := by simp [AluOut.sticks, fltOut, fltFlags]

theorem fixOut_sticks (r sm : BitVec 32) : (fixOut r).sticks sm := by simp [AluOut.sticks, fixOut, logicFlags]

theorem fixInvalid_sticks {sm : BitVec 32} (h5 : sm.getLsbD 5 = true) : fixInvalid.sticks sm := by
  simp [AluOut.sticks, fixInvalid, logicFlags, h5]

theorem fltPacked_sticks (k : Packed) {sm : BitVec 32} (h1 : k.overflow = true → sm.getLsbD 1 = true)
    (h0 : k.underflow = true → sm.getLsbD 0 = true) : (fltPacked k).sticks sm := by
  simp only [AluOut.sticks, fltPacked, fltFlags]
  exact ⟨h0, h1, by simp, by simp⟩

theorem fltSum_sticks (md : Modes) (h : Int) (x y : BitVec 40) : (fltSum md h x y).sticks 0x23 := by
  unfold fltSum
  split
  · exact fltInvalid_sticks _ (by decide)
  · split
    · exact fltOut_sticks _ _
    · split
      · exact fltOut_sticks _ _
      · dsimp only
        split
        · exact fltOut_sticks _ _
        · exact fltPacked_sticks _ (fun _ => by decide) (fun _ => by decide)

theorem fltUnary_sticks (md : Modes) (x r : BitVec 40) {sm : BitVec 32} (h5 : sm.getLsbD 5 = true) :
    (fltUnary md x r).sticks sm := by
  unfold fltUnary; split
  · exact fltInvalid_sticks _ h5
  · exact fltOut_sticks _ _

theorem fltBinary_sticks (md : Modes) (x y r : BitVec 40) {sm : BitVec 32} (h5 : sm.getLsbD 5 = true) :
    (fltBinary md x y r).sticks sm := by
  unfold fltBinary; split
  · exact fltInvalid_sticks _ h5
  · exact fltOut_sticks _ _

theorem fixOverflow_sticks (md : Modes) (neg : Bool) : (fixOverflow md neg).sticks 0x23 := by
  unfold fixOverflow; split <;> simp [AluOut.sticks, fixInvalid, logicFlags]

theorem fltFix_sticks (md : Modes) (mode : FixMode) (x : BitVec 40) (k : Int) : (fltFix md mode x k).sticks 0x23 := by
  unfold fltFix
  split
  · exact fixInvalid_sticks (by decide)
  · split
    · exact fixOverflow_sticks _ _
    · split
      · exact fixOut_sticks _ _
      · dsimp only
        split
        · exact fixOverflow_sticks _ _
        · split
          · exact fixOverflow_sticks _ _
          · simp [AluOut.sticks, fixOut, logicFlags]

/-- Packing a value whose exponent lies well within the range sets no flag. -/
theorem fltPack_inside (trunc : Bool) (p : Nat) (neg : Bool) (m : Nat) (e : Int)
    (hi : e + (Nat.log2 m : Int) < 127) (lo : -126 ≤ e + (Nat.log2 m : Int)) :
    (fltPack trunc p neg m e).overflow = false ∧ (fltPack trunc p neg m e).underflow = false := by
  unfold fltPack
  extract_lets l q carry big q'
  have hb : e + (Nat.log2 m : Int) ≤ big ∧ big ≤ e + (Nat.log2 m : Int) + 1 := by simp only [big, l]; split <;> omega
  rw [if_neg (by omega), if_neg (by omega)]
  exact ⟨rfl, rfl⟩

theorem fltPack_large (trunc : Bool) (p : Nat) (neg : Bool) (m : Nat) (e : Int) (lo : -126 ≤ e + (Nat.log2 m : Int)) :
    (fltPack trunc p neg m e).underflow = false := by
  unfold fltPack
  extract_lets l q carry big q'
  have hb : e + (Nat.log2 m : Int) ≤ big := by simp only [big, l]; split <;> omega
  split
  · rfl
  · rw [if_neg (by omega)]

theorem log2_lt_of_lt {m k : Nat} (h0 : m ≠ 0) (h : m < 2 ^ k) : Nat.log2 m < k := (Nat.log2_lt h0).2 h

theorem fltExp_pos {w : BitVec 40} (h : fltZero w = false) : 1 ≤ fltExp w := by
  simp [fltZero] at h; omega

theorem fltMant_log2 {w : BitVec 40} (h : fltZero w = false) : Nat.log2 (fltMant w) = 31 := by
  have hp := fltExp_pos h
  have hf : fltFrac w < 2 ^ 31 := (w.extractLsb' 0 31).isLt
  have hm : fltMant w = 2 ^ 31 + fltFrac w := by unfold fltMant; rw [if_neg (by omega)]
  have h1 : Nat.log2 (fltMant w) < 32 := log2_lt_of_lt (by omega) (by rw [hm]; omega)
  have h2 : 31 ≤ Nat.log2 (fltMant w) := (Nat.le_log2 (by omega)).2 (by omega)
  omega

theorem fltRound_sticks (md : Modes) (x : BitVec 40) : (fltRound md x).sticks 0x22 := by
  unfold fltRound
  split
  · exact fltInvalid_sticks _ (by decide)
  · split
    · exact fltOut_sticks _ _
    · rename_i hz
      simp only [Bool.or_eq_true, not_or, Bool.not_eq_true] at hz
      have hp := fltExp_pos hz.2
      refine fltPacked_sticks _ (fun _ => by decide) fun h => ?_
      rw [fltPack_large _ _ _ _ _ (by rw [fltMant_log2 hz.2]; unfold fltPow; omega)] at h
      exact absurd h (by decide)

theorem fltFloat_sticks (md : Modes) (x : BitVec 32) : (fltFloat md x 0).sticks 0 := by
  unfold fltFloat
  split
  · exact fltOut_sticks _ _
  · rename_i hx
    have h0 : x.toInt.natAbs ≠ 0 := by
      rw [Int.natAbs_ne_zero]; intro h
      exact hx (BitVec.eq_of_toInt_eq (by rw [h]; rfl))
    have h1 : x.toInt.natAbs < 2 ^ 32 := by have := x.toInt_lt; have := x.le_toInt; omega
    have hl := log2_lt_of_lt h0 h1
    have := fltPack_inside md.trunc 32 (x.getLsbD 31) x.toInt.natAbs 0 (by omega) (by omega)
    refine fltPacked_sticks _ ?_ ?_ <;> simp only [this, Bool.false_eq_true, false_imp_iff]

theorem aluFloat_sticks (md : Modes) (op : FltOp) (wx wy : BitVec 40) : (aluFloat md op wx wy).sticks op.stkyMask := by
  have weaken : ∀ {o : AluOut}, o.sticks 0x23 → o.flags.avs = false → o.sticks 0x21 := by
    intro o h hv; simp_all [AluOut.sticks]
  cases op <;> simp only [aluFloat, FltOp.stkyMask]
  case add => exact fltSum_sticks ..
  case sub => exact fltSum_sticks ..
  case absAdd => have := fltSum_sticks md 0 (fltIn md.rnd32 wx) (fltIn md.rnd32 wy); simpa [AluOut.sticks, fltAbsOut] using this
  case absSub =>
    have := fltSum_sticks md 0 (fltIn md.rnd32 wx) (fltNegate (fltIn md.rnd32 wy))
    simpa [AluOut.sticks, fltAbsOut] using this
  case avg =>
    refine weaken ?_ rfl
    have := fltSum_sticks md (-1) (fltIn md.rnd32 wx) (fltIn md.rnd32 wy)
    simp_all [AluOut.sticks, fltAvg]
  case comp => unfold fltCompare; split <;> simp [AluOut.sticks, fltFlags]
  case neg => exact fltUnary_sticks _ _ _ (by decide)
  case abs =>
    have := fltUnary_sticks md (fltIn md.rnd32 wx) (fltIn md.rnd32 wx &&& 0x7FFFFFFFFF) (sm := 0x20) (by decide)
    simpa [AluOut.sticks, fltAbsolute] using this
  case pass => exact fltUnary_sticks _ _ _ (by decide)
  case rnd => exact fltRound_sticks _ _
  case scalb =>
    unfold fltScale
    split
    · exact fltInvalid_sticks _ (by decide)
    · split
      · exact fltOut_sticks _ _
      · exact fltPacked_sticks _ (fun _ => by decide) (fun _ => by decide)
  case mant => unfold fltMantissa; split <;> simp [AluOut.sticks, fixInvalid, fixOut, logicFlags]
  case logb =>
    unfold fltLogb
    split
    · exact fixInvalid_sticks (by decide)
    · split
      · simp [AluOut.sticks, logicFlags]
      · split
        · simp [AluOut.sticks, logicFlags]
        · exact fixOut_sticks _ _
  case fix => exact fltFix_sticks ..
  case fixBy => exact fltFix_sticks ..
  case trunc => exact fltFix_sticks ..
  case truncBy => exact fltFix_sticks ..
  case float => exact fltFloat_sticks ..
  case floatBy =>
    unfold fltFloat
    split
    · exact fltOut_sticks _ _
    · exact fltPacked_sticks _ (fun _ => by decide) (fun _ => by decide)
  case recips =>
    unfold fltRecips
    dsimp only
    split
    · exact fltInvalid_sticks _ (by decide)
    · split
      · simp [AluOut.sticks, fltPole, fltFlags]
      · split <;> exact fltOut_sticks _ _
  case rsqrts =>
    unfold fltRsqrts
    dsimp only
    split
    · simp [AluOut.sticks, fltPole, fltFlags]
    · split
      · simp [AluOut.sticks, fltInvalid, fltFlags]
      · split <;> exact fltOut_sticks _ _
  case copysign => exact fltBinary_sticks _ _ _ _ (by decide)
  case min => exact fltBinary_sticks _ _ _ _ (by decide)
  case max => exact fltBinary_sticks _ _ _ _ (by decide)
  case clip => exact fltBinary_sticks _ _ _ _ (by decide)

theorem aluFloat_gt (md : Modes) {op : FltOp} (wx wy : BitVec 40) (h : op ≠ .comp) :
    (aluFloat md op wx wy).flags.gt = none := by
  have sum : ∀ (h : Int) (x y : BitVec 40), (fltSum md h x y).flags.gt = none := by
    intro h x y; unfold fltSum; dsimp only; split_ifs <;> rfl
  have fixO : ∀ neg, (fixOverflow md neg).flags.gt = none := by intro neg; unfold fixOverflow; split <;> rfl
  have fix : ∀ (m : FixMode) (x : BitVec 40) (k : Int), (fltFix md m x k).flags.gt = none := by
    intro m x k; unfold fltFix; dsimp only; split_ifs <;> first | rfl | exact fixO _
  have un : ∀ (x r : BitVec 40), (fltUnary md x r).flags.gt = none := by
    intro x r; unfold fltUnary; split <;> rfl
  have bin : ∀ (x y r : BitVec 40), (fltBinary md x y r).flags.gt = none := by
    intro x y r; unfold fltBinary; split <;> rfl
  cases op <;> first
    | exact absurd rfl h
    | exact sum ..
    | exact fix ..
    | exact un ..
    | exact bin ..
    | (simp only [aluFloat, fltRound]; split_ifs <;> rfl)
    | (simp only [aluFloat, fltScale]; split_ifs <;> rfl)
    | (simp only [aluFloat, fltMantissa]; split_ifs <;> rfl)
    | (simp only [aluFloat, fltLogb]; split_ifs <;> rfl)
    | (simp only [aluFloat, fltFloat]; split_ifs <;> rfl)
    | (simp only [aluFloat, fltRecips]; split_ifs <;> rfl)
    | (simp only [aluFloat, fltRsqrts]; split_ifs <;> rfl)

theorem multiply_sticks (md : Modes) (op : MulOp) (f b : BitVec 80) (wx wy : BitVec 40) :
    (multiply md op f b wx wy).sticks op.stkyMask := by
  have d : ∀ (fm : MulFmt) (dd : MulDest) (v : BitVec 80) (g : MulFlags), (deliver fm dd v g).flags = g := by
    intro fm dd v g; cases dd <;> rfl
  cases op <;> simp only [multiply, MulOp.stkyMask, mulAcc, mulSat, mulRnd, MulOut.sticks, d, mulFixedFlags, mulFlagsClear] <;>
    first
    | (simp; done)
    | (unfold fltMul; dsimp only; split_ifs <;> simp [mulFlagsClear])

/-- Where a multiplier operation's result goes. -/
theorem multiply_regs (md : Modes) (op : MulOp) (f b : BitVec 80) (wx wy : BitVec 40) (rn rx ry : BitVec 4) :
    (multiply md op f b wx wy).regs rn = (Compute.mul op rn rx ry).dests ∧
    (multiply md op f b wx wy).accs = (Compute.mul op rn rx ry).accs := by
  cases op <;> first
    | exact ⟨rfl, rfl⟩
    | (simp only [multiply, fltMul]; split_ifs <;> exact ⟨rfl, rfl⟩)

theorem shifter_val (op : ShiftOp) (x y z : BitVec 32) (av : Bool) (free : BitVec 80) (rn : BitVec 4) :
    (match (shifter op x y z av free).val with | some _ => [rn] | none => []) =
      (match op with | .btst => [] | _ => [rn]) := by
  have hb : ∀ r, (match (bitOut x y r).val with | some _ => [rn] | none => []) = [rn] := by
    intro r; unfold bitOut; by_cases h : y.toNat < 32 <;> simp [h, shiftOut]
  have hf : (match (fpack x free).val with | some _ => [rn] | none => []) = [rn] := by
    unfold fpack; dsimp only; split_ifs <;> simp
  cases op <;> simp only [shifter] <;> first
    | rfl
    | exact hb _
    | exact hf

theorem applyAluFixed_frame (t : State) (md : Modes) (rn : BitVec 4) (op : AluOp) (x y : BitVec 32) (rx ry : BitVec 4) :
    ComputeFrame t (t.applyAlu rn (aluFixed md op x y)) (Compute.alu op rn rx ry).dests []
      (Compute.alu op rn rx ry).astatMask op.stkyMask := by
  by_cases h : op = .comp
  · subst h; exact applyCompare_frame t rn _ _ rfl (aluFixed_sticks ..)
  · have := applyAlu_frame t rn _ _ (aluFixed_gt md x y h) (aluFixed_sticks ..)
    cases op <;> first | exact absurd rfl h | exact this

theorem applyAluFloat_frame (t : State) (md : Modes) (rn : BitVec 4) (op : FltOp) (x y : BitVec 40) (rx ry : BitVec 4) :
    ComputeFrame t (t.applyAlu rn (aluFloat md op x y)) (Compute.flt op rn rx ry).dests []
      (Compute.flt op rn rx ry).astatMask op.stkyMask := by
  by_cases h : op = .comp
  · subst h
    refine applyCompare_frame t rn _ _ ?_ (aluFloat_sticks ..)
    simp only [aluFloat, fltCompare]; split <;> rfl
  · have := applyAlu_frame t rn _ _ (aluFloat_gt md x y h) (aluFloat_sticks ..)
    cases op <;> first | exact absurd rfl h | exact this

theorem applyMulResult_frame (s : State) (op : MulOp) (rn rx ry ux uy : BitVec 4) :
    ComputeFrame s (s.applyMul rn (s.mulResult op ux uy)) (Compute.mul op rn rx ry).dests (Compute.mul op rn rx ry).accs
      0x3C0 op.stkyMask := by
  have := applyMul_frame s rn _ _ (multiply_sticks s.modes op (s.acc false) (s.acc true) (s.rreg ux) (s.rreg uy))
  rw [(multiply_regs s.modes op _ _ _ _ rn rx ry).1, (multiply_regs s.modes op _ _ _ _ rn rx ry).2] at this
  exact this

theorem shift_frame (s : State) (op : ShiftOp) (rn rx ry : BitVec 4) :
    ComputeFrame s (s.compute (.shift op rn rx ry)) (Compute.shift op rn rx ry).dests []
      (Compute.shift op rn rx ry).astatMask (Compute.shift op rn rx ry).stkyMask := by
  have := applyShift_frame s rn (shifter op (s.rfix rx) (s.rfix ry) (s.rfix rn) (s.flag 1) (freeAt s 4))
  rw [shifter_val] at this
  cases op <;> exact this

theorem mrRead_frame (s : State) (mr : MrReg) (rk : BitVec 4) :
    ComputeFrame s (s.compute (.mrRead mr rk)) [rk] [] 0x3C0 0 := by
  refine ((mulStatus_frame s mulFlagsClear 0 ?_ ?_ ?_ ?_).trans (setRreg_frame _ rk _)).mono ?_ ?_ ?_ ?_ <;>
    simp [mulFlagsClear]

theorem mrWrite_frame (s : State) (mr : MrReg) (rk : BitVec 4) :
    ComputeFrame s (s.compute (.mrWrite mr rk)) [] [mrBack mr] 0x3C0 0 := by
  refine ((mulStatus_frame s mulFlagsClear 0 ?_ ?_ ?_ ?_).trans (setAcc_frame _ (mrBack mr) _)).mono ?_ ?_ ?_ ?_ <;>
    simp [mulFlagsClear]

theorem mulAlu_frame (s : State) (mop : ParMul) (aop : ParAlu) (rm ra : BitVec 4) (rxm rym rxa rya : BitVec 2) :
    ComputeFrame s (s.compute (.mulAlu mop aop rm ra rxm rym rxa rya)) (Compute.mulAlu mop aop rm ra rxm rym rxa rya).dests
      (Compute.mulAlu mop aop rm ra rxm rym rxa rya).accs (Compute.mulAlu mop aop rm ra rxm rym rxa rya).astatMask
      (Compute.mulAlu mop aop rm ra rxm rym rxa rya).stkyMask := by
  refine ((applyMulResult_frame s (parMulOp mop) rm rm rm (reg0 rxm) (reg4 rym)).trans
    (applyAluFixed_frame _ s.modes ra (parAluOp aop) _ _ ra ra)).mono ?_ ?_ ?_ ?_
  · cases mop <;> cases aop <;> simp [Compute.dests, parMulOp, parAluOp]
  · cases mop <;> cases aop <;> simp [Compute.accs, parMulOp]
  · cases mop <;> cases aop <;> simp [Compute.astatMask, parAluOp]
  · simp [Compute.stkyMask]

theorem mulFlt_frame (s : State) (aop : ParFlt) (rm ra : BitVec 4) (rxm rym rxa rya : BitVec 2) :
    ComputeFrame s (s.compute (.mulFlt aop rm ra rxm rym rxa rya)) (Compute.mulFlt aop rm ra rxm rym rxa rya).dests
      (Compute.mulFlt aop rm ra rxm rym rxa rya).accs (Compute.mulFlt aop rm ra rxm rym rxa rya).astatMask
      (Compute.mulFlt aop rm ra rxm rym rxa rya).stkyMask := by
  refine ((applyMulResult_frame s .fmul rm rm rm (reg0 rxm) (reg4 rym)).trans
    (applyAluFloat_frame _ s.modes ra (parFltOp aop) _ _ ra ra)).mono ?_ ?_ ?_ ?_
  · cases aop <;> simp [Compute.dests, parFltOp]
  · simp [Compute.accs]
  · cases aop <;> simp [Compute.astatMask, parFltOp]
  · simp [Compute.stkyMask, MulOp.stkyMask]

theorem mulDualAlu_frame (s : State) (rs rm ra : BitVec 4) (rxm rym rxa rya : BitVec 2) :
    ComputeFrame s (s.compute (.mulDualAlu rs rm ra rxm rym rxa rya)) (Compute.mulDualAlu rs rm ra rxm rym rxa rya).dests
      [] (Compute.mulDualAlu rs rm ra rxm rym rxa rya).astatMask
      (Compute.mulDualAlu rs rm ra rxm rym rxa rya).stkyMask := by
  refine ((applyMulResult_frame s (.rn ssfr) rm rm rm (reg0 rxm) (reg4 rym)).trans
    (applyDual_frame _ ra rs _ _ _ (aluFixed_sticks _ .add ..) (aluFixed_sticks _ .sub ..))).mono ?_ ?_ ?_ ?_ <;>
    simp [Compute.dests, Compute.accs, Compute.astatMask, Compute.stkyMask, MulOp.stkyMask, AluOp.stkyMask]

theorem mulDualFlt_frame (s : State) (rs rm ra : BitVec 4) (rxm rym rxa rya : BitVec 2) :
    ComputeFrame s (s.compute (.mulDualFlt rs rm ra rxm rym rxa rya)) (Compute.mulDualFlt rs rm ra rxm rym rxa rya).dests
      [] (Compute.mulDualFlt rs rm ra rxm rym rxa rya).astatMask
      (Compute.mulDualFlt rs rm ra rxm rym rxa rya).stkyMask := by
  refine ((applyMulResult_frame s .fmul rm rm rm (reg0 rxm) (reg4 rym)).trans
    (applyDual_frame _ ra rs _ _ _ (aluFloat_sticks _ .add ..) (aluFloat_sticks _ .sub ..))).mono ?_ ?_ ?_ ?_ <;>
    simp [Compute.dests, Compute.accs, Compute.astatMask, Compute.stkyMask, MulOp.stkyMask, FltOp.stkyMask]

/-- Every operation of the COMPUTE field touches only its own results and flags. -/
theorem compute_frame (s : State) (c : Compute) :
    ComputeFrame s (s.compute c) c.dests c.accs c.astatMask c.stkyMask := by
  cases c with
  | none => exact ComputeFrame.refl s
  | alu op rn rx ry => exact applyAluFixed_frame s s.modes rn op _ _ rx ry
  | flt op rn rx ry => exact applyAluFloat_frame s s.modes rn op _ _ rx ry
  | dualAlu rs ra rx ry => exact applyDual_frame s ra rs _ _ _ (aluFixed_sticks _ .add ..) (aluFixed_sticks _ .sub ..)
  | dualFlt rs ra rx ry => exact applyDual_frame s ra rs _ _ _ (aluFloat_sticks _ .add ..) (aluFloat_sticks _ .sub ..)
  | mul op rn rx ry => exact applyMulResult_frame s op rn rx ry rx ry
  | shift op rn rx ry => exact shift_frame s op rn rx ry
  | mrRead mr rk => exact mrRead_frame s mr rk
  | mrWrite mr rk => exact mrWrite_frame s mr rk
  | mulAlu mop aop rm ra rxm rym rxa rya => exact mulAlu_frame s mop aop rm ra rxm rym rxa rya
  | mulFlt aop rm ra rxm rym rxa rya => exact mulFlt_frame s aop rm ra rxm rym rxa rya
  | mulDualAlu rs rm ra rxm rym rxa rya => exact mulDualAlu_frame s rs rm ra rxm rym rxa rya
  | mulDualFlt rs rm ra rxm rym rxa rya => exact mulDualFlt_frame s rs rm ra rxm rym rxa rya

/-- A row of the COMPUTE field completes with the effect of its operation. -/
theorem exec_of_toCompute {i : Instr} {c : Compute} (h : i.toCompute = some c) (s : State) :
    exec i s = .next (s.compute c) := by
  cases i <;> simp only [Instr.toCompute, reduceCtorEq, Option.some.injEq] at h <;> first
    | (subst h; rfl)

end Sys2Proof.Machine
end

