-- ==== Sys2Proof/Laws/Iop.lean ====
section
/-! SUPPORT. What an access of an IOP register by the core leaves alone: everything outside the I/O processor but, for a
write, the notes of the step. -/

namespace Sys2Proof.Machine

/-- Only the I/O processor and the notes of the step differ. -/
theorem iop_rest_trans {s t u : State} (h : t = { s with iop := t.iop, tr := t.tr })
    (k : u = { t with iop := u.iop, tr := u.tr }) : u = { s with iop := u.iop, tr := u.tr } := by
  rw [h] at k; exact k

theorem setEp_rest (s : State) (x : Bool) (e : ExtPort) : s.setEp x e = { s with iop := (s.setEp x e).iop } := by
  unfold State.setEp; split <;> rfl

theorem setSport_rest (s : State) (x : Bool) (p : Sport) : s.setSport x p = { s with iop := (s.setSport x p).iop } := by
  unfold State.setSport; split <;> rfl

theorem chanControl_rest (s : State) (c : Fin 10) (d : Bool) :
    s.chanControl c d = { s with iop := (s.chanControl c d).iop } := by
  unfold State.chanControl
  dsimp only
  split
  · rfl
  split
  · rfl
  split
  · rfl
  split
  · rfl
  · rw [setEp_rest]; rfl

theorem chanControls_rest (cs : List (Fin 10)) :
    ∀ s old : State, s.chanControls old cs = { s with iop := (s.chanControls old cs).iop } := by
  induction cs with
  | nil => intro s old; rfl
  | cons c cs ih =>
    intro s old
    rw [State.chanControls, ih, chanControl_rest]

theorem chainStart_rest (s : State) (c : Fin 10) : s.chainStart c = { s with iop := (s.chainStart c).iop } := by
  unfold State.chainStart; dsimp only; split <;> rfl

theorem setDmaParam_rest (s : State) (c : Fin 10) (r : DmaParam) (v : BitVec 32) :
    s.setDmaParam c r v = { s with iop := (s.setDmaParam c r v).iop } := by
  cases r <;> unfold State.setDmaParam <;> dsimp only
  · rfl
  · split <;> rfl
  all_goals first | rfl | exact setEp_rest ..

theorem readEpb_rest {s t : State} {x px : Bool} {site : Nat} {v : BitVec 48} (h : s.readEpb x px site = .ok (v, t)) :
    t = { s with iop := t.iop } := by
  unfold State.readEpb refuse at h
  dsimp only at h
  split at h
  · cases h
  split at h
  · cases h
  split at h
  · cases h; exact setEp_rest ..
  · split at h <;> cases h; rfl

/-- A read of an IOP register changes the I/O processor only. -/
theorem readReg_rest {s t : State} {px : Bool} {r : BitVec 8} {site : Nat} {v : BitVec 48}
    (h : s.readReg px r site = .ok (v, t)) : t = { s with iop := t.iop } := by
  unfold State.readReg at h
  split at h
  case h_11 =>
    exact readEpb_rest h
  case h_17 =>
    split at h
    next w t' hb =>
      cases h
      unfold State.readBuffer at hb
      dsimp only at hb
      split at hb <;> split at hb <;> cases hb <;> exact setSport_rest ..
    · cases h
  all_goals cases h; rfl

theorem sportControl_rest {s t : State} {x : Bool} {p : Sport} (h : s.sportControl x p = .ok t) :
    t = { s with iop := t.iop } := by
  unfold State.sportControl refuse at h
  split at h <;> cases h
  rw [chanControls_rest, setSport_rest]

theorem stopChan_rest (s : State) (c : Fin 10) : s.stopChan c = { s with iop := (s.stopChan c).iop } := rfl

theorem flushChan_rest (s : State) (x : Bool) : s.flushChan x = { s with iop := (s.flushChan x).iop } := by
  unfold State.flushChan
  dsimp only
  split <;> rw [stopChan_rest, setEp_rest]
  rfl

theorem writeDmac_rest {s t : State} {x : Bool} {v : BitVec 16} (h : s.writeDmac x v = .ok t) :
    t = { s with iop := t.iop } := by
  have key : ∀ e c d, (s.setEp x e).chanControl c d = { s with iop := ((s.setEp x e).chanControl c d).iop } := by
    intro e c d; rw [chanControl_rest, setEp_rest]
  unfold State.writeDmac refuse at h
  dsimp only at h
  split at h
  · cases h
  split at h
  · cases h
  split at h
  · cases h
  have := key ((s.iop.ep x).withDmac v) (epChan x) (s.den (epChan x))
  generalize (s.setEp x ((s.iop.ep x).withDmac v)).chanControl (epChan x) (s.den (epChan x)) = u at this h
  split at h
  · cases h; rw [flushChan_rest, this]
  · cases h; exact this

theorem writeTimer_rest {s t : State} {x : Bool} {r : TimerReg} {v : BitVec 32} (h : s.writeTimer x r v = .ok t) :
    t = { s with iop := t.iop } := by
  have key : ∀ y, s.setTimer x y = { s with iop := (s.setTimer x y).iop } := by
    intro y; unfold State.setTimer; split <;> rfl
  cases r
  all_goals
    dsimp only [State.writeTimer, refuse] at h
    try generalize s.lat.mode2.getLsbD (if x = true then 11 else 5) = on at h
    try generalize s.lat.mode2.getLsbD (if x = true then 12 else 7) = pw at h
  · cases on
    · cases h; exact key _
    · cases pw <;> cases h; rfl
  · cases on
    · cases h; exact key _
    · cases pw <;> cases h; rfl
  · cases h; rfl

theorem writeParam_rest {s t : State} {c : Fin 10} {p : DmaParam} {v : BitVec 32} (h : s.writeParam c p v = .ok t) :
    t = { s with iop := t.iop } := by
  unfold State.writeParam refuse at h
  dsimp only at h
  split at h
  · split at h <;> cases h
    rw [chainStart_rest, setDmaParam_rest]
  · cases h; rw [setDmaParam_rest]
  · split at h <;> cases h
    rw [setDmaParam_rest]

/-- A write of an IOP register changes the I/O processor and the notes of the step only. -/
theorem writeReg_rest {s t : State} {o px : Bool} {r : BitVec 8} {w : BitVec 48} (h : s.writeReg o px r w = .ok t) :
    t = { s with iop := t.iop, tr := t.tr } := by
  unfold State.writeReg at h
  dsimp only at h
  split at h
  case h_1 =>
    unfold State.writeSyscon refuse at h
    split at h <;> cases h
    rfl
  case h_2 =>
    cases h
    split
    · unfold State.writeVirptOutside; split <;> rfl
    · rfl
  case h_12 =>
    unfold State.writeEpb refuse at h
    dsimp only at h
    split at h
    · cases h
    split at h
    · cases h
    split at h
    · cases h; rw [setEp_rest]
    split at h <;> cases h; rfl
  case h_14 => rw [writeDmac_rest h]
  case h_15 =>
    rw [writeTimer_rest h]
  case h_16 => rw [writeParam_rest h]
  case h_17 =>
    unfold State.writeSport State.writeStctl State.writeSrctl at h
    split at h
    · rw [sportControl_rest h]
    · rw [sportControl_rest h]
    all_goals cases h; rw [setSport_rest]
  case h_18 =>
    unfold State.writeBuffer at h
    dsimp only at h
    split at h <;> split at h <;> cases h <;> rw [setSport_rest]
  all_goals cases h; rfl

/-- What counts steps in the I/O processor changes nothing outside of it. -/
theorem elapse_rest (s : State) : s.elapse = { s with iop := s.elapse.iop } := by
  simp only [State.elapse]
  split <;> rfl

/-! ### The host packing register and the buffers (61_dma_extport.md R759, R774) -/

@[simp] theorem flushHost_iop_sys (s : State) : s.flushHost.iop.sys = s.iop.sys := rfl
@[simp] theorem flushHost_iop_dma (s : State) : s.flushHost.iop.dma = s.iop.dma := rfl
@[simp] theorem flushHost_iop_ep0 (s : State) : s.flushHost.iop.ep0 = s.iop.ep0 := rfl
@[simp] theorem flushHost_iop_ep1 (s : State) : s.flushHost.iop.ep1 = s.iop.ep1 := rfl
@[simp] theorem flushHost_iop_hid_swf (s : State) : s.flushHost.iop.hid.swf = s.iop.hid.swf := rfl
@[simp] theorem flushHost_iop_hid_hostParts (s : State) : s.flushHost.iop.hid.hostParts = [] := rfl
@[simp] theorem flushHost_iop_hid_hostCount (s : State) : s.flushHost.iop.hid.hostCount = 0 := rfl

/-- An external word completes at most one internal word. -/
theorem feed_fifo_length (e : ExtPort) (k : Packing) (w : BitVec 32) :
    (e.feed k w).fifo.length ≤ e.fifo.length + 1 := by
  simp only [ExtPort.feed, List.length_append]
  cases (PackReg.feed ⟨e.pack, e.ps⟩ k w).1 <;> simp

/-- What drives an external word takes no internal word in. -/
theorem packNext_length {p q : PackReg} {k : Packing} {f g : List (BitVec 48)} {v : BitVec 32}
    (h : p.next k f = some (v, q, g)) : g.length ≤ f.length := by
  unfold PackReg.next at h
  repeat' (split at h)
  all_goals first
    | contradiction
    | (cases h; simp)

/-- An entry enters the slave write FIFO only while that holds fewer than four. -/
theorem swfPush_eq {s t : State} {host : Bool} {r : BitVec 8} {d : BitVec 48} (h : s.swfPush host r d = some t) :
    s.iop.hid.swf.length < 4 ∧ t = { s with iop.hid.swf := s.iop.hid.swf ++ [(host, r, d)] } := by
  unfold State.swfPush at h
  split at h
  · exact ⟨‹_›, (Option.some.inj h).symm⟩
  · cases h

/-! ### The latency of DMACx (61_dma_extport.md R733) -/

/-- After a write what it changes is unsure, a flush too, beside what earlier writes left so. -/
theorem unsure_withDmac (e : ExtPort) (v : BitVec 16) (k : Nat) :
    (e.withDmac v).unsure k = (e.unsure k || ((e.dmac ^^^ (v &&& 0x1FE7)) ||| (v &&& 0x2000)).getLsbD k) := by
  simp only [ExtPort.unsure, ExtPort.withDmac, BitVec.getLsbD_or]
  ac_rfl

/-- At the end of a step what was written two steps before it is sure. -/
theorem unsure_elapse (e : ExtPort) (k : Nat) : e.elapse.unsure k = (e.dmacNew ||| e.dmacPrev).getLsbD k := by
  simp [ExtPort.unsure, ExtPort.elapse]

/-- Without another write, three steps make all of it sure. -/
theorem unsure_elapse_thrice (e : ExtPort) (k : Nat) : e.elapse.elapse.elapse.unsure k = false := by
  simp [ExtPort.unsure, ExtPort.elapse]

end Sys2Proof.Machine
end

