-- ==== Sys2Proof/Laws/Access.lean ====
section
/-! SUPPORT. What writing a register, updating an index register, a store and a load can do: one lemma for each. -/

namespace Sys2Proof.Machine

/-! ### Address generator registers -/

theorem setReg_reg {w : Nat} (d : DagSet w) (f h : DagFile) (k j : BitVec 3) (v : BitVec w) :
    (d.setReg f k v).reg h j = if h = f ∧ j = k then v else d.reg h j := by
  have hne : j ≠ k → k.toNat ≠ j.toNat := fun h e => h (BitVec.eq_of_toNat_eq e.symm)
  by_cases hj : j = k
  · subst hj; cases f <;> cases h <;> simp [DagSet.setReg, DagSet.reg, Vector.get_eq_getElem]
  · cases f <;> cases h <;>
      simp [DagSet.setReg, DagSet.reg, Vector.get_eq_getElem, hj, Vector.getElem_set_ne, hne hj]

@[simp] theorem setDagReg_altDag (s : State) (f : DagFile) (g h : Bool) (k j : BitVec 3) (v : BitVec 32) :
    (s.setDagReg f g k v).altDag h j = s.altDag h j := by simp [State.altDag]

theorem dagTrunc_two (v : BitVec 32) : (v.setWidth 24).setWidth 32 = v &&& 0x00FFFFFF := by
  apply BitVec.eq_of_getLsbD_eq; intro i hi
  rw [show (0x00FFFFFF : BitVec 32) = BitVec.setWidth 32 (BitVec.allOnes 24) from rfl]
  simp only [BitVec.getLsbD_setWidth, BitVec.getLsbD_and, BitVec.getLsbD_allOnes, hi, decide_true, Bool.true_and]
  by_cases h : i < 24 <;> simp [h]

theorem setDagReg_dagReg (s : State) (f h : DagFile) (g e : Bool) (k j : BitVec 3) (v : BitVec 32) :
    (s.setDagReg f g k v).dagReg h e j = if h = f ∧ e = g ∧ j = k then dagTrunc g v else s.dagReg h e j := by
  unfold State.dagReg
  rw [setDagReg_altDag]
  by_cases hj : j = k
  · subst hj
    cases g <;> cases e <;> cases ha : s.altDag false j <;> cases hb : s.altDag true j <;>
      simp [State.setDagReg, ha, hb, setReg_reg, dagTrunc] <;> split <;> simp_all [dagTrunc_two]
  · cases g <;> cases e <;> cases ha : s.altDag false j <;> cases hb : s.altDag true j <;>
      cases hc : s.altDag false k <;> cases hd : s.altDag true k <;>
      simp [State.setDagReg, hc, hd, setReg_reg, hj]

theorem setDagReg_idleDag (s : State) (f h : DagFile) (g e : Bool) (k j : BitVec 3) (v : BitVec 32) :
    (s.setDagReg f g k v).idleDag h e j = s.idleDag h e j := by
  unfold State.idleDag
  rw [setDagReg_altDag]
  by_cases hj : j = k
  · subst hj
    cases g <;> cases e <;> cases ha : s.altDag false j <;> cases hb : s.altDag true j <;>
      simp [State.setDagReg, ha, hb]
  · cases g <;> cases e <;> cases ha : s.altDag false j <;> cases hb : s.altDag true j <;>
      cases hc : s.altDag false k <;> cases hd : s.altDag true k <;>
      simp [State.setDagReg, hc, hd, setReg_reg, hj]

theorem setDagReg_rest (s : State) (f : DagFile) (g : Bool) (k : BitVec 3) (v : BitVec 32) :
    s.setDagReg f g k v = { s with dag := (s.setDagReg f g k v).dag } := by
  unfold State.setDagReg; split <;> rfl

/-- A write of one address generator register, as the statements say it. -/
theorem setDagReg_written (s : State) (f : DagFile) (g : Bool) (k : BitVec 3) (v : BitVec 32) :
    DagWritten s (s.setDagReg f g k v) [(f, g, k, dagTrunc g v)] := by
  refine ⟨setDagReg_rest s f g k v, ?_, ?_, fun h e j => setDagReg_idleDag s f h g e k j v⟩
  · simp [setDagReg_dagReg]
  · intro h e j hn
    have := hn _ (List.mem_singleton.2 rfl)
    rw [setDagReg_dagReg, if_neg]
    rintro ⟨rfl, rfl, rfl⟩; exact this rfl

/-- A write of B with its I. -/
theorem setDagReg_written_bi (s : State) (g : Bool) (k : BitVec 3) (v : BitVec 32) :
    DagWritten s ((s.setDagReg .b g k v).setDagReg .i g k v) [(.b, g, k, dagTrunc g v), (.i, g, k, dagTrunc g v)] := by
  refine ⟨?_, ?_, ?_, fun h e j => by rw [setDagReg_idleDag, setDagReg_idleDag]⟩
  · have h1 := setDagReg_rest (s.setDagReg .b g k v) .i g k v
    generalize (s.setDagReg .b g k v).setDagReg .i g k v = y at *
    rw [h1]; simp
  · simp [setDagReg_dagReg]
  · intro h e j hn
    have h1 := hn _ (List.mem_cons_self ..)
    have h2 := hn (.i, g, k, dagTrunc g v) (by simp)
    rw [setDagReg_dagReg, if_neg, setDagReg_dagReg, if_neg]
    · rintro ⟨rfl, rfl, rfl⟩; exact h1 rfl
    · rintro ⟨rfl, rfl, rfl⟩; exact h2 rfl

theorem dagTrunc_wrap (g : Bool) (i : BitVec 32) (mv : Int) (b l : BitVec 32) :
    dagTrunc g (wrap g i mv b l) = wrap g i mv b l := by
  unfold wrap; simp only []; generalize BitVec.ofInt 32 _ = z
  cases g <;> simp [dagTrunc, BitVec.and_assoc]

theorem dagReg_congr {s t : State} (hd : t.dag = s.dag) (hl : t.lat = s.lat) (f : DagFile) (g : Bool) (k : BitVec 3) :
    t.dagReg f g k = s.dagReg f g k := by unfold State.dagReg State.altDag; rw [hd, hl]

theorem idleDag_congr {s t : State} (hd : t.dag = s.dag) (hl : t.lat = s.lat) (f : DagFile) (g : Bool) (k : BitVec 3) :
    t.idleDag f g k = s.idleDag f g k := by unfold State.idleDag State.altDag; rw [hd, hl]

/-- A postmodify, as the statements say it. -/
theorem postmodify_updated (s : State) (g : Bool) (k : BitVec 3) (m : BitVec 32) : Updated s (s.postmodify g k m) g k m := by
  obtain ⟨hr, hv, ho, hi⟩ := setDagReg_written s .i g k
    (wrap g (s.dagReg .i g k) (dagSigned g m) (s.dagReg .b g k) (s.dagReg .l g k))
  have hp : s.postmodify g k m =
      let t := s.setDagReg .i g k (wrap g (s.dagReg .i g k) (dagSigned g m) (s.dagReg .b g k) (s.dagReg .l g k))
      if k = 7 ∧ wraps (s.dagReg .i g k) (dagSigned g m) (s.dagReg .b g k) (s.dagReg .l g k) = true then
        { t with
          sys.stky := t.sys.stky ||| (if g then 0x00040000 else 0x00020000)
          tr.requests := t.tr.requests ||| (if g then 0x00400000 else 0x00200000) }
      else t := rfl
  simp only [List.mem_singleton, forall_eq, ne_eq, dagTrunc_wrap] at hv ho
  generalize hw : wraps (s.dagReg .i g k) (dagSigned g m) (s.dagReg .b g k) (s.dagReg .l g k) = w at hp
  generalize hx : wrap g (s.dagReg .i g k) (dagSigned g m) (s.dagReg .b g k) (s.dagReg .l g k) = x at hp hr hv ho hi
  have hs : (s.setDagReg .i g k x).sys = s.sys := setDagReg_sys ..
  have ht : (s.setDagReg .i g k x).tr = s.tr := setDagReg_tr ..
  have hl : (s.setDagReg .i g k x).lat = s.lat := setDagReg_lat ..
  generalize s.setDagReg .i g k x = y at hp hr hv ho hi hs ht hl
  have hd : (s.postmodify g k m).dag = y.dag := by rw [hp]; simp only []; split <;> rfl
  have hl' : (s.postmodify g k m).lat = y.lat := by rw [hp]; simp only []; split <;> rfl
  refine ⟨⟨?_, ?_, ?_⟩, ?_, ?_, ?_, ?_, ?_⟩
  · rw [hp]; simp only []; split <;> rw [hr]
  · rw [hp]; simp only []
    split
    · simp only [hs]
      cases g <;> simp only [if_true, if_false, Bool.false_eq_true] <;> ext i hi <;>
        simp only [BitVec.getElem_and, BitVec.getElem_or, BitVec.getElem_not] <;> interval_cases i <;> simp
    · rw [hs]
  · rw [hp]; simp only []
    split
    · simp only [hs]; ext i hi
      simp only [BitVec.getElem_and, BitVec.getElem_or, BitVec.getElem_not]; simp; intro h1 h2; simp [h1] at h2
    · rw [hs]; ext i hi; simp
  · rw [dagReg_congr hd hl', hv, hx]
  · intro f h j hn; rw [dagReg_congr hd hl']; exact ho f h j (by simpa [eq_comm] using hn)
  · intro f h j; rw [idleDag_congr hd hl']; exact hi f h j
  · intro h
    rw [hw, hp]; simp only []
    by_cases hk : k = 7
    · subst hk; cases w <;> cases g <;> cases h <;> simp [hs]
    · have h7 : ¬k = 7#3 := hk
      simp [h7, hs]
  · intro j
    rw [hw, hp]; simp only []
    by_cases hk : k = 7
    · subst hk
      cases w
      · simp [ht]
      · simp only [true_and, if_true, ht, BitVec.getLsbD_or, Bool.and_true]
        congr 1
        by_cases hj : j < 32
        · cases g <;> interval_cases j <;> rfl
        · rw [BitVec.getLsbD_of_ge _ _ (by omega)]; cases g <;> simp <;> omega
    · have h7 : ¬k = 7#3 := hk
      simp [h7, ht]

/-! ### Stacks as registers -/

theorem getD_set {α : Type} (l : List α) (k j : Nat) (x z : α) (hj : j < l.length) :
    (l.set k x).getD j z = if j = k then x else l.getD j z := by
  simp only [List.getD_eq_getElem?_getD, List.getElem?_set]
  by_cases h : j = k
  · subst h; simp [hj]
  · simp [h, Ne.symm h]

theorem sixth_setSixth (v : Vector (BitVec 32) 6) (k j : Nat) (x : BitVec 32) (hj : j < 6) :
    sixth (setSixth v k x) j = if j = k then x else sixth v j := by
  have : (setSixth v k x).toList = v.toList.set k x := by simp [setSixth, Vector.toList]
  unfold sixth; rw [this, getD_set _ _ _ _ _ (by simpa using hj)]

theorem setSixth_written (v : Vector (BitVec 32) 6) (k : Nat) (x : BitVec 32) : SixthWritten v (setSixth v k x) k x :=
  fun j hj => sixth_setSixth v k j x hj

theorem getD_setIfInBounds {α : Type} {n : Nat} {z : α} (v : Vector α n) (k j : Nat) (x : α) (hj : j < n) :
    (v.setIfInBounds k x).toList.getD j z = if j = k then x else v.toList.getD j z := by
  have : (v.setIfInBounds k x).toList = v.toList.set k x := by simp [Vector.toList]
  rw [this, getD_set _ _ _ _ _ (by simpa using hj)]

theorem getLsbD_ite_zero (c : Prop) [Decidable c] (x : BitVec 32) (j : Nat) :
    (if c then x else 0).getLsbD j = (decide c && x.getLsbD j) := by by_cases h : c <;> simp [h]

/-! ### Universal registers -/

/-- A register write, as the statements say it. -/
theorem uregWrite_written {s : State} {fromMem : Bool} {u : Ureg} {d : BitVec 40}
    (h : s.settable fromMem u (d.extractLsb' 8 32) = true) :
    ∃ t, s.uregWrite fromMem u d = .ok t ∧ UregWritten s t fromMem u d := by
  cases u with
  | r n =>
    refine ⟨_, rfl, ?_, fun k => setRreg_rreg s n k d, fun k => setRreg_idleReg s n k d⟩
    unfold State.setRreg; split <;> rfl
  | i n => exact ⟨_, rfl, setDagReg_written ..⟩
  | m n => exact ⟨_, rfl, setDagReg_written ..⟩
  | l n => exact ⟨_, rfl, setDagReg_written ..⟩
  | b n => exact ⟨_, rfl, setDagReg_written_bi ..⟩
  | faddr => exact ⟨_, rfl, rfl⟩
  | daddr => exact ⟨_, rfl, rfl⟩
  | pc => exact ⟨_, rfl, rfl⟩
  | pcstk =>
    refine ⟨_, rfl, ?_⟩
    unfold UregWritten
    by_cases hp : s.pcEmpty
    · simp only [hp, if_true]
    · have h0 : s.stk.pcstkp ≠ 0 := by simpa [State.pcEmpty] using hp
      have h1 : s.stk.pcstkp.toNat ≠ 0 := fun e => h0 (BitVec.eq_of_toNat_eq (by simpa using e))
      have hf : s.pcEmpty = false := by simpa using hp
      simp only [hf, Bool.false_eq_true, if_false, true_and]
      refine ⟨?_, ?_⟩
      · show List.getD (Vector.toList _) (min s.stk.pcstkp.toNat 30 - 1) 0 = _
        rw [getD_setIfInBounds _ _ _ _ (by omega), if_pos rfl]
      · intro k hk hne; rw [getD_setIfInBounds _ _ _ _ hk, if_neg hne]
  | pcstkp =>
    refine ⟨_, rfl, ?_⟩
    unfold UregWritten; dsimp only; split <;> rfl
  | laddr =>
    refine ⟨_, rfl, ?_⟩
    unfold UregWritten; dsimp only; split
    · exact ⟨rfl, setSixth_written _ _ _⟩
    · rfl
  | curlcntr =>
    simp only [State.settable, Bool.or_eq_true, Bool.not_eq_true'] at h
    simp only [State.uregWrite, State.writeCurlcntr, UregWritten]
    by_cases hc : (!s.looping || decide (s.loopType = 0)) = true
    · simp only [if_pos hc]; exact ⟨_, rfl, rfl⟩
    · simp only [if_neg hc]
      have hn : (s.inShortLoop || s.atLoopTest || fromMem && s.lat.afterNotLce) = false :=
        h.resolve_left fun h => hc (by simpa using h)
      rw [hn]
      exact ⟨_, rfl, rfl, setSixth_written _ _ _⟩
  | lcntr => exact ⟨_, rfl, rfl, setSixth_written _ _ _⟩
  | ustat1 => exact ⟨_, rfl, rfl⟩
  | ustat2 => exact ⟨_, rfl, rfl⟩
  | irptl =>
    simp only [State.settable, Bool.not_eq_true'] at h
    simp only [State.uregWrite, State.sregWrite, h]
    exact ⟨_, rfl, rfl⟩
  | mode2 => exact ⟨_, rfl, rfl⟩
  | mode1 => exact ⟨_, rfl, rfl⟩
  | astat =>
    refine ⟨_, rfl, rfl, fun j hj => ?_⟩
    simp only [State.inputFlags]
    generalize s.lat.mode2 = m
    generalize BitVec.extractLsb' 8 32 d = v
    generalize s.sys.astat = a
    simp only [BitVec.getLsbD_or, BitVec.getLsbD_and, BitVec.getLsbD_not, hj, decide_true, Bool.true_and,
      BitVec.getLsbD_shiftLeft, BitVec.getLsbD_setWidth, BitVec.getLsbD_extractLsb']
    interval_cases j <;> simp <;> split <;> simp_all
  | imask => exact ⟨_, rfl, rfl⟩
  | stky =>
    refine ⟨_, rfl, rfl, fun j hj => ?_⟩
    simp only [State.stkyView, BitVec.getLsbD_or, BitVec.getLsbD_and, BitVec.getLsbD_not, getLsbD_ite_zero, hj,
      decide_true, Bool.true_and]
    generalize BitVec.extractLsb' 8 32 d = v
    generalize s.sys.stky = a
    interval_cases j <;> simp
  | imaskp => exact ⟨_, rfl, rfl⟩
  | px => exact ⟨_, rfl, rfl⟩
  | px1 => exact ⟨_, rfl, rfl⟩
  | px2 => exact ⟨_, rfl, rfl⟩

/-! ### Memory accesses -/

/-- A computation, as the statements say it. -/
theorem compute_computed (s : State) (c : Compute) : Computed c s (s.compute c) := by
  refine ⟨?_, compute_frame s c⟩
  simp [exec, execCompute, State.given, State.cond, State.noteCond, finish]

@[simp] theorem touchAt_env (s : State) (px : Bool) (p : Place) : (s.touchAt px p).env = s.env := by cases p <;> rfl
@[simp] theorem touchAt_lat (s : State) (px : Bool) (p : Place) : (s.touchAt px p).lat = s.lat := by cases p <;> rfl

theorem imdw_of_rest {s t : State} {px : Bool} {p : Place} {m : List Host.Cell} {f : List ShadowEntry}
    (h : t = { s.touchAt px p with mem := m, shadow := f }) (b : Bool) : t.imdw b = s.imdw b := by
  subst h; cases p <;> rfl

theorem queueWrite_rest (s : State) (w : Bool) (cs : List (Nat × BitVec 16)) :
    s.queueWrite w cs = { s with mem := (s.queueWrite w cs).mem, shadow := (s.queueWrite w cs).shadow } := by
  unfold State.queueWrite; split <;> rfl

theorem wideCell_ne (b : Bool) (off : Nat) {j k : Nat} (h : j ≠ k) : wideCell b off j ≠ wideCell b off k := by
  unfold wideCell cellNumber; omega

theorem narrowCell_ne (b : Bool) (off : Nat) {j k : Nat} (h : j ≠ k) : narrowCell b off j ≠ narrowCell b off k := by
  unfold narrowCell cellNumber; omega

theorem upper40_eq (w : BitVec 48) : upper40 w = w.extractLsb' 8 40 ++ 0#8 := by
  have h : ∀ i, i < 48 → (w.extractLsb' 8 40 ++ 0#8).getLsbD i = (upper40 w).getLsbD i := by
    intro i hi
    rw [BitVec.getLsbD_append, upper40, BitVec.getLsbD_and, BitVec.getLsbD_extractLsb']
    interval_cases i <;> simp
  exact (BitVec.eq_of_getLsbD_eq h).symm
theorem thirds48 (v : BitVec 48) : v.extractLsb' 32 16 ++ v.extractLsb' 16 16 ++ v.extractLsb' 0 16 = v := by
  apply BitVec.eq_of_getLsbD_eq; intro i hi
  simp only [BitVec.getLsbD_append, BitVec.getLsbD_extractLsb']
  interval_cases i <;> simp
theorem halves32 (v : BitVec 32) : v.extractLsb' 16 16 ++ v.extractLsb' 0 16 = v := by
  apply BitVec.eq_of_getLsbD_eq; intro i hi
  simp only [BitVec.getLsbD_append, BitVec.getLsbD_extractLsb']
  interval_cases i <;> simp

/-- A store of a normal word, as the statements say it. -/
theorem storeNormal_at {s : State} (h : MemInv s) (g px b : Bool) (off : Nat) (w : BitVec 48) :
    StoreAt s (s.storeNormal g px b off w) g px (.normal b off) w := by
  have hwide : s.wideAccess px b = (px || s.imdw b) := rfl
  unfold State.storeNormal
  by_cases hw : (px || s.imdw b) = true
  · rw [if_pos hw]
    by_cases he : wideExists b off = true
    · rw [if_pos he]
      generalize hv : (if (px && g) = true then w else upper40 w) = v
      have hr := queueWrite_rest s true (wideWrites b off v)
      refine ⟨hr, ?_, ?_⟩
      · intro _
        have hi : (s.queueWrite true (wideWrites b off v)).wideAccess px b = true := by
          rw [State.wideAccess, imdw_of_rest (px := px) (p := .reserved) hr]; exact hw
        simp only [State.wordAt, State.storedForm, hi, hwide, hw, if_true]
        rw [settledCell_queueWrite h.canonical, settledCell_queueWrite h.canonical, settledCell_queueWrite h.canonical]
        have h01 := wideCell_ne b off (show 0 ≠ 1 by decide)
        have h02 := wideCell_ne b off (show 0 ≠ 2 by decide)
        have h12 := wideCell_ne b off (show 1 ≠ 2 by decide)
        simp only [wideWrites, cellLookup, h01, h02, h12, if_true, if_false, Option.getD_some]
        rw [thirds48, ← hv, upper40_eq]
      · intro k hk
        simp only [State.storedKeys, hwide, hw, he, if_true, List.mem_append, not_or] at hk
        refine byteAt_queueWrite h _ _ _ fun c hc => ?_
        simp only [wideWrites, List.mem_cons, List.not_mem_nil, or_false] at hc
        rcases hc with rfl | rfl | rfl
        · exact hk.1.1
        · exact hk.1.2
        · exact hk.2
    · rw [if_neg he]
      refine ⟨rfl, ?_, fun _ _ => rfl⟩
      intro hh; simp [State.holds, hwide, hw, he] at hh
  · rw [if_neg hw]
    have hf : (px || s.imdw b) = false := by simpa using hw
    have hr := queueWrite_rest s false (narrowWrites b off (w.extractLsb' 16 32))
    refine ⟨hr, ?_, ?_⟩
    · intro _
      have hi : (s.queueWrite false (narrowWrites b off (w.extractLsb' 16 32))).wideAccess px b = false := by
        rw [State.wideAccess, imdw_of_rest (px := px) (p := .reserved) hr]; exact hf
      simp only [State.wordAt, State.storedForm, hi, hwide, hf, Bool.false_eq_true, if_false]
      rw [settledCell_queueWrite h.canonical, settledCell_queueWrite h.canonical]
      have h01 := narrowCell_ne b off (show 0 ≠ 1 by decide)
      simp only [narrowWrites, cellLookup, h01, if_true, if_false, Option.getD_some]
      rw [halves32]
    · intro k hk
      simp only [State.storedKeys, hwide, hf, Bool.false_eq_true, if_false, List.mem_append, not_or] at hk
      refine byteAt_queueWrite h _ _ _ fun c hc => ?_
      simp only [narrowWrites, List.mem_cons, List.not_mem_nil, or_false] at hc
      rcases hc with rfl | rfl
      · exact hk.1
      · exact hk.2

/-- What an external access waits for is the bus. -/
@[simp] theorem extWait_ofBus (s : State) (remote px : Bool) : (s.extWait remote px).ofBus = true := by
  unfold State.extWait State.heldWait
  split <;> split <;> rfl

/-- What a core without the bus, or without it for SBTS, waits for: an access in progress stays one, of the same place, and
nothing that was not in progress becomes it. -/
@[simp] theorem heldWait_transfer (s : State) :
    s.heldWait.transfer = (s.busMaster && s.iop.hid.coreWait.transfer) := by
  unfold State.heldWait
  cases s.busMaster <;> cases s.iop.hid.coreWait <;> rfl

/-- A store of immediate bits away from the IOP registers is a store. -/
theorem storeImm_eq {s : State} (pm : Bool) {a : BitVec 32} (data : BitVec 32)
    (h : (∀ r, place s.env.id a ≠ .iop r) ∨ s.env.immToIop = true) :
    s.storeImm pm a data = s.store pm false a (image32 data) := by
  unfold State.storeImm
  split
  · next r hp hi =>
      rcases h with h | h
      · exact absurd hp (h r)
      · rw [hi] at h; cases h
  · rfl

/-- A store of immediate bits at an IOP register that it does not reach changes nothing. -/
theorem storeImm_iop {s : State} (pm : Bool) {a : BitVec 32} (data : BitVec 32) {r : BitVec 8}
    (hp : place s.env.id a = .iop r) (h : s.env.immToIop = false) : s.storeImm pm a data = .ok s := by
  simp [State.storeImm, hp, h]

/-- A store to external memory, as the statements say it. -/
theorem storeExt_at {s : State} (h : MemInv s) (g px : Bool) (n : Nat) (w : BitVec 48) :
    StoreAt s ((if px then s.storeExtWide n w else s.storeExt n (w.extractLsb' 16 32)).extTouch px) g px (.ext n) w := by
  have byte : ∀ (m : List Host.Cell) (k : Nat), k ∉ s.storedKeys px (.ext n) →
      s.extKeeps n = true →
      (m = if px then writeExtWide s.mem n w else writeExt s.mem n (w.extractLsb' 16 32)) → readByte m k = readByte s.mem k := by
    intro m k hk hs hm
    simp only [State.storedKeys, hs, if_true] at hk
    cases px
    · simp only [Bool.false_eq_true, if_false] at hk hm; rw [hm, readByte_writeExt h.canonical _ _ _ hk]
    · simp only [if_true] at hk hm; rw [hm, readByte_writeExtWide h.canonical _ _ _ hk]
  have low : ∀ (m : List Host.Cell) (c : Nat), c < 131072 →
      (m = if px then writeExtWide s.mem n w else writeExt s.mem n (w.extractLsb' 16 32)) → readCell m c = readCell s.mem c := by
    intro m c hc hm
    have no : ∀ a k, k < 262144 → k ∉ extKeys a := by
      intro a k hk; simp only [extKeys, extBase, List.mem_cons, List.not_mem_nil, or_false]; omega
    subst hm
    unfold readCell
    cases px
    · simp only [Bool.false_eq_true, if_false]
      rw [readByte_writeExt h.canonical _ _ _ (no _ _ (by omega)), readByte_writeExt h.canonical _ _ _ (no _ _ (by omega))]
    · simp only [if_true]
      rw [readByte_writeExtWide h.canonical _ _ _ (by simp [no _ _ (show 2 * c + 1 < 262144 by omega)]),
        readByte_writeExtWide h.canonical _ _ _ (by simp [no _ _ (show 2 * c < 262144 by omega)])]
  by_cases hs' : s.extKeeps n = true
  case neg =>
    have hf : s.extKeeps n = false := by simpa using hs'
    have he : (if px then s.storeExtWide n w else s.storeExt n (w.extractLsb' 16 32)) = s := by
      cases px <;> simp [State.storeExtWide, State.storeExt, hf]
    rw [he]
    refine ⟨rfl, fun hh => ?_, fun _ _ => rfl⟩
    simp only [State.holds, State.extHolds, State.extKeeps] at hh hf
    cases h1 : s.inSdram n <;> simp_all
  case pos =>
    have he : (if px then s.storeExtWide n w else s.storeExt n (w.extractLsb' 16 32)) =
        { s with mem := if px then writeExtWide s.mem n w else writeExt s.mem n (w.extractLsb' 16 32) } := by
      cases px <;> simp [State.storeExtWide, State.storeExt, hs']
    rw [he]
    refine ⟨rfl, ?_, ?_⟩
    · intro _
      cases px
      · simp [State.wordAt, State.storedForm, readExt_writeExt_same h.canonical]
      · simp [State.wordAt, State.storedForm, readExtWide_writeExtWide_same h.canonical]
    · intro k hk
      unfold State.byteAt State.settledCell
      simp only [extTouch_mem, extTouch_shadow]
      split
      · next hlt =>
          rw [low _ (k / 2) (by simp only [extBase] at hlt; omega) rfl]
      · exact byte _ k hk hs' rfl

/-- A store that completes, as the statements say it. -/
theorem store_stored {s : State} (h : MemInv s) {g px : Bool} {a : BitVec 32} {w : BitVec 48}
    (ok : StoreOk s g px (place s.env.id a) w) :
    ∃ x, s.store g px a w = .ok x ∧ Stored s x g px (place s.env.id a) w := by
  unfold State.store
  unfold StoreOk at ok
  unfold Stored
  cases hp : place s.env.id a with
  | iop r =>
    simp only [hp] at ok
    obtain ⟨x, hx⟩ := ok
    rw [← upper40_eq] at hx ⊢
    exact ⟨x, hx, hx, writeReg_rest hx⟩
  | remote =>
    simp only [hp, State.completes] at ok
    simp only [ok, if_true]
    exact ⟨_, rfl, rfl, fun hh => by simp [State.holds] at hh, fun _ _ => rfl⟩
  | reserved => exact ⟨_, rfl, rfl, fun hh => by simp [State.holds] at hh, fun _ _ => rfl⟩
  | normal b off => exact ⟨_, rfl, storeNormal_at h g px b off w⟩
  | short c =>
    refine ⟨_, rfl, queueWrite_rest .., ?_, ?_⟩
    · intro _
      simp [State.wordAt, State.storedForm, settledCell_queueWrite h.canonical, cellLookup]
    · intro k hk
      exact byteAt_queueWrite h _ _ _ fun c hc => by simp at hc; subst hc; exact hk
  | ext n =>
    simp only [hp, State.completes] at ok
    simp only [ok, if_true]
    exact ⟨_, rfl, storeExt_at h g px n w⟩

/-! ### Loads -/

theorem shadowFind_eq_settledFind {c : Nat} {wide : Bool} : ∀ {es : List ShadowEntry},
    (∀ e ∈ es, ∀ d ∈ e.cells, d.1 = c → e.wide = wide) → shadowFind wide c es = settledFind c es
  | [], _ => rfl
  | e :: es, h => by
    have ih := shadowFind_eq_settledFind (c := c) (wide := wide) (es := es) fun f hf => h f (List.mem_cons_of_mem _ hf)
    rw [shadowFind, settledFind, ih]
    split
    · rfl
    · split
      · rfl
      · next hw =>
          rw [cellLookup_none]
          intro d hd hc
          exact hw (h e (List.mem_cons_self ..) d hd hc)

/-- A cell reads as it will stand once the queued writes are done, if those that touch it are of the width class of the
read. -/
theorem cell_eq_settledCell {s : State} {wide : Bool} {c : Nat}
    (h : ∀ e ∈ s.shadow, ∀ d ∈ e.cells, d.1 = c → e.wide = wide) : s.cell wide c = s.settledCell c := by
  unfold State.cell State.settledCell
  rw [shadowFind_eq_settledFind h]

/-- A load that completes, as the statements say it. -/
theorem load_loaded {s : State} {g : Bool} {u : Ureg} {a : BitVec 32} {site : Nat} (ok : LoadOk s u (place s.env.id a)) :
    ∃ w x, s.load g u a site = .ok (w, x) ∧ Loaded s x g u (place s.env.id a) w := by
  unfold State.load
  unfold LoadOk at ok
  unfold Loaded
  cases hp : place s.env.id a with
  | iop r =>
    simp only [hp] at ok
    obtain ⟨⟨v, x⟩, hx⟩ := ok site
    simp only [hx]
    refine ⟨_, _, rfl, site, v, hx, readReg_rest hx, ?_⟩
    simp only [← upper40_eq]; rfl
  | remote =>
    simp only [hp, State.completes] at ok
    simp only [ok, if_true]
    exact ⟨_, _, rfl, rfl, fun hh => by simp [State.holds] at hh⟩
  | reserved => exact ⟨_, _, rfl, rfl, fun hh => by simp [State.holds] at hh⟩
  | normal b off =>
    refine ⟨_, _, rfl, rfl, ?_⟩
    intro hh hs
    have key : ∀ wide c, s.wideAccess (decide (u = .px)) b = wide →
        2 * c ∈ s.storedKeys (decide (u = .px)) (.normal b off) → s.cell wide c = s.settledCell c := by
      intro wide c hw hc
      refine cell_eq_settledCell fun e he d hd hdc => ?_
      have := hs e he d hd (by rw [hdc]; exact hc)
      rw [this]; exact hw
    unfold State.loadNormal
    by_cases hw : s.wideAccess (decide (u = .px)) b = true
    · have hc : u = .px ∨ s.imdw b = true := by simpa [State.wideAccess] using hw
      have he : wideExists b off = true := by simpa [State.holds, hw] using hh
      simp only [hc, he, if_true, State.readWide, State.wordAt, hw, Bool.true_and]
      rw [key true _ hw (by simp [State.storedKeys, hw, he, cellKeys]),
        key true _ hw (by simp [State.storedKeys, hw, he, cellKeys]),
        key true _ hw (by simp [State.storedKeys, hw, he, cellKeys])]
      by_cases hpx : u = .px
      · cases g <;> simp [hpx, upper40_eq]
      · simp [hpx, upper40_eq]
    · have hf : s.wideAccess (decide (u = .px)) b = false := by simpa using hw
      have hc : ¬(u = .px ∨ s.imdw b = true) := by simpa [State.wideAccess] using hw
      simp only [hc, if_false, State.readNarrow, State.wordAt, hf, Bool.false_and, Bool.false_eq_true, image32]
      rw [key false _ hf (by simp [State.storedKeys, hf, cellKeys]),
        key false _ hf (by simp [State.storedKeys, hf, cellKeys])]
  | short c =>
    refine ⟨_, _, rfl, rfl, ?_⟩
    intro _ hs
    have : s.cell false c = s.settledCell c :=
      cell_eq_settledCell fun e he d hd hdc => hs e he d hd (by simp [State.storedKeys, cellKeys, hdc])
    rw [this]; rfl
  | ext n =>
    simp only [hp, State.completes] at ok
    simp only [ok, if_true]
    refine ⟨_, _, rfl, rfl, ?_⟩
    intro hh _
    have hs : s.extHolds n = true := hh
    by_cases hpx : u = .px <;> simp [hpx, State.wordAt, State.extWideWord, State.extWord, hs, image32]

/-! ### What the note of a NOT LCE condition leaves alone -/

theorem noteCond_dagReg (s : State) (c : BitVec 5) (f : DagFile) (g : Bool) (k : BitVec 3) :
    (s.noteCond c).dagReg f g k = s.dagReg f g k := by unfold State.noteCond; split <;> rfl
theorem noteCond_postAddr (s : State) (c : BitVec 5) (g : Bool) (k : BitVec 3) :
    (s.noteCond c).postAddr g k = s.postAddr g k := by unfold State.noteCond; split <;> rfl
theorem noteCond_premodify (s : State) (c : BitVec 5) (g : Bool) (k : BitVec 3) (m : BitVec 32) :
    (s.noteCond c).premodify g k m = s.premodify g k m := by unfold State.noteCond; split <;> rfl
theorem noteCond_rreg (s : State) (c : BitVec 5) (n : BitVec 4) : (s.noteCond c).rreg n = s.rreg n := by
  unfold State.noteCond; split <;> rfl
theorem noteCond_settable (s : State) (c : BitVec 5) (f : Bool) (u : Ureg) (v : BitVec 32) :
    (s.noteCond c).settable f u v = s.settable f u v := by unfold State.noteCond; split <;> rfl
theorem noteCond_uregRead (s : State) (c : BitVec 5) (u : Ureg) : (s.noteCond c).uregRead u = s.uregRead u := by
  unfold State.noteCond; split
  · cases u <;> rfl
  · rfl
theorem noteCond_storeImage (s : State) (c : BitVec 5) (u : Ureg) : (s.noteCond c).storeImage u = s.storeImage u := by
  unfold State.noteCond; split
  · cases u <;> rfl
  · rfl
theorem MemInv.noteCond {s : State} (h : MemInv s) (c : BitVec 5) : MemInv (s.noteCond c) := by
  unfold State.noteCond; split
  · exact ⟨h.1, h.2, h.3⟩
  · exact h

/-! ### Transfers -/

theorem given_true {s : State} {c : BitVec 5} (h : s.cond c = true) (f : State → Act State) :
    s.given c f = f (s.noteCond c) := by simp [State.given, h]

theorem given_false {s : State} {c : BitVec 5} (h : s.cond c = false) (f : State → Act State) :
    s.given c f = .ok (s.noteCond c) := by simp [State.given, h]

theorem givenAccess_true {s : State} {c : BitVec 5} (h : s.cond c = true) (a : BitVec 32) (f : State → Act State) :
    s.givenAccess c a f = f (s.noteCond c) := by simp [State.givenAccess, h]

theorem givenAccess_false {s : State} {c : BitVec 5} (h : s.cond c = false) (a : BitVec 32) (f : State → Act State) :
    s.givenAccess c a f = .ok ((s.noteCond c).seekBus a) := by simp [State.givenAccess, h]

/-- Seeking the bus leaves only its note. -/
theorem seekBus_rest (s : State) (a : BitVec 32) :
    s.seekBus a = { s with iop.hid.busWait := (s.seekBus a).iop.hid.busWait } := by
  unfold State.seekBus; split <;> rfl

theorem storeImage_r (s : State) (n : BitVec 4) : s.storeImage (.r n) = .ok (s.rreg n ++ 0#8) := by
  simp [State.storeImage, State.uregRead]

/-- A transfer that stores. -/
theorem transfer_store {s : State} (h : MemInv s) {g : Bool} {r : Ureg} {a : BitVec 32} {w : BitVec 48}
    (c upd : State → State) (hi : s.storeImage r = .ok w) (ok : StoreOk s g (decide (r = .px)) (place s.env.id a) w) :
    ∃ x, s.transfer g true r a c upd = .ok (upd (c x)) ∧ Stored s x g (decide (r = .px)) (place s.env.id a) w := by
  obtain ⟨x, hx, hs⟩ := store_stored h ok
  exact ⟨x, by simp [State.transfer, State.access, hi, hx, State.settle], hs⟩

/-- What a loaded value may be written to does not depend on the access, nor on an operation beside it. -/
theorem settable_congr {s t : State} (h1 : t.stk = s.stk) (h2 : t.pipe = s.pipe) (h3 : t.lat = s.lat) (f : Bool) (u : Ureg)
    (v : BitVec 32) : t.settable f u v = s.settable f u v := by
  cases s; cases t; dsimp only at h1 h2 h3; subst h1 h2 h3; cases u <;> rfl

theorem Loaded.rest {s x : State} {g : Bool} {u : Ureg} {p : Place} {w : BitVec 48} (h : Loaded s x g u p w) :
    x = { s with iop := x.iop } := by
  cases p <;> simp only [Loaded] at h
  case iop => obtain ⟨_, _, _, h, _⟩ := h; exact h
  all_goals rw [h.1]; rfl

theorem loadWrite_written {s : State} {u : Ureg} {w : BitVec 48} (h : s.settable true u (w.extractLsb' 16 32) = true) :
    ∃ t, s.loadWrite u w = .ok t ∧ LoadWritten s t u w := by
  unfold State.loadWrite LoadWritten
  by_cases hu : u = .px
  · simp [hu]
  · simp only [hu, if_false]
    refine uregWrite_written ?_
    have : (w.extractLsb' 8 40).extractLsb' 8 32 = w.extractLsb' 16 32 := by
      apply BitVec.eq_of_getLsbD_eq; intro i hi; simp; grind
    rw [this]; exact h

/-- A transfer that loads. -/
theorem transfer_load {s : State} {g : Bool} {u : Ureg} {a : BitVec 32} {c : State → State} (upd : State → State)
    (hc : ∀ x, (c x).stk = x.stk ∧ (c x).pipe = x.pipe ∧ (c x).lat = x.lat)
    (ok : LoadOk s u (place s.env.id a)) (hs : LoadSettable s g u (place s.env.id a)) :
    ∃ w x z, s.transfer g false u a c upd = .ok (upd z) ∧ Loaded s x g u (place s.env.id a) w
      ∧ LoadWritten (c x) z u w := by
  obtain ⟨w, x, hx, hl⟩ := load_loaded (g := g) (u := u) (site := 1) ok
  have hr := hl.rest
  have hset : (c x).settable true u (w.extractLsb' 16 32) = true := by
    obtain ⟨h1, h2, h3⟩ := hc x
    rw [settable_congr h1 h2 h3, hr]
    exact hs x w hl
  obtain ⟨z, hz, hw⟩ := loadWrite_written hset
  exact ⟨w, x, z, by simp [State.transfer, State.access, hx, State.settle, hz], hl, hw⟩

theorem compute_keeps (c : Compute) (x : State) :
    (x.compute c).stk = x.stk ∧ (x.compute c).pipe = x.pipe ∧ (x.compute c).lat = x.lat := by
  have h := (compute_frame x c).rest
  refine ⟨?_, ?_, ?_⟩ <;> rw [h]

end Sys2Proof.Machine
end

