-- ==== Sys2Proof/Laws/Flow.lean ====
section
/-! SUPPORT. What the operations on the stacks, the branches and the end of an interrupt service can do: one lemma for
each. -/

namespace Sys2Proof.Machine

/-! ### Stacks -/

theorem pushPc_pushed (s : State) (a : BitVec 24) : PcPushed s (s.pushPc a) a := by
  unfold PcPushed State.pushPc
  dsimp only
  by_cases h : 30 ≤ s.stk.pcstkp.toNat
  · simp only [h, if_true]
  · have hn : (s.stk.pcstkp + 1).toNat = s.stk.pcstkp.toNat + 1 := by
      rw [BitVec.toNat_add]; simp; omega
    have hk : s.stk.pcstkp = 28#5 ↔ s.stk.pcstkp.toNat = 28 := by
      constructor
      · intro e; rw [e]; rfl
      · intro e; exact BitVec.eq_of_toNat_eq e
    have top : ∀ v : Vector (BitVec 24) 30,
        ((v.setIfInBounds s.stk.pcstkp.toNat a).toList.getD (min (s.stk.pcstkp.toNat + 1) 30 - 1) 0 = a)
        ∧ ∀ k, k < 30 → k ≠ s.stk.pcstkp.toNat →
          (v.setIfInBounds s.stk.pcstkp.toNat a).toList.getD k 0 = v.toList.getD k 0 := by
      intro v
      refine ⟨?_, fun k hk hne => ?_⟩
      · have e : min (s.stk.pcstkp.toNat + 1) 30 - 1 = s.stk.pcstkp.toNat := by omega
        rw [e, getD_setIfInBounds _ _ _ _ (by omega)]; simp
      · rw [getD_setIfInBounds _ _ _ _ hk]; simp [hne]
    simp only [h, if_false]
    by_cases h28 : s.stk.pcstkp = 28
    · simp only [h28, if_true, State.request, State.pcTop]
      rw [h28] at top
      exact ⟨rfl, (top s.stk.pc).1, (top s.stk.pc).2⟩
    · simp only [h28, if_false, State.pcTop, hn]
      exact ⟨by simp, (top s.stk.pc).1, (top s.stk.pc).2⟩

theorem popPc_popped {s : State} (h : s.pcEmpty = false) :
    s.popPc = .ok { s with stk.pcstkp := s.stk.pcstkp - 1 } := by
  simp [State.popPc, h]

theorem pushLoop_pushed (s : State) (e c : BitVec 32) (b : Option (BitVec 24)) :
    LoopPushed s (s.pushLoop e c b) e c b := by
  unfold LoopPushed State.pushLoop
  dsimp only
  by_cases h : 6 ≤ s.stk.depth.toNat
  · simp only [h, if_true]; rfl
  · have hn : (s.stk.depth + 1).toNat = s.stk.depth.toNat + 1 := by rw [BitVec.toNat_add]; simp; omega
    have h0 : s.stk.depth + 1 ≠ 0 := by intro e; rw [e] at hn; simp at hn
    simp only [h, if_false]
    have hd : s.stk.depth.toNat < 6 := by omega
    have top : ∀ (v : Vector (BitVec 32) 6) x, sixth (setSixth v s.stk.depth.toNat x) ((s.stk.depth + 1).toNat - 1) = x := by
      intro v x
      rw [hn, Nat.add_sub_cancel]
      have := setSixth_written v s.stk.depth.toNat x _ hd
      simpa using this
    have hl : decide (s.stk.depth + 1 ≠ 0) = true := decide_eq_true h0
    refine ⟨trivial, fun j hj => setSixth_written _ _ _ j hj, fun j hj => setSixth_written _ _ _ j hj,
      fun j hj => setSixth_written _ _ _ j hj,
      fun j hj hne => (getD_setIfInBounds _ _ _ _ hj).trans (if_neg hne), ?_, ?_, ?_⟩
    · simp only [State.loopTop, hn, Nat.add_sub_cancel]
      rw [getD_setIfInBounds _ _ _ _ hd, if_pos rfl]
    · simp only [State.laddr, State.looping, hl, if_true, top]
    · simp only [State.curlcntr, State.looping, hl, if_true, top]

theorem pushStatus_pushed (s : State) : StatusPushed s s.pushStatus := by
  unfold StatusPushed State.pushStatus
  split <;> rfl

theorem popStatus_popped {s : State} (h : s.stk.status ≠ []) : ∃ t, s.popStatus = .ok t ∧ StatusPopped s t := by
  unfold State.popStatus StatusPopped
  cases hs : s.stk.status with
  | nil => exact absurd hs h
  | cons p rest =>
    obtain ⟨a, m⟩ := p
    refine ⟨_, rfl, a, m, rest, rfl, rfl, ?_⟩
    intro j hj
    simp only [BitVec.getLsbD_or, BitVec.getLsbD_and, BitVec.getLsbD_not, hj, decide_true, Bool.true_and]
    have hm : (0x00780000#32).getLsbD j = decide (19 ≤ j ∧ j ≤ 22) := by
      revert hj j; decide
    rw [hm, show (0x00780000 : BitVec 32).getLsbD j = _ from hm]
    by_cases hc : 19 ≤ j ∧ j ≤ 22 <;> simp [hc]

/-! ### Interrupts -/

theorem getLsbD_bitOf {k j : Nat} (hj : j < 32) : (bitOf k).getLsbD j = decide (j = k) := by
  unfold bitOf
  simp only [BitVec.getLsbD_shiftLeft, hj, decide_true, Bool.true_and, BitVec.getLsbD_one]
  by_cases h : j < k
  · simp [h]; omega
  · simp only [h, decide_false, Bool.not_false, Bool.true_and]
    simp; omega

theorem lowestBit_none {v : BitVec 32} (h : lowestBit v = none) : v = 0 := by
  apply BitVec.eq_of_getLsbD_eq
  intro i hi
  have := List.find?_eq_none.mp h i (List.mem_range.mpr hi)
  simpa using this

theorem lowestBit_some {v : BitVec 32} {k : Nat} :
    lowestBit v = some k ↔ k < 32 ∧ v.getLsbD k = true ∧ ∀ j, j < k → v.getLsbD j = false := by
  unfold lowestBit
  rw [List.find?_range_eq_some]
  simp only [List.mem_range, Bool.not_eq_true']
  tauto

theorem clearInterrupt_over {s : State} (h : s.canEnd) : ∃ t, s.clearInterrupt = .ok t ∧ ServiceOver s t := by
  unfold State.clearInterrupt ServiceOver
  cases hl : lowestBit s.lat.imaskp with
  | none =>
    have h0 := lowestBit_none hl
    refine ⟨s, rfl, fun _ => rfl, fun k hk => ?_⟩
    obtain ⟨hk, _⟩ := hk
    rw [h0] at hk; simp at hk
  | some k =>
    obtain ⟨hlt, hb, hlow⟩ := lowestBit_some.mp hl
    have hin : s.inService k := ⟨hb, hlow⟩
    have key : ∃ x, (if pushesStatus k = true then s.popStatus else .ok s) = .ok x
        ∧ (if 4 ≤ k ∧ k ≤ 8 then StatusPopped s x else x = s)
        ∧ x.sys.irptl = s.sys.irptl ∧ x.sys.imaskp = s.sys.imaskp ∧ x.iop = s.iop := by
      by_cases hp : 4 ≤ k ∧ k ≤ 8
      · obtain ⟨x, hx, hw⟩ := popStatus_popped (h k hin hp.1 hp.2)
        have hr : x.sys.irptl = s.sys.irptl ∧ x.sys.imaskp = s.sys.imaskp ∧ x.iop = s.iop := by
          obtain ⟨_, _, _, _, hr, _⟩ := hw
          rw [hr]; exact ⟨rfl, rfl, rfl⟩
        exact ⟨x, by simp [pushesStatus, hp, hx], by simp only [hp, and_self, if_true]; exact hw, hr⟩
      · refine ⟨s, ?_, by simp [hp], rfl, rfl, rfl⟩
        have : pushesStatus k = false := by simp [pushesStatus]; omega
        simp [this]
    obtain ⟨x, hx, hw, h1, h2, h3⟩ := key
    refine ⟨{ x with
      sys.irptl := x.sys.irptl &&& ~~~bitOf k
      sys.imaskp := x.sys.imaskp &&& ~~~bitOf k
      iop.sys.vipd := x.iop.sys.vipd && decide (k ≠ 5) }, ?_, ?_, ?_⟩
    · by_cases hp : pushesStatus k = true
      · rw [if_pos hp] at hx
        simp only [hp, if_true, hx]; rfl
      · rw [if_neg hp] at hx
        cases hx
        simp only [hp]; rfl
    · intro h0; rw [h0] at hb; simp at hb
    · intro k' hk'
      have hkk : k' = k := by
        rcases Nat.lt_trichotomy k' k with hlt' | he | hgt
        · exact absurd hk'.1 (by simp [hlow k' hlt'])
        · exact he
        · exact absurd hb (by simp [hk'.2 k hgt])
      subst hkk
      refine ⟨x, hw, by rw [← h3], ?_⟩
      intro j hj
      dsimp only
      rw [h1, h2]
      simp only [BitVec.getLsbD_and, BitVec.getLsbD_not, hj, getLsbD_bitOf hj, decide_true, Bool.true_and]
      by_cases hjk : j = k' <;> simp [hjk]

/-! ### Branches -/

theorem branchTo_taken (s : State) (d : Bool) (a : BitVec 24) : BranchTaken s (s.branchTo d a) d a := rfl

theorem jumpTo_taken {s : State} {a ci j : Bool} {t : BitVec 24} (ha : a = true → s.looping = true ∧ s.pcEmpty = false)
    (hci : ci = true → s.canEnd) : ∃ x, s.jumpTo a ci j t = .ok x ∧ JumpTaken s x a ci j t := by
  unfold State.jumpTo JumpTaken
  have h1 : ∃ x, (if a = true then s.loopAbort else .ok s) = .ok x
      ∧ x = (if a = true then { s with stk.depth := s.stk.depth - 1, stk.pcstkp := s.stk.pcstkp - 1 } else s) := by
    cases a
    · exact ⟨s, rfl, rfl⟩
    · obtain ⟨hl, hp⟩ := ha rfl
      refine ⟨_, ?_, rfl⟩
      have hp' : ({ s with stk.depth := s.stk.depth - 1 } : State).pcEmpty = false := hp
      have e1 : s.popLoop = .ok { s with stk.depth := s.stk.depth - 1 } := by simp [State.popLoop, hl]
      have e2 := popPc_popped hp'
      simp only [State.loopAbort, if_true, e1, bind, Except.bind, e2]
  obtain ⟨x, hx, hxe⟩ := h1
  have h2 : ∃ y, (if ci = true then x.clearInterrupt else .ok x) = .ok y
      ∧ (if ci = true then ServiceOver x y else y = x) := by
    cases ci
    · exact ⟨x, rfl, rfl⟩
    · have hc : x.canEnd := by
        have := hci rfl
        rw [hxe]; cases a <;> exact this
      obtain ⟨y, hy, ho⟩ := clearInterrupt_over hc
      exact ⟨y, hy, ho⟩
  obtain ⟨y, hy, ho⟩ := h2
  refine ⟨y.branchTo j t, ?_, x, y, hxe, ho, branchTo_taken ..⟩
  cases a <;> cases ci <;> simp_all [bind, Except.bind]

theorem callTo_taken (s : State) (j : Bool) (t : BitVec 24) : ∃ x, s.callTo j t = .ok x ∧ CallTaken s x j t :=
  ⟨_, rfl, _, pushPc_pushed .., rfl⟩

theorem setLrf_set (s : State) (a : BitVec 24) : ReentrySet s (s.setLrf a) a := by
  unfold ReentrySet State.setLrf
  have h : a = s.loopEnd - 1 ↔ a + 1 = s.loopEnd := by
    constructor
    · intro e; rw [e]; exact BitVec.sub_add_cancel ..
    · intro e; rw [← e]; exact (BitVec.add_sub_cancel ..).symm
  simp only [h]

/-! ### The end of a step -/

/-- The loop stacks refuse no step outside of a loop, nor one with their entries there before the instruction and after
it. -/
theorem loopRefusal_none {s u : State} {l : LoopStep} (hl : s.looping = false → l = .pass)
    (h : s.looping = false ∨ s.pcEmpty = false ∧ u.pcEmpty = false ∧ u.looping = true) : s.loopRefusal u l = none := by
  rcases h with h | ⟨a, b, c⟩
  · rw [hl h]; rfl
  · cases l <;> simp [State.loopRefusal, a, b, c]

/-- When a loop that is not a short counter loop ends: its last instruction is being fetched, without the re-entry flag, and
its condition is true; a loop of one instruction is besides executed in the step (41_program_flow.md R381, R397). -/
theorem loopStep_exit_iff {s : State} : s.loopStep = .exit ↔
    s.pipe.mode = .running ∧ s.looping = true ∧ s.shortLoop = false ∧ s.pipe.faddr = s.loopEnd ∧ s.pipe.lrf = false
      ∧ (s.loneLoop = true → s.endExecutes = true) ∧ s.term (s.laddr.extractLsb' 24 5) = true := by
  cases hl : s.looping <;> cases hs : s.shortLoop <;> cases hr : s.pipe.lrf <;> cases ho : s.loneLoop <;>
    cases he : s.endExecutes <;> cases ht : s.term (s.laddr.extractLsb' 24 5) <;>
    by_cases hm : s.pipe.mode = .running <;> by_cases hf : s.pipe.faddr = s.loopEnd <;>
    simp [State.loopStep, hl, hs, hr, ho, he, ht, hm, hf] <;> split <;> simp

/-- A running step without a data access, a use of an address generator, an external fetch or a vector interrupt lasts one
cycle. -/
theorem mayStall_plain {s u t : State} {i : Instr} {f : Fetched} (hm : u.pipe.mode = .running)
    (hf : s.fetchesExternal f = false) (ha : s.dataAccesses i = []) (hp : pmAccess i = false)
    (h1 : usesDag false i = false) (h2 : usesDag true i = false) (hv : t.sys.imaskp = u.sys.imaskp) :
    s.mayStall (some i) f u t = false := by
  simp [State.mayStall, State.leavesMemory, State.blockConflict, State.dagConflict, hm, hf, ha, hp, h1, h2, hv]

/-- A step that nothing refuses: the loop stacks and the end of the loop allow the instruction. -/
theorem stepRefusal_none {s u : State} {i : Option Instr} {f : Fetched} (h : s.stepRefusal u i f = none) :
    s.loopRefusal u (s.loopDecision u) = none ∧ s.lastPassBranch u f = false
      ∧ ∀ j, i = some j → s.loopBranch j = false := by
  unfold State.stepRefusal at h
  split at h
  · cases h
  · next hr =>
    rw [ite_eq_iff] at h
    simp only [reduceCtorEq, and_false, false_or, Bool.not_eq_true, Bool.or_eq_false_iff, and_true] at h
    refine ⟨hr, h.2, fun j hj => ?_⟩
    subst hj
    exact h.1

/-- The bits of a code and of its complement. -/
theorem complement_codes : ∀ c : BitVec 5, c.toNat < 15 → c ≠ 31 ∧ c ≠ 15 ∧ c.getLsbD 4 = false ∧ c + 16 ≠ 31
    ∧ c + 16 ≠ 15 ∧ (c + 16).getLsbD 4 = true ∧ (c + 16).extractLsb' 0 4 = c.extractLsb' 0 4 := by decide

/-- The codes 16 to 30 are the complements of 0 to 14 (30_encoding.md R285). -/
theorem cond_complement (s : State) {c : BitVec 5} (h : c.toNat < 15) : s.cond (c + 16) = !s.cond c := by
  obtain ⟨h1, h2, h3, h4, h5, h6, h7⟩ := complement_codes c h
  unfold State.cond
  rw [if_neg h4, if_neg h5, if_pos h6, if_neg h1, if_neg h2, if_neg (Bool.eq_false_iff.mp h3), h7]

/-! ### Forms of branches, and the loop test -/

/-- What the step reads from a branch: whether it is delayed, and whether it is a CALL. -/
theorem branchOf_form {i : Instr} {j call : Bool} (h : BranchForm i j call) : branchOf i = some (j, call) := by
  cases h <;> rfl

theorem isBranch_form {i : Instr} {j call : Bool} (h : BranchForm i j call) : isBranch i = true := by
  simp [isBranch, branchOf_form h]

theorem isPlainCall_form {i : Instr} {j call : Bool} (h : BranchForm i j call) : isPlainCall i = (call && !j) := by
  cases j <;> cases call <;> simp [isPlainCall, branchOf_form h]

/-- Every other instruction is no branch. -/
theorem form_of_isBranch {i : Instr} (h : isBranch i = true) : ∃ j call, BranchForm i j call := by
  cases i <;> first | exact ⟨_, _, by constructor⟩ | exact absurd h (by simp [isBranch, branchOf])

/-- The count after a pass is one less, unless the instruction has written it. -/
theorem countAfter_unwritten {s u : State} (h : u.tr.countWritten = false) : s.countAfter u = s.curlcntr - 1 := by
  simp [State.countAfter, h]

end Sys2Proof.Machine
end

