-- ==== Sys2Proof/Tests/Slice0.lean ====
section
/-! SUPPORT. Tests: words written out from the encodings of 30_encoding.md and 95_test_vectors.md section 2.1, terms
that are not well formed, steps on small states with the results of 95_test_vectors.md, and a witness for the hypotheses
of each statement. The theorems are elaborated one after another (Elab.async), to keep the number of threads small. -/

open Sys2Proof Sys2Proof.Machine

section

set_option maxRecDepth 20000
set_option Elab.async false

/-! ### Words: Types 1 to 7 (30_encoding.md R310 to R316) -/

/-- Types 1 to 5 and 7, the fields in the order of the format rules. -/
theorem test_decode_moves :
    decode (1#3 ++ 1#1 ++ 5#3 ++ 3#3 ++ 0#1 ++ 9#4 ++ 2#3 ++ 7#3 ++ 4#4 ++ 0x2C0760#23)
        = .ok (.dmPmDualMove true 5 3 false 9 2 7 4 (.shift .bset 7 6 0))
      ∧ decode (0#3 ++ 1#5 ++ 0#2 ++ 9#5 ++ 0#10 ++ 0x114000#23) = .ok (.compute 9 (.mul .mrfZero 0 0 0))
      ∧ decode (2#3 ++ 1#1 ++ 6#3 ++ 1#3 ++ 3#5 ++ 1#1 ++ 0#1 ++ 0x2C#8 ++ 0x00A012#23)
        = .ok (.uregMemMoveM true 6 1 3 true false (.m 12) (.alu .comp 0 1 2))
      ∧ decode (3#3 ++ 0#1 ++ 1#3 ++ 1#1 ++ 0#1 ++ 1#1 ++ 16#5 ++ 0x3E#6 ++ 4#4 ++ 0x029330#23)
        = .ok (.dregMemMoveImm6 1 true false true 16 0x3E 4 (.alu .inc 3 3 0))
      ∧ decode (3#3 ++ 1#1 ++ 0x7B#8 ++ 31#5 ++ 0x64#8 ++ 0#23) = .ok (.uregUregMove .mode1 31 .pcstk .none)
      ∧ decode (0#3 ++ 4#5 ++ 0#1 ++ 1#1 ++ 27#5 ++ 2#3 ++ 5#3 ++ 0#4 ++ 0x15846C#23)
        = .ok (.modify true 27 2 5 (.mul (.rn ⟨false, true, true, false⟩) 4 6 12)) := by decide

/-- Type 6 without a transfer: SHIFTOP is the upper six bits of the shifter opcode of R301. -/
theorem test_decode_shift_imm :
    ∀ p ∈ ([
      (0x0#6, Instr.lshiftImm), (0x8, .orLshiftImm), (0x1, .ashiftImm), (0x9, .orAshiftImm), (0x2, .rotImm),
        (0x31, .bclrImm), (0x30, .bsetImm), (0x32, .btglImm), (0x33, .btstImm), (0x11, .fdepImm),
        (0x19, .orFdepImm), (0x13, .fdepSeImm), (0x1b, .orFdepSeImm), (0x10, .fextImm), (0x12, .fextSeImm)] :
      List (BitVec 6 × (BitVec 5 → BitVec 4 → BitVec 8 → BitVec 4 → BitVec 4 → Instr))),
      decode (0#3 ++ 2#5 ++ 0#2 ++ 5#5 ++ 0#2 ++ 9#4 ++ 0#4 ++ 0#1 ++ p.1 ++ 0xA7#8 ++ 6#4 ++ 3#4)
        = .ok (p.2 5 9 0xA7 6 3) := by decide

/-- Type 6 with a transfer. -/
theorem test_decode_shift_imm_move :
    ∀ p ∈ ([
      (0x0#6, Instr.lshiftImmMove), (0x8, .orLshiftImmMove), (0x1, .ashiftImmMove), (0x9, .orAshiftImmMove),
        (0x2, .rotImmMove), (0x31, .bclrImmMove), (0x30, .bsetImmMove), (0x32, .btglImmMove), (0x33, .btstImmMove),
        (0x11, .fdepImmMove), (0x19, .orFdepImmMove), (0x13, .fdepSeImmMove), (0x1b, .orFdepSeImmMove),
        (0x10, .fextImmMove), (0x12, .fextSeImmMove)] :
      List (BitVec 6 × (BitVec 3 → BitVec 3 → BitVec 5 → Bool → Bool → BitVec 4 → BitVec 4 → BitVec 8 → BitVec 4 →
        BitVec 4 → Instr))),
      decode (4#3 ++ 0#1 ++ 2#3 ++ 6#3 ++ 8#5 ++ 0#1 ++ 1#1 ++ 9#4 ++ 7#4 ++ 0#1 ++ p.1 ++ 0xFD#8 ++ 5#4 ++ 10#4)
        = .ok (p.2 2 6 8 false true 9 7 0xFD 5 10) := by decide

/-! ### Words: Types 8 to 13 (R318 to R324) -/

/-- Types 8 and 9: B is bit 39, A 38, J 26, E 25, CI 24. -/
theorem test_decode_jumps :
    decode (0#3 ++ 6#5 ++ 0#1 ++ 1#1 ++ 31#5 ++ 0#6 ++ 0#1 ++ 0#1 ++ 0#1 ++ 0x008200#24)
        = .ok (.jumpDirect true 31 false false 0x8200)
      ∧ decode (0#3 ++ 7#5 ++ 0#1 ++ 0#1 ++ 16#5 ++ 0#6 ++ 1#1 ++ 0#1 ++ 1#1 ++ 0xFFFFFC#24)
        = .ok (.jumpPcrel false 16 true true 0xFFFFFC)
      ∧ decode (0#3 ++ 8#5 ++ 0#1 ++ 0#1 ++ 18#5 ++ 2#3 ++ 1#3 ++ 1#1 ++ 1#1 ++ 0#1 ++ 0#1 ++ 0x02A110#23)
        = .ok (.jumpIndirect false 18 2 1 true true false (.alu .dec 1 1 0))
      ∧ decode (0#3 ++ 9#5 ++ 0#1 ++ 1#1 ++ 31#5 ++ 0x2B#6 ++ 0#1 ++ 0#1 ++ 1#1 ++ 0#1 ++ 0#23)
        = .ok (.jumpPcrel6 true 31 0x2B false false true .none)
      ∧ decode (0#3 ++ 6#5 ++ 1#1 ++ 0#1 ++ 0#5 ++ 0#6 ++ 0#1 ++ 0#1 ++ 0#1 ++ 0x000200#24)
        = .ok (.callDirect false 0 false false 0x200)
      ∧ decode (0#3 ++ 7#5 ++ 1#1 ++ 0#1 ++ 31#5 ++ 0#6 ++ 1#1 ++ 0#1 ++ 0#1 ++ 0x000005#24)
        = .ok (.callPcrel false 31 true false 5)
      ∧ decode (0#3 ++ 8#5 ++ 1#1 ++ 0#1 ++ 31#5 ++ 4#3 ++ 6#3 ++ 0#1 ++ 0#1 ++ 0#1 ++ 0#1 ++ 0#23)
        = .ok (.callIndirect false 31 4 6 false false false .none)
      ∧ decode (0#3 ++ 9#5 ++ 1#1 ++ 0#1 ++ 31#5 ++ 10#6 ++ 0#1 ++ 0#1 ++ 0#1 ++ 0#1 ++ 0x001063#23)
        = .ok (.callPcrel6 false 31 10 false false false (.alu .add 0 6 3)) := by decide

/-- Types 10 to 13. -/
theorem test_decode_flow :
    decode (6#3 ++ 0#1 ++ 6#3 ++ 1#3 ++ 13#5 ++ 3#3 ++ 5#3 ++ 6#4 ++ 0#23)
        = .ok (.jumpIndirectElseMove false 6 1 13 3 5 6 .none)
      ∧ decode (7#3 ++ 1#1 ++ 5#3 ++ 0#3 ++ 16#5 ++ 0x20#6 ++ 6#4 ++ 0x0DACA3#23)
        = .ok (.jumpPcrel6ElseMove true 5 0 16 0x20 6 (.flt .floatBy 12 10 3))
      ∧ decode (0#3 ++ 10#5 ++ 0#2 ++ 2#5 ++ 0#6 ++ 0#1 ++ 1#1 ++ 1#1 ++ 0#1 ++ 0x20001F#23)
        = .ok (.rts 2 false true true (.shift .lshift 0 1 15))
      ∧ decode (0#3 ++ 11#5 ++ 0#2 ++ 31#5 ++ 0#6 ++ 1#1 ++ 0#1 ++ 0#2 ++ 0#23) = .ok (.rti 31 true false .none)
      ∧ decode (0#3 ++ 12#5 ++ 30#16 ++ 3#24) = .ok (.lcntrImmDo 30 3)
      ∧ decode (0#3 ++ 13#5 ++ 0x0C#8 ++ 0#8 ++ 8#24) = .ok (.lcntrUregDo (.r 12) 8)
      ∧ decode (0#3 ++ 14#5 ++ 0#2 ++ 8#5 ++ 0#9 ++ 7#24) = .ok (.doUntil 8 7) := by decide

/-! ### Words: Types 14 to 24 (R325 to R334) -/

/-- Types 14 to 19. -/
theorem test_decode_immediates :
    decode (0#3 ++ 4#3 ++ 1#1 ++ 1#1 ++ 0xDB#8 ++ 0x9400#32) = .ok (.uregMemDirect true true .px 0x9400)
      ∧ decode (5#3 ++ 0#1 ++ 5#3 ++ 1#1 ++ 0x70#8 ++ 24#32) = .ok (.uregMemImm32 false 5 true .ustat1 24)
      ∧ decode (4#3 ++ 1#1 ++ 6#3 ++ 3#3 ++ 1#1 ++ 0#5 ++ 0x12345678#32) = .ok (.memImm32Store 6 3 true 0x12345678)
      ∧ decode (0#3 ++ 15#5 ++ 0x68#8 ++ 5#32) = .ok (.uregImm32 .lcntr 5)
      ∧ decode (0#3 ++ 20#5 ++ 0#3 ++ 0#1 ++ 10#4 ++ 0x70#32) = .ok (.bitSet .mode2 0x70)
      ∧ decode (0#3 ++ 20#5 ++ 1#3 ++ 0#1 ++ 11#4 ++ 0x1000#32) = .ok (.bitClr .mode1 0x1000)
      ∧ decode (0#3 ++ 20#5 ++ 2#3 ++ 0#1 ++ 0#4 ++ 0xFFFFFFFF#32) = .ok (.bitTgl .ustat1 0xFFFFFFFF)
      ∧ decode (0#3 ++ 20#5 ++ 4#3 ++ 0#1 ++ 12#4 ++ 0x2000#32) = .ok (.bitTst .astat 0x2000)
      ∧ decode (0#3 ++ 20#5 ++ 5#3 ++ 0#1 ++ 1#4 ++ 0x12345678#32) = .ok (.bitXor .ustat2 0x12345678)
      ∧ decode (0#3 ++ 22#5 ++ 0#1 ++ 1#1 ++ 0#3 ++ 2#3 ++ 0xFFFFFFFE#32) = .ok (.modifyImm true 2 0xFFFFFFFE)
      ∧ decode (0#3 ++ 22#5 ++ 1#1 ++ 0#1 ++ 0#3 ++ 1#3 ++ 4#32) = .ok (.bitrevImm false 1 4) := by decide

/-- Types 20 to 24. -/
theorem test_decode_misc :
    decode (0#3 ++ 23#5 ++ 0b1010000#7 ++ 0#33) = .ok (.pushLoop false true false false false false)
      ∧ decode (0#3 ++ 23#5 ++ 0b0100010#7 ++ 0#33) = .ok (.popLoop false false false true false)
      ∧ decode (0#3 ++ 23#5 ++ 0b0010000#7 ++ 0#33) = .ok (.pushSts false false false false)
      ∧ decode (0#3 ++ 23#5 ++ 0b0001101#7 ++ 0#33) = .ok (.popSts true false true)
      ∧ decode (0#3 ++ 23#5 ++ 0b0000100#7 ++ 0#33) = .ok (.pushPcstk false false)
      ∧ decode (0#3 ++ 23#5 ++ 0b0000010#7 ++ 0#33) = .ok (.popPcstk false)
      ∧ decode (0#3 ++ 23#5 ++ 0b0000001#7 ++ 0#33) = .ok (.flushCache true)
      ∧ decode 0 = .ok .nop ∧ decode 0x008000000000 = .ok .idle
      ∧ decode (0x180400#24 ++ 0x8100#24) = .ok (.cjumpDirect 0x8100)
      ∧ decode (0x184400#24 ++ 0xFFFFFE#24) = .ok (.cjumpPcrel 0xFFFFFE)
      ∧ decode 0x190000000000 = .ok .rframe := by decide

/-- IDLE16, whose word the spec leaves open: the opaque field of Config, when it is not that of IDLE. -/
theorem test_decode_idle16 (h : Config.idle16Field ≠ 0#39) :
    decode (0#3 ++ 0#5 ++ 1#1 ++ Config.idle16Field) = .ok .idle16 := by
  have e0 : fld (0#3 ++ 0#5 ++ 1#1 ++ Config.idle16Field : BitVec 48) 0 39 = Config.idle16Field := by
    apply BitVec.eq_of_getLsbD_eq; intro i hi; simp [fld]; grind
  have e1 : fld (0#3 ++ 0#5 ++ 1#1 ++ Config.idle16Field : BitVec 48) 45 3 = 0#3 := by
    apply BitVec.eq_of_getLsbD_eq; intro i hi; simp [fld]; grind
  have e2 : fld (0#3 ++ 0#5 ++ 1#1 ++ Config.idle16Field : BitVec 48) 40 5 = 0#5 := by
    apply BitVec.eq_of_getLsbD_eq; intro i hi; simp [fld]; grind
  have e3 : (0#3 ++ 0#5 ++ 1#1 ++ Config.idle16Field : BitVec 48).getLsbD 39 = true := by
    rw [BitVec.getLsbD_append]
    decide
  simp only [decode, e1, if_true, decodeGroup0, e2, decodeIdle, e3, Bool.not_true, Bool.false_eq_true, if_false, e0, h]

/-! ### Words: the COMPUTE field (R300, R301) -/

/-- CU = 00, fixed point. -/
theorem test_decode_alu :
    ∀ p ∈ ([
      (0x01#8, Instr.aluAdd), (0x02, .aluSub), (0x05, .aluAddCi), (0x06, .aluSubCi), (0x09, .aluAvg),
        (0x0A, .aluComp), (0x25, .aluIncCi), (0x26, .aluDecCi), (0x29, .aluInc), (0x2A, .aluDec), (0x22, .aluNeg),
        (0x30, .aluAbs), (0x21, .aluPass), (0x40, .aluAnd), (0x41, .aluOr), (0x42, .aluXor), (0x43, .aluNot),
        (0x61, .aluMin), (0x62, .aluMax), (0x63, .aluClip)] :
      List (BitVec 8 × (BitVec 4 → BitVec 4 → BitVec 4 → Instr))),
      decode (computeWord (0#1 ++ 0#2 ++ p.1 ++ 7#4 ++ 2#4 ++ 9#4)) = .ok (p.2 7 2 9) := by decide

/-- CU = 00, floating point. -/
theorem test_decode_float :
    ∀ p ∈ ([
      (0x81#8, Instr.fltAdd), (0x82, .fltSub), (0x91, .fltAbsAdd), (0x92, .fltAbsSub), (0x89, .fltAvg),
        (0x8A, .fltComp), (0xA2, .fltNeg), (0xB0, .fltAbs), (0xA1, .fltPass), (0xA5, .fltRnd), (0xBD, .fltScalb),
        (0xAD, .fltMant), (0xC1, .fltLogb), (0xC9, .fltFix), (0xD9, .fltFixBy), (0xCD, .fltTrunc),
        (0xDD, .fltTruncBy), (0xCA, .fltFloat), (0xDA, .fltFloatBy), (0xC4, .fltRecips), (0xC5, .fltRsqrts),
        (0xE0, .fltCopysign), (0xE1, .fltMin), (0xE2, .fltMax), (0xE3, .fltClip)] :
      List (BitVec 8 × (BitVec 4 → BitVec 4 → BitVec 4 → Instr))),
      decode (computeWord (0#1 ++ 0#2 ++ p.1 ++ 7#4 ++ 2#4 ++ 9#4)) = .ok (p.2 7 2 9) := by decide

/-- CU = 10. -/
theorem test_decode_shifter :
    ∀ p ∈ ([
      (0x00#8, Instr.shLshift), (0x20, .shOrLshift), (0x04, .shAshift), (0x24, .shOrAshift), (0x08, .shRot),
        (0xC4, .shBclr), (0xC0, .shBset), (0xC8, .shBtgl), (0xCC, .shBtst), (0x44, .shFdep), (0x64, .shOrFdep),
        (0x4C, .shFdepSe), (0x6C, .shOrFdepSe), (0x40, .shFext), (0x48, .shFextSe), (0x80, .shExp),
        (0x84, .shExpEx), (0x88, .shLeftz), (0x8C, .shLefto), (0x90, .shFpack), (0x94, .shFunpack)] :
      List (BitVec 8 × (BitVec 4 → BitVec 4 → BitVec 4 → Instr))),
      decode (computeWord (0#1 ++ 2#2 ++ p.1 ++ 7#4 ++ 2#4 ++ 9#4)) = .ok (p.2 7 2 9) := by decide

/-- CU = 01, with the options SUF and USFR (bits 5:4 01 and 10, bit 3, bit 0; 46_multiplier.md R547). -/
theorem test_decode_multiply :
    ∀ p ∈ ([
      (0x40#8, Instr.mulRn), (0x44, .mulMrf), (0x46, .mulMrb), (0x80, .mulRnMrfAdd), (0x82, .mulRnMrbAdd),
        (0x84, .mulMrfAdd), (0x86, .mulMrbAdd), (0xC0, .mulRnMrfSub), (0xC2, .mulRnMrbSub), (0xC4, .mulMrfSub),
        (0xC6, .mulMrbSub)] :
      List (BitVec 8 × (Mod2 → BitVec 4 → BitVec 4 → BitVec 4 → Instr))),
      decode (computeWord (0#1 ++ 1#2 ++ (p.1 ||| 0x18) ++ 7#4 ++ 2#4 ++ 9#4))
          = .ok (p.2 ⟨false, true, true, false⟩ 7 2 9)
        ∧ decode (computeWord (0#1 ++ 1#2 ++ (p.1 ||| 0x29) ++ 7#4 ++ 2#4 ++ 9#4))
          = .ok (p.2 ⟨true, false, true, true⟩ 7 2 9) := by decide

/-- CU = 01: SAT, RND, the clears and the floating-point multiply. -/
theorem test_decode_multiplier :
    (∀ p ∈ ([(0x01#8, Instr.mulRnSatMrf), (0x03, .mulRnSatMrb), (0x05, .mulMrfSat), (0x07, .mulMrbSat)] :
        List (BitVec 8 × (Mod1 → BitVec 4 → BitVec 4 → BitVec 4 → Instr))),
      decode (computeWord (0#1 ++ 1#2 ++ p.1 ++ 7#4 ++ 2#4 ++ 9#4))
          = .ok (p.2 ⟨false, true⟩ 7 2 9)
        ∧ decode (computeWord (0#1 ++ 1#2 ++ (p.1 ^^^ 0x09) ++ 7#4 ++ 2#4 ++ 9#4))
          = .ok (p.2 ⟨true, false⟩ 7 2 9))
    ∧ (∀ p ∈ ([(0x19#8, Instr.mulRnRndMrf), (0x1B, .mulRnRndMrb), (0x1D, .mulMrfRnd), (0x1F, .mulMrbRnd)] :
        List (BitVec 8 × (Bool → BitVec 4 → BitVec 4 → BitVec 4 → Instr))),
      decode (computeWord (0#1 ++ 1#2 ++ p.1 ++ 7#4 ++ 2#4 ++ 9#4))
        = .ok (p.2 true 7 2 9))
    ∧ decode (computeWord (0#1 ++ 1#2 ++ 0x14#8 ++ 0#12)) = .ok (.mulMrfZero 0 0 0)
    ∧ decode (computeWord (0#1 ++ 1#2 ++ 0x16#8 ++ 0#12)) = .ok (.mulMrbZero 0 0 0)
    ∧ decode (computeWord (0#1 ++ 1#2 ++ 0x30#8 ++ 7#4 ++ 2#4 ++ 9#4)) = .ok (.mulFloat 7 2 9) := by decide

/-- The MR register transfers: 1 00000 T AI RK (46_multiplier.md R569). -/
theorem test_decode_mr :
    ∀ p ∈ ([(0x00#5, Instr.mr0fRead), (0x01, .mr1fRead), (0x02, .mr2fRead), (0x04, .mr0bRead), (0x05, .mr1bRead),
        (0x06, .mr2bRead), (0x10, .mr0fWrite), (0x11, .mr1fWrite), (0x12, .mr2fWrite), (0x14, .mr0bWrite),
        (0x15, .mr1bWrite), (0x16, .mr2bWrite)] : List (BitVec 5 × (BitVec 4 → Instr))),
      decode (computeWord (1#1 ++ 0#5 ++ p.1 ++ 5#4 ++ 0#8)) = .ok (p.2 5) := by decide

/-- Multiplier and ALU in parallel (48_multifunction.md R626, R627). -/
theorem test_decode_parallel :
    ∀ p ∈ ([
      (0x04#6, Instr.parRmAdd), (0x05, .parRmSub), (0x06, .parRmAvg), (0x08, .parMrfAddAdd), (0x09, .parMrfAddSub),
        (0x0A, .parMrfAddAvg), (0x0C, .parRmMrfAddAdd), (0x0D, .parRmMrfAddSub), (0x0E, .parRmMrfAddAvg),
        (0x10, .parMrfSubAdd), (0x11, .parMrfSubSub), (0x12, .parMrfSubAvg), (0x14, .parRmMrfSubAdd),
        (0x15, .parRmMrfSubSub), (0x16, .parRmMrfSubAvg), (0x18, .parFltAdd), (0x19, .parFltSub),
        (0x1A, .parFltFloatBy), (0x1B, .parFltFixBy), (0x1C, .parFltAvg), (0x1D, .parFltAbs), (0x1E, .parFltMax),
        (0x1F, .parFltMin)] :
      List (BitVec 6 × (BitVec 4 → BitVec 4 → BitVec 2 → BitVec 2 → BitVec 2 → BitVec 2 → Instr))),
      decode (computeWord (1#1 ++ p.1 ++ 2#4 ++ 6#4 ++ 1#2 ++ 3#2 ++ 0#2 ++ 2#2)) = .ok (p.2 2 6 1 3 0 2) := by decide

/-- The dual adds and subtracts, alone and with a multiply (R623, R624, R628, R629). -/
theorem test_decode_dual :
    decode (computeWord (0#3 ++ 7#4 ++ 4#4 ++ 3#4 ++ 1#4 ++ 2#4)) = .ok (.aluDual 4 3 1 2)
      ∧ decode (computeWord (0#3 ++ 15#4 ++ 4#4 ++ 3#4 ++ 1#4 ++ 2#4)) = .ok (.fltDual 4 3 1 2)
      ∧ decode (computeWord (1#1 ++ 2#2 ++ 3#4 ++ 0#4 ++ 2#4 ++ 1#2 ++ 1#2 ++ 1#2 ++ 1#2))
        = .ok (.parMulDual 3 0 2 1 1 1 1)
      ∧ decode (computeWord (1#1 ++ 3#2 ++ 3#4 ++ 0#4 ++ 2#4 ++ 1#2 ++ 1#2 ++ 1#2 ++ 1#2))
        = .ok (.parFltDual 3 0 2 1 1 1 1) := by
  decide

/-- Words that decode to nothing (R284; 95_test_vectors.md section 2.1): reserved types, CU = 11, a reserved
multifunction opcode, a reserved universal register, the unlisted option "integer, rounded". -/
theorem test_decode_undefined :
    ([0x030000000000#48, 0x050000000000, 0x150000000000, 0x1A0000000000, 0x1F0000000000, 0x013E00300000,
        0x013E00420000, 0x0F5000000000, computeWord (0#1 ++ 1#2 ++ 0x71#8 ++ 0#12)].all
      fun w => !(decode w).toBool) = true := by decide

/-! ### Terms that are not well formed -/

/-- "Integer, rounded" is no option of the multiplier, alone or beside a transfer (46_multiplier.md R547; U2). -/
theorem test_wf_integer_rounded :
    (Instr.mulRn ⟨true, true, false, true⟩ 0 1 2).wf = false
      ∧ (Instr.mulMrbSub ⟨false, true, false, true⟩ 0 1 2).wf = false
      ∧ (Instr.modify false 31 0 0 (.mul (.mrfAdd ⟨true, true, false, true⟩) 0 1 2)).wf = false
      ∧ (Instr.mulRn ⟨true, true, true, true⟩ 0 1 2).wf = true
      ∧ (Instr.mulRn ⟨true, true, false, false⟩ 0 1 2).wf = true := by
  decide

/-- An unconditional compute operation stands as its own row (30_encoding.md R311; assumption log 2). -/
theorem test_wf_unconditional_compute :
    (Instr.compute 31 (.alu .add 0 1 2)).wf = false ∧ (Instr.compute 16 (.alu .add 0 1 2)).wf = true
      ∧ (Instr.compute 31 .none).wf = true ∧ (Instr.aluAdd 0 1 2).wf = true := by decide

/-! ### Steps on small states, with the results of 95_test_vectors.md -/

namespace Sys2Proof.Machine

/-- The state after reset with its pipeline in internal memory. -/
def small : State :=
  { State.reset with
    pipe := { State.reset.pipe with pc := 0x8004, daddr := 0x8005, faddr := 0x8006, killP := false, killD := false } }

/-- `exec` answers a next state of which `P` holds. -/
def after (i : Instr) (s : State) (P : State → Bool) : Bool :=
  match exec i s with
  | .next t => P t
  | _ => false

/-- `step` answers a next state of which `P` holds. -/
def stepped (s : State) (P : State → Bool) : Bool :=
  match step s with
  | .next t => P t
  | _ => false

/-- `small` with R1 and R2 given, and with MODE1 in effect. -/
def small2 (x y : BitVec 40) (mode1 : BitVec 32) : State :=
  ({ small with lat.mode1 := mode1 }.setRreg 1 x).setRreg 2 y

/-- `small` with a register of DAG1 given. -/
def smallDag (i m l b : BitVec 32) : State :=
  (((small.setDagReg .i false 0 i).setDagReg .m false 0 m).setDagReg .l false 0 l).setDagReg .b false 0 b

/-- `small` with the loop 0x8004 to 0x8006 on the loop stacks: the end, with its code and type, and the count. -/
def smallLoop (entry count : BitVec 32) : State :=
  ({ small with pipe.faddr := 0x8006 }.pushLoop entry count none).pushPc 0x8005

end Sys2Proof.Machine

/-- Section 2.3: sums with and without saturation, a difference with its carry, the compare accumulator. -/
theorem test_exec_fixed :
    after (.aluAdd 0 1 2) (small2 0x7FFFFFFF00 0x0000000100 0)
        (fun t => t.rreg 0 == 0x8000000000 && t.sys.astat == 0x6 && t.sys.stky == 0x4) = true
      ∧ after (.aluAdd 0 1 2) (small2 0x8000000000 0x8000000000 0x2000)
        (fun t => t.rreg 0 == 0x8000000000 && t.sys.astat == 0xE && t.sys.stky == 0x4) = true
      ∧ after (.aluSub 0 1 2) (small2 0x0000000000 0x0000000100 0)
        (fun t => t.rreg 0 == 0xFFFFFFFF00 && t.sys.astat == 0x4) = true
      ∧ after (.aluComp 0 1 2) { small2 0xFFFFFFFF00 0x0000000100 0 with sys.astat := 0x40000000 }
        (fun t => t.sys.astat == 0x20000004) = true := by decide +kernel

/-- Section 2.4: the rounding boundary of 40 and 32 bits, overflow, FIX of -2.5 in both modes. -/
theorem test_exec_float :
    after (.fltAdd 0 1 2) (small2 0x3F80000000 0x3300000000 0) (fun t => t.rreg 0 == 0x3F80000040) = true
      ∧ after (.fltAdd 0 1 2) (small2 0x3F80000100 0x3380000000 0x10000) (fun t => t.rreg 0 == 0x3F80000200) = true
      ∧ after (.fltAdd 0 1 2) (small2 0x7F7FFFFF00 0x7F7FFFFF00 0x10000)
        (fun t => t.rreg 0 == 0x7F80000000 && t.sys.astat == 0x402 && t.sys.stky == 0x2) = true
      ∧ after (.fltFix 0 1 2) (small2 0xC020000000 0 0x8000) (fun t => t.rreg 0 == 0xFFFFFFFD00) = true
      ∧ after (.fltFix 0 1 2) (small2 0xC020000000 0 0) (fun t => t.rreg 0 == 0xFFFFFFFE00) = true := by decide +kernel

/-- Section 2.5: SUF without a shift left, the tie of SSFR, -1.0 times -1.0. -/
theorem test_exec_multiply :
    after (.mulRn ⟨false, true, true, false⟩ 0 1 2) (small2 0xC000000000 0x8000000000 0)
        (fun t => t.rreg 0 == 0xE000000000 && t.sys.astat == 0x40) = true
      ∧ after (.mulRn ⟨true, true, true, true⟩ 0 1 2) (small2 0x0001000000 0x0000C00000 0)
        (fun t => t.rreg 0 == 0x0000000200) = true
      ∧ after (.mulRn ⟨true, true, true, false⟩ 0 1 2) (small2 0x8000000000 0x8000000000 0)
        (fun t => t.rreg 0 == 0x8000000000 && t.sys.astat == 0x80 && t.sys.stky == 0x40) = true := by decide +kernel

/-- Figures 2-7 and 2-8 (section 1.4), and the bit tests. -/
theorem test_exec_shift :
    after (.shFdep 0 1 2) (small2 0x000000FF00 0x0000021000 0) (fun t => t.rreg 0 == 0x00FF000000) = true
      ∧ after (.shFext 3 1 2) (small2 0x8788000000 0x0000021700 0) (fun t => t.rreg 3 == 0x0000000F00) = true
      ∧ after (.bitTst .ustat1 0x24) { small with sys.ustat1 := 0x7C } (fun t => t.sys.astat == 0x40000) = true := by
  decide +kernel

/-- A circular buffer of 5 words at 0xC000 (20_memory.md R243): from its last word by 3; BITREV of S1 (section 1.2). -/
theorem test_exec_address :
    after (.modifyImm false 0 3) (smallDag 0xC004 0 5 0xC000) (fun t => t.dagReg .i false 0 == 0xC002) = true
      ∧ after (.bitrevImm false 0 3) (smallDag 0x80400000 0 0 0)
        (fun t => t.dagReg .i false 0 == 0xC0000201) = true := by
  decide +kernel

/-- PM(0x9400) = PX stores 48 bits, and USTAT1 = PM(0x9400) of the 32-bit block reads another place (S2; R214). -/
theorem test_exec_store :
    after (.uregMemDirect true true .px 0x9400) { small with data.px := 0x123456789A00 }
      (fun t => t.readWide false 0x1400 == 0x123456789A00 && Memory.wf t.mem) = true := by decide +kernel

/-- CALL 0x8110 (DB) at 0x8004 pushes 0x8007; R386, R383. LCNTR = 30, DO (PC,3): R394. -/
theorem test_exec_flow :
    after (.callDirect false 31 true false 0x8110) small (fun t => t.pcTop == 0x8007) = true
      ∧ after (.lcntrImmDo 30 3) small
        (fun t => t.laddr == 0xCF008007 && t.curlcntr == 30 && t.pcTop == 0x8005) = true := by decide +kernel

/-- A whole step: R0 = 0x12345678 from its word, the pipeline one further (R328, R380). -/
theorem test_step_immediate :
    stepped (small.withFetchWord 48 0x0F0012345678)
      (fun t => t.rreg 0 == 0x1234567800 && t.pipe.pc == 0x8005) = true := by
  decide +kernel

/-- A step with IRQ0I (8) latched, unmasked and enabled takes it (60_exceptions.md R670, R672). -/
theorem test_step_interrupt :
    stepped { small.placeAtPc 0 with sys.irptl := 0x100, sys.imask := 0x103, sys.mode1 := 0x1000 }
      (fun t => t.pipe.faddr == 0x020020 && t.pcTop == 0x8005 && t.sys.imaskp == 0x100 && t.stk.status.length == 1)
      = true := by decide +kernel

/-- After reset the fetch starts at 0x020004, and two steps later the instruction there executes (R903, R380). -/
theorem test_step_reset :
    stepped State.reset (fun t => t.pipe.killP && t.pipe.faddr == 0x020005
      && stepped t (fun u => !u.pipe.killP && u.pipe.pc == 0x020004 && u.pipe.faddr == 0x020006)) = true := by
  decide +kernel

/-- A word that is no instruction is refused by name. -/
theorem test_step_undefined :
    (match step (small.placeAtPc 0x030000000000) with
      | .refused .undefinedWord => true
      | _ => false) = true := by decide +kernel

/-! ### Witnesses: the hypotheses of each statement, met together -/

namespace Sys2Proof.Machine

/-- An outcome is a next state. -/
def isNext : Host.Outcome State Fault Refusal → Bool
  | .next _ => true
  | _ => false

theorem isNext_next {o : Host.Outcome State Fault Refusal} (h : isNext o = true) : ∃ t, o = .next t := by
  cases o <;> simp_all [isNext]

/-- An operation answers a value. -/
theorem toBool_ok {ε α : Type} {x : Except ε α} (h : x.toBool = true) : ∃ y, x = .ok y := by
  cases x <;> simp_all [Except.toBool]

/-- The operand in R[n], as the floating-point units take it, is a NAN. -/
def operandNan (s : State) (n : BitVec 4) : Bool := fltNan (fltIn s.modes.rnd32 (s.rreg n))

/-- The invariants that `small` meets. -/
theorem small_memInv : MemInv small :=
  ⟨by decide +kernel, fun e h => absurd h (List.not_mem_nil), by decide +kernel⟩

theorem small_bufferInv : BufferInv small :=
  ⟨by decide +kernel, by decide +kernel, by decide +kernel, by decide +kernel, by decide +kernel⟩

theorem small_coreInv : CoreInv small :=
  ⟨by decide +kernel, by decide +kernel, by decide +kernel, by decide +kernel, by decide +kernel⟩

end Sys2Proof.Machine

theorem witness_DecodeEncodeRoundTrip : (Instr.mulRn ⟨true, true, true, true⟩ 15 15 15).wf = true := by decide

theorem witness_DecodedInstructionsAreWellFormed :
    decode 0x30EAFA2C0760 = .ok (.dmPmDualMove true 0 3 true 5 3 7 4 (.shift .bset 7 6 0)) := by decide

/-- With the surroundings last or first in the step; with no word fetched yet, with the one in memory fetched, and with
a word that is no instruction. -/
theorem witness_StepRunsTheDecodedInstruction :
    (∀ s ∈ [small, { small with env.script := [⟨0, 1, [], true⟩] }], s.env.id ≠ 3 ∧ s.fresh.ahead.toBool = true)
      ∧ small.input.early = false ∧ { small with env.id := 3 }.env.id = 3
      ∧ small.pipe.mode = .running ∧ small.pipe.killP = false ∧ small.isExternal small.pipe.pc = false
      ∧ small.isExternal small.pipe.daddr = false ∧ small.isExternal small.pipe.faddr = false
      ∧ small.pipe.irP = none
      ∧ (let s := { small with pipe.irP := some ⟨0, false⟩ }
        s.pipe.irP = some ⟨s.codeWord s.pipe.pc 8, false⟩)
      ∧ decode (small.codeWord small.pipe.pc 8) = .ok .nop ∧ Instr.nop.wf = true
      ∧ (decode ((small.placeAtPc 0x030000000000).codeWord 0x8004 8)).toBool = false := by decide +kernel

theorem witness_EveryStepKeepsMemoryCanonical : MemInv small ∧ ∃ t, step small = .next t :=
  ⟨small_memInv, isNext_next (by decide +kernel)⟩

theorem witness_EveryStepKeepsTheCoreRegisters : CoreInv small ∧ ∃ t, step small = .next t :=
  ⟨small_coreInv, isNext_next (by decide +kernel)⟩

theorem witness_EveryStepKeepsTheBufferDepths : BufferInv small ∧ ∃ t, step small = .next t :=
  ⟨small_bufferInv, isNext_next (by decide +kernel)⟩

/-- Both widths; an overflow, an underflow and a normal result. -/
theorem witness_FloatRoundAndPack :
    fltPack false 24 false 0xFFFFFFFF 96 = ⟨0x7F80000000, true, false⟩
      ∧ fltPack true 32 false 1 (-127) = ⟨0, false, true⟩
      ∧ fltPack false 32 true 3 (-1) = ⟨0xBFC0000000, false, false⟩
      ∧ after (.fltAdd 0 1 2) (small2 0x7F7FFFFFFF 0x7F7FFFFFFF 0)
        (fun t => t.rreg 0 == 0x7F80000000 && t.sys.astat == 0x402 && t.sys.stky == 0x2) = true := by
  decide +kernel

/-- The operand of R1, then of R2, is a NAN; the operand of RND is one by its low eight bits alone, with RND32 = 1. -/
theorem witness_FloatNanOperandsAreInvalid :
    operandNan (small2 0x7FC0000000 0 0) 1 = true ∧ operandNan (small2 0x7FC0000000 0 0) 2 = false
      ∧ operandNan (small2 0 0xFF80000100 0) 1 = false ∧ operandNan (small2 0 0xFF80000100 0) 2 = true
      ∧ operandNan (small2 0x7F80000001 0 0x10000) 1 = false
      ∧ fltNan (fltIn false ((small2 0x7F80000001 0 0x10000).rreg 1)) = true := by
  decide +kernel

/-- The five cases of SumOf: a NAN or opposite Infinities, an Infinity on the left, on the right, an exact zero,
a sum. -/
theorem witness_FloatSums :
    fltNan 0x7FC0000000 = true ∧ (fltInf 0x7F80000000 = true ∧ fltInf 0xFF80000000 = true)
      ∧ fltNan 0x3F80000000 = false ∧ fltExp 0x3F80000000 ≠ 255
      ∧ fltSum ⟨false, false, false, false, false⟩ 0 0x3F80000000 0xBF80000000 = fltOut 0
      ∧ fltSum ⟨false, false, false, false, false⟩ 0 0x3F80000000 0x4000000000 = fltOut 0x4040000000 := by decide +kernel

/-- A number, and an Infinity and a zero, which have their own cases. -/
theorem witness_FloatSignPassRoundScale :
    operandNan (small2 0x3F80000000 0x0000000300 0) 1 = false ∧ fltNan (fltIn false 0x3F80000000) = false
      ∧ fltInf 0x7F80000000 = true ∧ fltNan 0x7F80000000 = false ∧ fltZero 0 = true ∧ fltNan 0 = false := by
  decide +kernel

/-- The cases of FixOf: a NAN, an Infinity, a number in range and one beyond it. -/
theorem witness_FloatToFixed :
    fltNan 0x7FC0000000 = true ∧ fltInf 0x7F80000000 = true ∧ fltExp 0x4020000000 ≠ 255
      ∧ after (.fltFix 0 1 2) (small2 0x4F00000000 0 0x2000)
        (fun t => t.rreg 0 == 0x7FFFFFFF00 && t.sys.stky == 0x2) = true
      ∧ after (.fltFix 0 1 2) (small2 0xCF00000000 0 0)
        (fun t => t.rreg 0 == 0x8000000000 && t.sys.stky == 0) = true := by
  decide +kernel

theorem witness_FixedToFloat :
    (small2 0x7FFFFFFF00 0 0).modes.rnd32 = false
      ∧ after (.fltFloat 0 1 2) (small2 0x7FFFFFFF00 0 0) (fun t => t.rreg 0 == 0x4EFFFFFFFE) = true
      ∧ after (.fltFloat 0 1 2) (small2 0 0 0) (fun t => t.rreg 0 == 0) = true := by decide +kernel

/-- A zero, an exponent above 125, a number; for RSQRTS a negative number and an Infinity. -/
theorem witness_FloatSeeds :
    [0#40, 0x7E80000000, 0x4000000000, 0xBF80000000, 0x7F80000000].all
      (fun x => !operandNan (small2 x 0 0) 1) = true := by
  decide +kernel

/-- Two numbers, and two zeros of either sign. -/
theorem witness_FloatCopysignMinMaxClip :
    [(0x40A0000000#40, 0xC000000000#40), (0, 0x8000000000)].all
      (fun p => !operandNan (small2 p.1 p.2 0) 1 && !operandNan (small2 p.1 p.2 0) 2) = true := by decide +kernel

theorem witness_ImmediateShifts : small.cond 31 = true := by decide +kernel

/-- Two registers for the two results, and one for both. -/
theorem witness_MultifunctionRows : (3#4 ≠ 4#4) ∧ (3#4 = 3#4) := by decide

/-- A word, its operation, and both values of the condition. -/
theorem witness_ConditionalCompute :
    (0#5 ≠ 31) ∧ decode (0x01#8 ++ 0#2 ++ 0#5 ++ 0#10 ++ 0x001012#23) = .ok (.compute 0 (.alu .add 0 1 2))
      ∧ decode (computeWord 0x001012) = .ok (.aluAdd 0 1 2)
      ∧ { small with lat.astat := 1 }.cond 0 = true ∧ small.cond 0 = false ∧ small.inShortLoop = false := by decide +kernel

/-- EQ with AZ = 0, and code 15, NOT LCE, in the last pass of a loop. -/
theorem witness_FalseConditionDoesNothing : small.cond 0 = false ∧ (smallLoop 0xCF008007 1).cond 15 = false := by
  decide +kernel

namespace Sys2Proof.Machine

/-- The addresses of the witnesses: normal words of both blocks, a short word, external memory, an IOP register. -/
def places : List (BitVec 32) := [0x8000, 0x9FFF, 0xC000, 0xDFFF, 0x10000, 0x1BFFF, 0x20000, 0x3FFFFF, 0x2]

/-- `small` with I0 (or I8) at an address, and 40-bit data in both blocks if `w`. -/
def smallAt (g : Bool) (a : BitVec 32) (w : Bool) : State :=
  { small with iop.sys.syscon := if w then 0x320 else 0x20 }.setDagReg .i g 0 a

theorem smallAt_memInv (g : Bool) (a : BitVec 32) (w : Bool) : MemInv (smallAt g a w) := by
  have h : (smallAt g a w).mem = small.mem ∧ (smallAt g a w).shadow = small.shadow := by
    simp [smallAt]
  exact ⟨h.1 ▸ small_memInv.canonical, h.2 ▸ small_memInv.queued, h.2 ▸ small_memInv.short⟩

/-- A store completes there. -/
def State.takes (s : State) (g px : Bool) (p : Place) (w : BitVec 48) : Bool :=
  match p with
  | .iop r => (s.writeReg false px r (if px && !g then w.extractLsb' 8 40 ++ 0#8 else w)).toBool
  | _ => s.completes px p

/-- A load completes there, in either width, or it is from WAIT. -/
def State.gives (s : State) (p : Place) : Bool :=
  match p with
  | .iop r => decide (r = 0x02)
  | _ => s.completes true p && s.completes false p

theorem storeOk_of_takes {s : State} {g px : Bool} {p : Place} {w : BitVec 48} (h : s.takes g px p w = true) :
    StoreOk s g px p w := by
  cases p <;> first | exact toBool_ok h | exact h

theorem loadOk_of_gives {s : State} {u : Ureg} {p : Place} (h : s.gives p = true) : LoadOk s u p := by
  cases p with
  | iop r =>
    obtain rfl : r = 0x02 := of_decide_eq_true h
    exact fun site => ⟨_, rfl⟩
  | _ =>
    simp only [State.gives, Bool.and_eq_true] at h
    show s.completes (decide (u = .px)) _ = true
    cases decide (u = .px)
    · exact h.2
    · exact h.1

/-- At every address of `places`, on both buses and in both widths, the postmodify store and load can be made. -/
theorem places_ok :
    (places.all fun a => [false, true].all fun g => [false, true].all fun w =>
      let s := smallAt g a w
      let p := place s.env.id (s.postAddr g 0)
      s.takes g false p (s.rreg 1 ++ 0#8) && s.gives p) = true := by decide +kernel

theorem places_at {a : BitVec 32} (ha : a ∈ places) (g w : Bool) :
    let s := smallAt g a w
    let p := place s.env.id (s.postAddr g 0)
    MemInv s ∧ s.cond 31 = true ∧ StoreOk (s.noteCond 31) g false p (s.rreg 1 ++ 0#8)
      ∧ ∀ u, LoadOk (s.noteCond 31) u p := by
  have h := List.all_eq_true.mp places_ok a ha
  have h := List.all_eq_true.mp h g (by cases g <;> decide)
  have h := List.all_eq_true.mp h w (by cases w <;> decide)
  have h := Bool.and_eq_true_iff.mp h
  exact ⟨smallAt_memInv g a w, rfl, storeOk_of_takes h.1, fun _ => loadOk_of_gives h.2⟩

end Sys2Proof.Machine

theorem witness_ShiftWithMove : ∀ a ∈ places, ∀ g w : Bool,
    let s := smallAt g a w
    let p := place s.env.id (s.postAddr g 0)
    MemInv s ∧ s.cond 31 = true ∧ StoreOk (s.noteCond 31) g false p (s.rreg 1 ++ 0#8)
      ∧ ∀ u, LoadOk (s.noteCond 31) u p :=
  fun _ ha g w => places_at ha g w

/-- Each first access, and a second one to internal memory, in the four directions. -/
theorem witness_DualMove : ∀ a ∈ places, ∀ w dmd pmd : Bool,
    let s := (smallAt false a w).setDagReg .i true 0 0x9FFF
    let p1 := place s.env.id (s.postAddr false 0)
    let p2 := place s.env.id (s.postAddr true 0)
    MemInv s ∧ (if dmd then StoreOk s false false p1 (s.rreg 1 ++ 0#8) else LoadOk s (.r 1) p1)
      ∧ ∀ x : State, if pmd then StoreOk x true false p2 (s.rreg 2 ++ 0#8) else LoadOk x (.r 2) p2 := by
  intro a ha w dmd pmd
  have h : (places.all fun a => [false, true].all fun w =>
      let s := (smallAt false a w).setDagReg .i true 0 0x9FFF
      let p1 := place s.env.id (s.postAddr false 0)
      s.takes false false p1 (s.rreg 1 ++ 0#8) && s.gives p1) = true := by decide +kernel
  have h := List.all_eq_true.mp h a ha
  have h := Bool.and_eq_true_iff.mp (List.all_eq_true.mp h w (by cases w <;> decide))
  refine ⟨?_, ?_, fun x => ?_⟩
  · have m := smallAt_memInv false a w
    exact ⟨by simpa using m.canonical, by simpa using m.queued, by simpa using m.short⟩
  · cases dmd
    · exact loadOk_of_gives h.2
    · exact storeOk_of_takes h.1
  · have e : place ((smallAt false a w).setDagReg .i true 0 0x9FFF).env.id
        (((smallAt false a w).setDagReg .i true 0 0x9FFF).postAddr true 0) = .normal false 0x1FFF := by
      have h : (places.all fun a => [false, true].all fun w =>
          let s := (smallAt false a w).setDagReg .i true 0 0x9FFF
          decide (place s.env.id (s.postAddr true 0) = .normal false 0x1FFF)) = true := by decide +kernel
      exact of_decide_eq_true (List.all_eq_true.mp (List.all_eq_true.mp h a ha) w (by cases w <;> decide))
    rw [e]
    cases pmd <;> exact rfl

/-- The five forms: an index register, an offset, a direct address, PX on either bus, an immediate value. -/
theorem witness_Stores :
    (∀ a ∈ places, ∀ g w : Bool,
      let s := smallAt g a w
      let p := place s.env.id (s.postAddr g 0)
      MemInv s ∧ s.cond 31 = true ∧ StoreOk (s.noteCond 31) g false p (s.rreg 1 ++ 0#8))
    ∧ uregInDag (.i 3) false = true ∧ uregInDag (.r 1) false = false
    ∧ small.storeImage (.r 1) = .ok (small.rreg 1 ++ 0#8) ∧ small.storeImage .px = .ok small.data.px
    ∧ (∀ a ∈ places, ∀ g : Bool,
      StoreOk small g (decide (Ureg.px = .px)) (place small.env.id (if g then a &&& 0x00FFFFFF else a)) small.data.px)
    ∧ (∀ a ∈ places, ∀ g : Bool,
      StoreOk small g (decide (Ureg.r 1 = .px)) (place small.env.id (small.premodify g 0 a)) (small.rreg 1 ++ 0#8))
    ∧ { small with env.immToIop := true }.env.immToIop = true
    ∧ (∀ g : Bool, let s := { smallAt g 8 false with env.immToIop := false }
      place s.env.id (s.postAddr g 0) = .iop 8 ∧ s.env.immToIop = false)
    ∧ ∀ a ∈ places, ∀ g w : Bool,
      let s := smallAt g a w
      StoreOk s g false (place s.env.id (s.postAddr g 0)) (0xFFFFFFFF#32 ++ 0#16) := by
  refine ⟨fun a ha g w => ⟨(places_at ha g w).1, (places_at ha g w).2.1, (places_at ha g w).2.2.1⟩, by decide, by decide,
    rfl, rfl, fun a ha g => ?_, fun a ha g => ?_, by decide +kernel, by decide +kernel, fun a ha g w => ?_⟩
  all_goals refine storeOk_of_takes ?_
  · have h : (places.all fun a => [false, true].all fun g =>
        small.takes g true (place small.env.id (if g then a &&& 0x00FFFFFF else a)) small.data.px) = true := by
      decide +kernel
    exact List.all_eq_true.mp (List.all_eq_true.mp h a ha) g (by cases g <;> decide)
  · have h : (places.all fun a => [false, true].all fun g =>
        small.takes g false (place small.env.id (small.premodify g 0 a)) (small.rreg 1 ++ 0#8)) = true := by
      decide +kernel
    exact List.all_eq_true.mp (List.all_eq_true.mp h a ha) g (by cases g <;> decide)
  · have h : (places.all fun a => [false, true].all fun g => [false, true].all fun w =>
        let s := smallAt g a w
        s.takes g false (place s.env.id (s.postAddr g 0)) (0xFFFFFFFF#32 ++ 0#16)) = true := by decide +kernel
    exact List.all_eq_true.mp (List.all_eq_true.mp (List.all_eq_true.mp h a ha) g (by cases g <;> decide)) w
      (by cases w <;> decide)

/-- The four forms; a data register takes every value; a DAG register through its own DAG with and without update. -/
theorem witness_Loads :
    (∀ a ∈ places, ∀ g w : Bool,
      let s := smallAt g a w
      let p := place s.env.id (s.postAddr g 0)
      s.cond 31 = true ∧ (∀ u, LoadOk (s.noteCond 31) u p) ∧ LoadSettable (s.noteCond 31) g (.r 1) p)
    ∧ uregInDag (.i 3) false = true ∧ uregInDag (.i 3) true = false
    ∧ (∀ a ∈ places, ∀ g : Bool, ∀ u, LoadOk small u (place small.env.id (if g then a &&& 0x00FFFFFF else a)))
    ∧ ∀ a ∈ places, ∀ g : Bool, ∀ u, LoadOk small u (place small.env.id (small.premodify g 0 a)) := by
  refine ⟨fun a ha g w => ⟨(places_at ha g w).2.1, (places_at ha g w).2.2.2, fun _ _ _ => rfl⟩, by decide, by decide,
    fun a ha g u => ?_, fun a ha g u => ?_⟩
  all_goals refine loadOk_of_gives ?_
  · have h : (places.all fun a => [false, true].all fun g =>
        small.gives (place small.env.id (if g then a &&& 0x00FFFFFF else a))) = true := by decide +kernel
    exact List.all_eq_true.mp (List.all_eq_true.mp h a ha) g (by cases g <;> decide)
  · have h : (places.all fun a => [false, true].all fun g =>
        small.gives (place small.env.id (small.premodify g 0 a))) = true := by decide +kernel
    exact List.all_eq_true.mp (List.all_eq_true.mp h a ha) g (by cases g <;> decide)

/-- A plain register; CURLCNTR of a loop that is not short; bit 1 of IRPTL. -/
theorem witness_RegisterMoves :
    let s := small2 0x0000000200 0 0
    s.cond 31 = true ∧ s.uregRead (.r 1) = .ok 0x0000000200 ∧ s.settable false .px 2 = true
      ∧ (smallLoop 0xCF008009 5).settable false .curlcntr 2 = true ∧ s.settable false .irptl 2 = false
      ∧ (0x0000000200#40).getLsbD 9 = true ∧ (2#32).getLsbD 1 = true := by
  refine ⟨by decide +kernel, ?_, by decide +kernel⟩
  exact congrArg Except.ok (by decide +kernel : (small2 0x0000000200 0 0).rreg 1 = 0x0000000200)

/-- An empty PC stack and one with an entry, no loop and a short one whose body is elsewhere, fewer than six loops. -/
theorem witness_RegistersAsTheyAreRead :
    small.stk.pcstkp = 0 ∧ (small.pushPc 0x8100).stk.pcstkp ≠ 0 ∧ (small.pushPc 0x8100).inShortLoop = false
      ∧ small.inShortLoop = false ∧ (smallLoop 0x4F008009 5).shortLoop = true
      ∧ (smallLoop 0x4F008009 5).inShortLoop = false ∧ small.stk.depth ≠ 6 := by decide +kernel

/-- L = 0, and buffers of five words at the end of the address space of both DAGs, from their first and last word. -/
theorem witness_IndexRegisterUpdates :
    small.cond 31 = true
      ∧ (let b := 0xFFFFFFFB#32; let i := 0xFFFFFFFF#32; let l := 5#32; let mv := (4#32).toInt
        b.toNat ≤ i.toNat ∧ i.toNat < b.toNat + l.toNat ∧ |mv| < l.toNat ∧ b.toNat + l.toNat ≤ 2 ^ 32
          ∧ wrap false i mv b l = 0xFFFFFFFE)
      ∧ let b := 0x00FFFFFB#32; let l := 5#32; let mv := ((0x00FFFFFC#32).setWidth 24).toInt
        b.toNat ≤ b.toNat ∧ b.toNat < b.toNat + l.toNat ∧ |mv| < l.toNat ∧ b.toNat + l.toNat ≤ 2 ^ 24
          ∧ wrap true b mv b l = 0x00FFFFFC := by decide +kernel

/-- Both timers disabled; a write of DMAC0 that is in effect. -/
theorem witness_IopRegistersHoldWhatIsWritten :
    small.lat.mode2.getLsbD 5 = false ∧ small.lat.mode2.getLsbD 11 = false
      ∧ (∀ x, (small.iop.ep x).dmacNew = 0 ∧ (small.iop.ep x).dmacPrev = 0 ∧ (small.iop.ep x).dmacOld = 0) := by
  decide +kernel

namespace Sys2Proof.Machine

/-- `small` serving IRQ0I (8), its status pair saved, one step after the entry. -/
def smallService : State :=
  let s := small.takeInterrupt 8 (small.vector 8)
  { s with lat.imaskp := s.sys.imaskp }

theorem smallLoop_canEnd : (smallLoop 0xCF008006 5).canEnd := by
  intro k h
  have e : (smallLoop 0xCF008006 5).lat.imaskp = 0 := rfl
  exact absurd h.1 (by rw [e]; simp)

theorem smallService_canEnd : smallService.canEnd := by
  intro k _ _ _
  have e : smallService.stk.status.length = 1 := by decide +kernel
  intro h
  simp [h] at e

theorem smallService_inService : smallService.inService 8 := by
  have e : smallService.lat.imaskp = 0x100 := by decide +kernel
  exact ⟨by rw [e]; decide, fun j h => by rw [e]; revert j; decide⟩

end Sys2Proof.Machine

/-- Within a loop, outside of one, and in a service routine. -/
theorem witness_JumpsAndCalls :
    (smallLoop 0xCF008006 5).cond 31 = true ∧ (smallLoop 0xCF008006 5).looping = true
      ∧ (smallLoop 0xCF008006 5).pcEmpty = false ∧ (smallLoop 0xCF008006 5).canEnd
      ∧ small.looping = false ∧ smallService.canEnd ∧ smallService.inService 8 :=
  ⟨by decide +kernel, by decide +kernel, by decide +kernel, smallLoop_canEnd, by decide +kernel, smallService_canEnd,
    smallService_inService⟩

theorem witness_ElseMove : ∀ a ∈ places, ∀ w : Bool,
    let s := smallAt false a w
    let p := place s.env.id (s.postAddr false 0)
    MemInv s ∧ s.cond 31 = true ∧ s.cond 0 = false
      ∧ StoreOk (s.noteCond 0) false false p (s.rreg 1 ++ 0#8) ∧ ∀ u, LoadOk (s.noteCond 0) u p :=
  fun a ha w => ⟨(places_at ha false w).1, rfl, by
    have h : (places.all fun a => [false, true].all fun w => !(smallAt false a w).cond 0) = true := by decide +kernel
    simpa using List.all_eq_true.mp (List.all_eq_true.mp h a ha) w (by cases w <;> decide),
    (places_at ha false w).2.2.1, (places_at ha false w).2.2.2⟩

/-- An empty PC stack; a return into a loop; a return from IRQ0I. -/
theorem witness_Returns :
    small.cond 31 = true ∧ small.pcEmpty = true ∧ (smallLoop 0xCF008006 5).pcEmpty = false
      ∧ (smallLoop 0xCF008006 5).canEnd ∧ smallService.pcEmpty = false ∧ smallService.canEnd ∧ smallService.inService 8 :=
  ⟨by decide +kernel, by decide +kernel, by decide +kernel, smallLoop_canEnd, by decide +kernel, smallService_canEnd,
    smallService_inService⟩

/-- The shortest loop, outside of a loop and in one that ends elsewhere; a delay slot, an end at the instruction itself,
the end of the loop it stands in; R12 as the count. -/
theorem witness_LoopsStart :
    small.pipe.slots = 0 ∧ 0 < (1#24).toInt ∧ { small with pipe.slots := 1 }.pipe.slots ≠ 0 ∧ (0#24).toInt ≤ 0
      ∧ small.looping = false
      ∧ (let l := smallLoop 0xCF008006 5
        l.pipe.slots = 0 ∧ l.looping = true ∧ l.loopEnd ≠ l.pipe.pc + 1 ∧ l.loopEnd = l.pipe.pc + 2)
      ∧ small.uregRead (.r 12) = .ok (small.rreg 12) :=
  ⟨by decide +kernel, by decide, by decide +kernel, by decide, by decide +kernel, by decide +kernel, rfl⟩

/-- Each clause: an empty PC stack; no loop, in a delay slot; the last, the second and third to last word of a loop,
and of a short one; branches; no loop; a loop whose end is elsewhere; the re-entry flag; both outcomes of the test. -/
theorem witness_NextFetchAddress :
    let l := smallLoop 0xCF008006 5
    let last := smallLoop 0xCF008006 1
    small.pipe.mode = .running ∧ small.tr.loopStarted = none
      ∧ { small with tr.branch := .nondelayed 0x8100 }.tr.branch = .nondelayed 0x8100
      ∧ { small with tr.branch := .delayed 0x8100 }.tr.branch = .delayed 0x8100
      ∧ small.tr.branch = .none ∧ small.selected = none ∧ small.shortLoop = false ∧ small.looping = false
      ∧ (smallLoop 0xCF008007 5).pipe.faddr ≠ (smallLoop 0xCF008007 5).loopEnd
      ∧ l.selected = none ∧ l.shortLoop = false ∧ l.looping = true ∧ l.pipe.faddr = l.loopEnd
      ∧ { l with pipe.lrf := true }.pipe.lrf = true
      ∧ l.pipe.lrf = false ∧ l.term (l.laddr.extractLsb' 24 5) = false
      ∧ last.term (last.laddr.extractLsb' 24 5) = true ∧ { last with stk.depth := last.stk.depth - 1 }.shortLoop = false
      ∧ l.tr.branch = .none ∧ l.tr.loopStarted = none ∧ l.pipe.mode = .running
      ∧ l.tr.stall = false ∧ (let e := { l with stk.pcstkp := 0 }; e.pcEmpty = true ∧ e.looping = true)
      ∧ (let b := { small with pipe.slots := 1, tr.branch := .delayed 0x8100 }
        b.tr.stall = false ∧ b.looping = false)
      ∧ (let b := smallLoop 0x8F008005 5
        b.pcEmpty = false ∧ b.looping = true ∧ b.pipe.pc = b.loopEnd - 1 ∧ b.loopType ≠ 1)
      ∧ (let b := smallLoop 0xCF008004 5; b.pcEmpty = false ∧ b.pipe.pc = b.loopEnd)
      ∧ (l.pcEmpty = false ∧ l.pipe.pc = l.loopEnd - 2)
      ∧ (last.pcEmpty = false ∧ last.looping = true ∧ last.loopType ≠ 0 ∧ last.pipe.lrf = false
        ∧ decode 0x063E00008100 = .ok (.jumpDirect false 31 false false 0x8100)
        ∧ last.pipe.killD = false ∧ last.pipe.daddr = last.loopEnd - 1)
      ∧ (let b := { smallLoop 0x00008005 0 with pipe.faddr := 0x8005 }
        b.shortLoop = false ∧ b.looping = true ∧ b.pipe.faddr = b.loopEnd ∧ b.loopType = 0 ∧ b.pcTop = b.loopEnd
          ∧ b.pipe.pc ≠ b.loopEnd) := by decide +kernel

/-- Branches, a CALL that is not delayed among them, and the loops in which that one is refused too; a loop whose top is
known, from its last word; a step of the test in which CURLCNTR is not written. -/
theorem witness_NextFetchAddress_forms :
    BranchForm (.jumpPcrel6ElseMove false 0 0 31 0 0 .none) false false
      ∧ BranchForm (.callIndirect false 31 0 0 false true false .none) false true
      ∧ BranchForm (.cjumpDirect 0x8100) true false
      ∧ (smallLoop 0x4F008004 5).loopType = 1 ∧ (smallLoop 0x00008005 0).loopStart = some (smallLoop 0x00008005 0).loopEnd
      ∧ (let b := smallLoop 0x8F008005 1; b.loopType = 2 ∧ b.stk.initial.toList.getD (b.stk.depth.toNat - 1) 0 = 1)
      ∧ (let b := { (small.pushLoop 0xCF008006 5 (some 0x8004)).pushPc 0x8004 with pipe.pc := 0x8006 }
        b.loopStart = some 0x8004 ∧ (b.loopEnd - b.pipe.pc).toNat ≤ (b.loopEnd - 0x8004).toNat
          ∧ b.pipe.pc = b.loopEnd ∧ b.pcEmpty = false ∧ b.loopType ≠ 0 ∧ b.tr.countWritten = false) :=
  ⟨.jumpPcrel6ElseMove .., .callIndirect .., .cjumpDirect .., by decide +kernel, by decide +kernel, by decide +kernel,
    by decide +kernel⟩

/-- A jump in the last three words of a loop is refused; a call that is not delayed may
stand there, but not in a loop of one word (41_program_flow.md R393, R400); elsewhere a jump runs. -/
theorem test_branches_refused :
    (match step ((smallLoop 0xCF008006 5).placeAtPc 0x063E00008100) with
      | .refused .loopBranch => true
      | _ => false) = true
    ∧ (smallLoop 0xCF008006 5).loopBranch (.callDirect false 31 false false 0x8100) = false
    ∧ (smallLoop 0x4F008004 5).loopBranch (.callDirect false 31 false false 0x8100) = true
    ∧ stepped (small.placeAtPc 0x063E00008100) (fun t => t.pipe.faddr == 0x8100) = true := by decide +kernel

/-- The only pass of a loop of three words with a jump as its last word is refused, with a call there it runs (R921 row 9,
R393). -/
theorem test_branches_refused_unseen :
    (match step ((smallLoop 0xCF008006 1).placeCode 0x8006 0x063E00008100) with
      | .refused .loopBranch => true
      | _ => false) = true
    ∧ stepped ((smallLoop 0xCF008006 1).placeCode 0x8006 0x06BE00008100) (fun t => !t.looping) = true := by decide +kernel

/-- DO UNTIL EQ of one word (R397, D39): fetched again after an interrupt it is not tested, executed with EQ true it is, and
no interrupt is taken then. -/
theorem test_lone_loop :
    let s := { smallLoop 0x00008005 0 with
      sys.astat := 1, lat.astat := 1, pipe.daddr := 0x8005, pipe.faddr := 0x8005
      sys.irptl := 0x100, sys.imask := 0x103, sys.mode1 := 0x1000 }
    s.loopStep = .reenter ∧ s.heldOff false = false
      ∧ { s with pipe.pc := 0x8005 }.loopStep = .exit ∧ { s with pipe.pc := 0x8005 }.heldOff false = true := by
  decide +kernel

/-- Section 3, S6 and S7, at 0x8004: after a delayed CALL, in its first slot PUSH PCSTK leaves the address after it above
the return address, and a write of PCSTK replaces the return address. -/
theorem test_pc_stack_in_slot :
    let called := small.placeAtPc (encode (.callDirect false 31 true false 0x8100))
    stepped (called.placeCode 0x8005 (encode (.pushPcstk false false))) (fun t =>
        t.pcTop == 0x8007 && stepped t fun u => u.pcTop == 0x8006 && u.stk.pcstkp == 2 && u.stk.pc.toList.getD 0 0 == 0x8007)
          = true
      ∧ stepped (called.placeCode 0x8005 (encode (.uregImm32 .pcstk 0x2011C))) (fun t =>
        stepped t fun u => u.pcTop == 0x2011C && u.stk.pcstkp == 1) = true := by decide +kernel

/-- Section 3, S8: of a delayed jump to 0x8100 with one to 0x8200 in its first slot, the second slot and one instruction at
0x8100 execute, then that at 0x8200 (41_program_flow.md R381, R384). -/
theorem test_branch_in_slot :
    let s := (small.placeAtPc (encode (.jumpDirect false 31 true false 0x8100))).placeCode 0x8005
      (encode (.jumpDirect false 31 true false 0x8200))
    stepped s (fun t => t.pipe.pc == 0x8005 && stepped t fun u =>
      u.pipe.pc == 0x8006 && u.pipe.daddr == 0x8100 && u.pipe.faddr == 0x8200 && !u.pipe.killP && !u.pipe.killD) = true := by
  decide +kernel

/-- A load of a reserved address, of an undefined IOP address, or of 48 bits that do not exist does not stall (20_memory.md
R204); one of an IOP register or of external memory may. -/
theorem test_reserved_does_not_stall :
    small.leavesMemory (.uregMemDirect false false (.r 0) 0x15000) = false
      ∧ small.leavesMemory (.uregMemDirect false false (.r 0) 6) = false
      ∧ small.target ⟨false, true, 0x9800⟩ = .nothing ∧ small.target ⟨false, false, 0x9800⟩ = .block false
      ∧ small.leavesMemory (.uregMemDirect false false (.r 0) 2) = true
      ∧ small.leavesMemory (.uregMemDirect false false (.r 0) 0x20000) = true := by decide +kernel

/-- Two bytes from a host, a word from the other processor into the same buffer, four bytes more: the host's word is whole
(61_dma_extport.md R774); and after HPFLSH the two bytes are gone. -/
theorem test_host_pack_undisturbed :
    let s := { small with
      env.id := 1, iop.sys.crbm := 2, iop.sys.bsyn := true, iop.sys.hstm := true, iop.ep0.dmac := 0x80 }
    let sent : State → List ExtEvent → State := fun s es =>
      match do (← s.events es).actions 3 with
      | .ok t => t
      | .error _ => s
    let t := sent s [.hostWrite 4 1, .hostWrite 4 2, .hostBus false, .procWrite 4 0x1111]
    (sent t [.hostBus true, .hostWrite 4 3, .hostWrite 4 4, .hostWrite 4 5, .hostWrite 4 6]).iop.ep0.fifo
        = [0x060504030201]
      ∧ t.iop.ep0.pack = [0x1111] ∧ t.flushHost.iop.ep0.pack = [0x1111] ∧ t.flushHost.iop.hid.hostParts = [] := by
  decide +kernel

/-- SBTS comes while HBR waits for an access of the other processor's space that is in progress: whichever the core or the
host is first, the host's taking of the bus is refused, also when it would give it back at once (61_dma_extport.md R777;
U30); the same access of external memory is suspended. -/
theorem test_sbts_during_transfer :
    let s := { small.placeAtPc 0x100000000208 with
      env.id := 1, iop.sys.crbm := 1, iop.sys.bsyn := true, env.ack := false, env.sbts := true
      env.waiting := [.hostBus true], iop.hid.coreWait := .ack true }
    let refused : State → Bool := fun s => match step s with
      | .refused .sbtsTransfer => true
      | _ => false
    refused s = true ∧ refused { s with env.script := [⟨0, 1, [], true⟩] } = true
      ∧ refused { s with env.script := [⟨0, 1, [.hostBus false], false⟩] } = true
      ∧ stepped { (s.placeAtPc 0x100000020000) with iop.hid.coreWait := .ack false } (fun t => t.iop.sys.hstm) = true := by
  decide +kernel

/-- An IF BM load of external memory is suspended by SBTS with HBR and made once the host has gone, although the processor
was not bus master in between (61_dma_extport.md R777); with IF NOT BM it is not made at all. -/
theorem test_suspended_if_bm :
    let loads (c : BitVec 5) : State :=
      let s := (small.setDagReg .i false 1 0x20000).placeAtPc (encode (.dregMemMoveImm6 1 false false true c 0 2 .none))
      { s with
        mem := writeExt s.mem 0x20000 0x12345678, iop.hid.coreWait := .ack false, lat.master := some true
        env.ack := false, env.sbts := true
        env.script := [⟨0, 1, [.hostBus true], false⟩, ⟨0, 1, [.hostBus false, .sbts false, .ack true], false⟩] }
    let run (s : State) (n : Nat) (p : State → Bool) : Bool :=
      (n.repeat (fun o : Option State => o.bind fun s => match step s with | .next t => some t | _ => none) (some s)).any p
    run (loads 14) 1 (fun t => t.iop.sys.hstm && t.pipe.pc == 0x8004) = true
      ∧ run (loads 14) 2 (fun t => !t.iop.sys.hstm && t.pipe.pc == 0x8004 && t.iop.hid.coreWait == .bus) = true
      ∧ run (loads 14) 3 (fun t => t.pipe.pc == 0x8005 && t.rreg 2 == 0x1234567800) = true
      ∧ run (loads 30) 1 (fun t => t.pipe.pc == 0x8005 && t.rreg 2 == 0) = true := by decide +kernel

/-- HPFLSH written at the end of a step, from outside or by the core, clears the host packing at the end of the second step
after it, two writes each at their own time (61_dma_extport.md R774). -/
theorem test_flush_latency :
    let s := { small with iop.hid.hostCount := 1, iop.hid.hostParts := [7] }
    let after (out : Bool) (n : Nat) : Option State :=
      match s.writeSyscon out 0xA0 with
      | .ok t => some (n.repeat State.elapse t)
      | .error _ => none
    (∀ out : Bool, (after out 2).any (fun t => t.iop.hid.hostCount == 1 && t.iop.hid.hostFlush == 1) = true
      ∧ (after out 3).any (fun t => t.iop.hid.hostCount == 0 && t.iop.hid.hostFlush == 0) = true
      ∧ (after out 0).any (fun t => t.iop.hid.coreFlush == !out) = true)
      ∧ (match (after true 1).map (·.writeSyscon true 0xA0) with
        | some (.ok t) => t.iop.hid.hostFlush == 6
        | _ => false) = true := by decide +kernel

/-- A sticky arithmetic bit outlasts its service routine: the step that clears IMASKP does not latch it, the next one does,
but not a cycle in which the core only waits (60_exceptions.md R654, R677 item 4, R680, R720). -/
theorem test_level_after_service :
    let s := { small with sys.stky := 0x4, sys.imaskp := 0x01000000 }
    let t := { s with sys.imaskp := 0 }.latch s true
    t.sys.irptl = 0 ∧ (t.latch t true).sys.irptl = 0x01000000 ∧ (t.latch t false).sys.irptl = 0 := by decide +kernel

/-- A write of VIRPT from outside that drains in the step of the RTI that ends the vector interrupt is ignored, one in the
step after it sets VIPD and the latch (60_exceptions.md R690, R720). -/
theorem test_virpt_at_return :
    let x := (small.takeInterrupt 5 (small.vector 5)).placeAtPc (encode (.rti 31 false false .none))
    let s := { x with
      lat.imaskp := x.sys.imaskp, iop.sys.vipd := true, iop.hid.swf := [(false, 1, image32 0x8200)]
      env.script := [⟨0, 1, [], false⟩] }
    stepped s (fun t => t.sys.imaskp == 0 && t.iop.hid.swf.isEmpty && t.iop.sys.virpt == s.iop.sys.virpt
        && !t.iop.sys.vipd && t.sys.irptl == 0) = true
      ∧ stepped { s with env.script := [⟨0, 0, [], false⟩] } (fun t =>
        !t.iop.sys.vipd && stepped t fun w => w.iop.sys.virpt == 0x8200 && w.iop.sys.vipd && w.sys.irptl == 0x20) = true := by
  decide +kernel

/-- Type 16 at the address of an IOP register, by the parameter immToIop (R423; R121 a). -/
theorem test_imm_to_iop :
    let s := (small.setDagReg .i false 1 0x08).setDagReg .m false 1 1
    let i := Instr.memImm32Store 1 1 false 0x12345678
    after i { s with env.immToIop := true } (fun t => t.iop.sys.msgr.get 0 == 0x12345678 && t.dagReg .i false 1 == 9) = true
      ∧ after i { s with env.immToIop := false } (fun t => t.iop.sys.msgr.get 0 == 0 && t.dagReg .i false 1 == 9) = true := by
  decide +kernel

/-- SYSCON written by two instructions in a row: after the second one the old value is that of the first (R931). -/
theorem test_syscon_written_twice :
    (match { small with iop.sys.syscon := 0x60, lat.syscon := some (0x20, 7) }.writeSyscon false 0xA0 with
      | .ok t => t.sysconLatency none == some (0x60, 10)
      | .error _ => false) = true := by decide +kernel

/-- The spec's example of bit-reversed addressing: with BR0 the address of I0 = 0x80400000 is 0x201; I1 and DAG2 are not
reversed by BR0 (20_memory.md R245). -/
theorem test_bit_reversed_address :
    let s := { (small.setDagReg .i false 0 0x80400000).setDagReg .i false 1 0x80400000 with lat.mode1 := 2 }
    let t := { small.setDagReg .i true 0 0x400001 with lat.mode1 := 2 }
    s.postAddr false 0 = 0x201 ∧ s.premodify false 0 3 = 0xC0000201 ∧ s.postAddr false 1 = 0x80400000
      ∧ t.postAddr true 0 = 0x400001 ∧ { t with lat.mode1 := 1 }.postAddr true 0 = 0x800002 := by decide +kernel

/-- CURLCNTR written at e - 2 while a branch has put FADDR elsewhere is refused (R398); written elsewhere while the end is
fetched, as in a slot of a delayed return to it, it is the count, also beside a re-entry (R393; R41). -/
theorem test_curlcntr_at_test :
    ({ smallLoop 0xCF008006 5 with pipe.faddr := 0x8100 }.writeCurlcntr false 3).toBool = false
      ∧ ({ smallLoop 0xCF008007 5 with pipe.faddr := 0x8100 }.writeCurlcntr false 3).toBool = true
      ∧ (let s := { smallLoop 0xCF008006 5 with pipe.pc := 0x8100 }.placeAtPc (encode (.uregImm32 .curlcntr 3))
        s.pipe.faddr = s.loopEnd ∧ stepped { s with pipe.lrf := true } (fun t => t.curlcntr == 3 && !t.pipe.lrf) = true
          ∧ stepped s (fun t => t.looping) = true) := by
  decide +kernel

/-- A JUMP right before the DO UNTIL of a loop of one word that is not counted is none of its last three, when a service
routine executes it while the loop is on the stacks; the word of the loop is (R400). -/
theorem test_before_a_lone_loop :
    let i := Instr.jumpDirect false 31 false false 0x8100
    let s := small.pushLoop 0x00008005 0 (some 0x8005)
    ∀ t ∈ [s.pushPc 0x8005, (s.pushPc 0x8005).pushPc 0x8200],
      { t with pipe.pc := 0x8003 }.loopBranch i = false ∧ { t with pipe.pc := 0x8005 }.loopBranch i = true := by
  decide +kernel

/-- Each write of DMACx has its own two steps: FLSH at n, TRAN at n + 1, DEN at n + 2 is allowed, and of DEN at n, INTIO at
n + 2 only INTIO is still unsure at n + 3 (61_dma_extport.md R733). -/
theorem test_dmac_latencies :
    let two := fun v w => (small.writeDmac false v).toOption.bind fun t => (t.elapse.writeDmac false w).toOption
    ((two 0x2000 0x4).any fun t => (t.elapse.writeDmac false 0x5).toBool) = true
      ∧ ((two 0x2000 0x2000).any fun t => !(t.elapse.writeDmac false 0x1).toBool) = true
      ∧ ((two 1 1).any fun t => match t.elapse.writeDmac false 0x801 with
        | .ok u => u.iop.ep0.unsure 0 && !u.elapse.iop.ep0.unsure 0 && u.elapse.iop.ep0.unsure 11
        | .error _ => false) = true := by
  decide +kernel

/-- The timers tick once in a NOP and in a load of another block than the code's, however many ticks the script offers;
IDLE and a load of an IOP register may last (R699, D45). -/
theorem test_ticks :
    let s := fun w : BitVec 48 => { small.placeAtPc w with
      sys.mode2 := 0xA0, lat.mode2 := 0xA0, iop.timer0.enabled := true, iop.timer0.count := 1
      iop.timer0.period := 100, iop.timer0.width := 50, env.script := [⟨5, 1, [], false⟩] }
    stepped (s 0) (fun t => t.iop.timer0.count == 2) = true
      ∧ stepped (s 0x10000000C000) (fun t => t.iop.timer0.count == 2) = true
      ∧ stepped (s 0x008000000000) (fun t => t.iop.timer0.count == 7) = true
      ∧ stepped (s 0x100000000002) (fun t => t.iop.timer0.count == 7) = true := by decide +kernel

/-- In multichannel mode STCTL may stand cleared (R831); a slot it would send in is refused (R837). -/
theorem test_cleared_stctl :
    let p := { small.iop.sport0 with srctl := 0x008000F0 }
    p.multi = true ∧ p.bad = false ∧ p.badSlot = false ∧ { p with mtcs := 1 }.badSlot = true
      ∧ { p with stctl := 0x10 }.bad = true := by decide +kernel

theorem witness_InterruptSelection : small.pipe.mode ≠ .idle16 ∧ small.iop.hid.booting = false := by decide +kernel

/-- Interrupts with and without a status push, and VIRPTI; one that is taken; a held one; a branch. -/
theorem witness_InterruptEntry :
    let s := { small with sys.irptl := 0x100, sys.imask := 0x103, sys.mode1 := 0x1000 }
    s.selected = some 8 ∧ s.pipe.holdoff = 0 ∧ s.tr.branch = .none ∧ s.tr.loopStarted = none ∧ s.shortLoop = false
      ∧ { s with pipe.holdoff := 1 }.pipe.holdoff ≠ 0 ∧ s.pipe.mode = .running
      ∧ { s with tr.branch := .delayed 0x8100 }.tr.branch ≠ .none
      ∧ (let b := { smallLoop 0x4F008005 3 with pipe.pc := 0x8005 }
        b.looping = true ∧ b.pcTop = b.loopEnd ∧ b.pipe.mode = .running ∧ b.pipe.killP = false ∧ b.pipe.pc = b.loopEnd
          ∧ b.tr.loopStarted = none ∧ b.loopType = 1 ∧ b.curlcntr = 3)
      ∧ (let b := { smallLoop 0x00008005 0 with pipe.pc := 0x8005, pipe.faddr := 0x8005, lat.astat := 1 }
        b.loopType = 0 ∧ b.pipe.faddr = b.loopEnd ∧ b.pipe.lrf = false ∧ b.term (b.laddr.extractLsb' 24 5) = true)
      ∧ (small.takeInterrupt 3 (small.vector 3)).stk.status.length = 0 ∧ (small.takeInterrupt 5 (small.vector 5)).pipe.faddr = 0x020014
      ∧ (small.takeInterrupt 31 (small.vector 31)).pipe.faddr = 0x02007C := by decide +kernel

/-- A step that runs, also with a value of PCSTKP to take effect, and one that waits: an external load by a processor that
is not bus master. -/
theorem witness_ModesTakeEffectOneStepLater :
    (∃ t, step small = .next t)
      ∧ (let s := { small.pushPc 0x8100 with lat.pcstkp := some 0 }
        s.lat.pcstkp = some 0 ∧ stepped s (fun t => t.stk.pcstkp == 0) = true)
      ∧ stepped { small.placeAtPc 0x100000020000 with env.id := 1, iop.sys.crbm := 2 }
        (fun t => t.pipe.pc == 0x8004) = true
      ∧ small.tr.stall = false ∧ (∃ t, small.conclude none small ⟨0, false⟩ = .next t)
      ∧ ∃ t, small.conclude none (stalled small .bus) ⟨0, false⟩ = .next t :=
  ⟨isNext_next (by decide +kernel), by decide +kernel, by decide +kernel, by decide +kernel,
    isNext_next (by decide +kernel), isNext_next (by decide +kernel)⟩

/-- A processor that is not bus master, and one that has the bus while ACK is low; HBR with and without SBTS; an empty and a
full EPB0, TX0_A and RX1_B; a channel right after a write of DEN, and right after a flush. -/
theorem witness_AccessesThatWait :
    (let s := { small with env.id := 1, iop.sys.crbm := 2 }
     s.completes false (place s.env.id 0x20000) = false ∧ place s.env.id 0x20000 = .ext 0x20000)
    ∧ { small with env.ack := false }.completes false (.ext 0x20000) = false
    ∧ (∀ r : Bool, let s := { small with
        env.id := 1, iop.sys.crbm := 1, iop.sys.bsyn := true, env.ack := false, iop.hid.coreWait := .ack r }
      s.pipe.mode ≠ .idle16 ∧ s.env.id ≠ 0 ∧ s.busMaster = true ∧ s.busLock = false ∧ s.dmaInBus = false
        ∧ s.env.sbts = false ∧ s.completes false .remote = false ∧ place s.env.id 0x208 = .remote
        ∧ s.iop.hid.coreWait = .ack r ∧ { s with iop.hid.coreWait := .cut r, env.sbts := true }.busMaster = true)
    ∧ (small.iop.ep false).unsure 0 = false ∧ (small.iop.ep false).unsure 13 = false
    ∧ ({ small with iop.ep0.dmacOld := 0x2000 }.iop.ep false).unsure 13 = true
    ∧ ({ small with iop.ep0.dmacPrev := 1 }.iop.ep false).unsure 0 = true
    ∧ small.bhd = false ∧ (small.iop.ep false).den = false ∧ (small.chan 8).run = false
    ∧ (small.iop.ep false).fifo = [] ∧ 6 ≤ ({ small with iop.ep0.fifo := List.replicate 6 0 }.iop.ep false).fifo.length
    ∧ ((small.iop.sport false).tx false).queue = [] ∧ ((small.iop.sport true).rx true).queue = []
    ∧ 2 ≤ (({ small with iop.sport0.txA.queue := [⟨1, 0⟩, ⟨2, 0⟩] }.iop.sport false).tx false).queue.length
    ∧ 2 ≤ (({ small with iop.sport1.rxB.queue := [⟨1, 0⟩, ⟨2, 0⟩] }.iop.sport true).rx true).queue.length := by decide +kernel

/-- A plain register, and bit 1 of IRPTL set and not set. -/
theorem witness_BitOperations :
    small.settable false (Sreg.ureg .astat) 0xFFFFFFFF = true ∧ small.settable false (Sreg.ureg .irptl) 0xFFFFFFFD = true
      ∧ (small.sregRead .irptl ||| 0x2).getLsbD 1 = true := by decide +kernel

/-- Push with pop; pops of empty stacks; pops of stacks with entries; pushes. -/
theorem witness_StackOperations :
    ((true && true) || (false && false) || (false && false)) = true
      ∧ ((false && true) || (false && true) || (false && true)) = false
      ∧ small.looping = false ∧ small.stk.status = [] ∧ small.pcEmpty = true
      ∧ (smallLoop 0xCF008006 5).looping = true ∧ smallService.stk.status ≠ [] ∧ smallService.pcEmpty = false
      ∧ after (stackInstr false true false false false true false) (smallLoop 0xCF008006 5)
        (fun t => !t.looping && t.pcEmpty) = true := by decide +kernel

/-- Outside and inside a delay slot; I6 at the last word of internal memory. -/
theorem witness_NopIdleAndFrames :
    small.pipe.slots = 0 ∧ { small with pipe.slots := 2 }.pipe.slots ≠ 0
      ∧ (let s := small.setDagReg .i false 6 0xDFFF; LoadOk s (.i 6) (place s.env.id (s.dagReg .i false 6))) :=
  ⟨by decide +kernel, by decide +kernel, loadOk_of_gives (by decide +kernel)⟩

/-- A disabled timer; one in PWMOUT mode below its period, and one at it. -/
theorem witness_TimerPulses :
    let s := { small with lat.mode2 := 0xA0, iop.timer0.enabled := true, iop.timer0.count := 1, iop.timer0.period := 2 }
    small.lat.mode2.getLsbD 5 = false ∧ (small.iop.timer false).enabled = false
      ∧ s.lat.mode2.getLsbD 5 = true ∧ s.lat.mode2.getLsbD 7 = true ∧ (s.iop.timer false).enabled = true
      ∧ (s.iop.timer false).count ≤ (s.iop.timer false).period ∧ (s.iop.timer false).count ≠ (s.iop.timer false).period
      ∧ (let t := { s with iop.timer0.count := 2 }; (t.iop.timer false).count = (t.iop.timer false).period) := by
  decide +kernel

/-- Channel 3 at the last word of block 1, with two words and with one left, without and with the offset of the
addresses. -/
theorem witness_SerialReceiveDma :
    let s := { small with
      iop.dma := small.iop.dma.set 3 { State.resetDma 1 with ii := 0x0DFFF, c := 2, run := true }
      iop.sport1.rxB.queue := [⟨0x12345678, 0⟩] }
    let one := { s with iop.dma := small.iop.dma.set 3 { State.resetDma 1 with ii := 0x08000, c := 1, run := true } }
    MemInv s ∧ (3 : Fin 10).val < 4 ∧ place 0 ((s.chan 3).ii.setWidth 32) = .normal true 0x1FFF ∧ s.imdw true = false
      ∧ (s.chan 3).c ≠ 1 ∧ MemInv one ∧ place 0 ((one.chan 3).ii.setWidth 32) = .normal false 0 ∧ one.imdw false = false
      ∧ (one.chan 3).c = 1 ∧ one.chen 3 = false ∧ ((s.dmaXfer 3).toBool = true)
      ∧ (let o := { one with env.dmaOffset := true, iop.dma := small.iop.dma.set 3 { State.resetDma 1 with c := 1, run := true } }
        place 0 (o.dmaAddr (o.chan 3).ii) = .normal false 0) :=
  ⟨⟨small_memInv.canonical, small_memInv.queued, small_memInv.short⟩, by decide +kernel, by decide +kernel,
    by decide +kernel, by decide +kernel, ⟨small_memInv.canonical, small_memInv.queued, small_memInv.short⟩,
    by decide +kernel, by decide +kernel, by decide +kernel, by decide +kernel, by decide +kernel, by decide +kernel⟩

end
end

section
/-! What a register move reads, and what a write of an address generator register leaves (10_state.md sections 2, 5 and
6). -/

namespace Sys2Proof.Machine

/-! ### Moves of a register to a data register, and immediate loads -/

theorem exec_uregUregMove (src : Ureg) (cond : BitVec 5) (dst : Ureg) (c : Compute) (s : State) :
    exec (.uregUregMove src cond dst c) s = execUregUregMove src cond dst c s := rfl

theorem exec_uregImm32 (u : Ureg) (v : BitVec 32) (s : State) : exec (.uregImm32 u v) s = execUregImm32 u v s := rfl

/-- A move to a data register does what the read of its source does: it stops where that stops, and else only the data
register changes. -/
theorem exec_move_to_r (s : State) (u : Ureg) (k : BitVec 4) :
    exec (.uregUregMove u 31 (.r k) .none) s = finish s ((s.uregRead u).map (s.setRreg k)) := by
  have hc : s.cond 31 = true := rfl
  have hn : s.noteCond 31 = s := rfl
  rw [exec_uregUregMove, execUregUregMove, given_true hc, hn]
  cases s.uregRead u <;> rfl

/-- The value of a register that can be read reaches the data register. -/
theorem move_completes {s : State} {u : Ureg} {v : BitVec 40} (h : s.uregRead u = .ok v) (k : BitVec 4) :
    Completes (.uregUregMove u 31 (.r k) .none) s fun t => t.rreg k = v :=
  ⟨s.setRreg k v, by rw [exec_move_to_r, h]; rfl, setRreg_rreg_same s k v⟩

theorem completes_uregImm32 {s t : State} {u : Ureg} {v : BitVec 32} {P : State → Prop}
    (h : s.uregWrite false u (bus32 v) = .ok t) (hP : P t) : Completes (.uregImm32 u v) s P :=
  ⟨t, by rw [exec_uregImm32, execUregImm32, h]; rfl, hP⟩

/-- The 32-bit value of a bus image. -/
@[simp] theorem extractLsb'_bus32 (v : BitVec 32) : (bus32 v).extractLsb' 8 32 = v :=
  BitVec.extractLsb'_append_eq_left

/-! ### Bus images -/

theorem setWidth24_eq (v : BitVec 24) : v.setWidth 32 = 0#8 ++ v := BitVec.setWidth_eq_append (by decide)

theorem setWidth16_eq (v : BitVec 16) : v.setWidth 32 = 0#16 ++ v := BitVec.setWidth_eq_append (by decide)

/-- A zero-extended value has none of the bits above its width. -/
theorem setWidth_and_high {w : Nat} (v : BitVec w) : v.setWidth 32 &&& BitVec.allOnes 32 <<< w = 0 := by
  apply BitVec.eq_of_getLsbD_eq
  intro i hi
  by_cases h : i < w
  · simp [h]
  · simp [BitVec.getLsbD_of_ge v i (by omega)]

/-- A bus image of a word without the bits `out` has none of them, nor any below the word. -/
theorem bus32_and_eq_zero {v out : BitVec 32} (h : v &&& out = 0) : bus32 v &&& (out ++ 0xFF#8) = 0 := by
  rw [bus32, BitVec.and_append, h]; rfl

/-- An unsettled value keeps to the bits of its register, if the settled one does. -/
theorem unsettled_and_eq_zero {s : State} {here : Bool} {bits out : BitVec 32} {v : BitVec 40} (h : bits &&& out = 0)
    (hv : v &&& (out ++ 0xFF#8) = 0) : s.unsettled here bits v &&& (out ++ 0xFF#8) = 0 := by
  cases here with
  | false => exact hv
  | true =>
    refine bus32_and_eq_zero ?_
    rw [BitVec.and_assoc, h]
    exact BitVec.and_zero

theorem unsettled_false (s : State) (bits : BitVec 32) (v : BitVec 40) : s.unsettled false bits v = v := rfl

/-! ### The set a register is read from (10_state.md R28, R30, R33) -/

theorem rreg_ofFin (s : State) (j : Fin 16) : s.rreg (BitVec.ofFin j) =
    if s.lat.mode1.getLsbD (if j.val < 8 then 10 else 7) then s.data.alternate.get j else s.data.primary.get j := by
  have hbit : ∀ j : Fin 16, (if (BitVec.ofFin j : BitVec 4).getLsbD 3 then 7 else 10) = if j.val < 8 then 10 else 7 := by
    decide
  rw [State.rreg, State.altData, hbit]

theorem acc_eq (s : State) : s.acc false = (if s.lat.mode1.getLsbD 2 then s.data.acc1 else s.data.acc0)
    ∧ s.acc true = (if s.lat.mode1.getLsbD 2 then s.data.acc0 else s.data.acc1) := by
  unfold State.acc State.accIndex
  cases s.lat.mode1.getLsbD 2 <;> exact ⟨rfl, rfl⟩

theorem dagReg_ofFin (s : State) (f : DagFile) (j : Fin 8) :
    s.dagReg f false (BitVec.ofFin j) =
        (if s.lat.mode1.getLsbD (if j.val < 4 then 4 else 3) then s.dag.dag1Alt.reg f (BitVec.ofFin j)
          else s.dag.dag1.reg f (BitVec.ofFin j))
      ∧ s.dagReg f true (BitVec.ofFin j) =
        (if s.lat.mode1.getLsbD (if j.val < 4 then 6 else 5) then s.dag.dag2Alt.reg f (BitVec.ofFin j)
          else s.dag.dag2.reg f (BitVec.ofFin j)).setWidth 32 := by
  have hbit : ∀ j : Fin 8, (BitVec.ofFin j : BitVec 3).getLsbD 2 = !decide (j.val < 4) := by decide
  unfold State.dagReg State.altDag
  rw [hbit]
  by_cases hj : j.val < 4 <;> simp only [hj, decide_true, decide_false, Bool.not_true, Bool.not_false, if_true, if_false]
  · cases s.lat.mode1.getLsbD 4 <;> cases s.lat.mode1.getLsbD 6 <;> exact ⟨rfl, rfl⟩
  · cases s.lat.mode1.getLsbD 3 <;> cases s.lat.mode1.getLsbD 5 <;> exact ⟨rfl, rfl⟩

/-! ### The stacks as registers (R38 to R45, R54) -/

theorem laddr_eq (s : State) : s.laddr = if s.stk.depth = 0 then 0xFFFFFFFF
    else s.stk.laddr.toList.getD (s.stk.depth.toNat - 1) 0 &&& 0xDFFFFFFF := by
  unfold State.laddr State.looping sixth
  by_cases h : s.stk.depth = 0
  · rw [if_pos h, if_neg (by rw [decide_eq_true_eq]; exact not_not.mpr h)]
  · rw [if_neg h, if_pos (decide_eq_true h)]

theorem curlcntr_eq (s : State) : s.curlcntr = if s.stk.depth = 0 then 0xFFFFFFFF
    else s.stk.count.toList.getD (s.stk.depth.toNat - 1) 0 := by
  unfold State.curlcntr State.looping sixth
  by_cases h : s.stk.depth = 0
  · rw [if_pos h, if_neg (by rw [decide_eq_true_eq]; exact not_not.mpr h)]
  · rw [if_neg h, if_pos (decide_eq_true h)]

/-- The stack flags of STKY are those of the stacks, the others its own. -/
theorem stkyView_getLsbD (s : State) {b : Nat} (hb : b < 32) : s.stkyView.getLsbD b =
    if b = 21 then decide (29 ≤ s.stk.pcstkp.toNat) else if b = 22 then decide (s.stk.pcstkp = 0)
    else if b = 24 then decide (s.stk.status = []) else if b = 26 then decide (s.stk.depth = 0)
    else s.sys.stky.getLsbD b := by
  simp only [State.stkyView, BitVec.getLsbD_or, BitVec.getLsbD_and, BitVec.getLsbD_not, getLsbD_ite_zero, hb,
    decide_true, Bool.true_and, List.isEmpty_iff]
  interval_cases b <;> simp

/-! ### The unsettled registers, outside of a short loop (R38 to R42, R54; assumption log 12) -/

theorem uregRead_pcstk {s : State} (h : s.stk.pcstkp ≠ 0) :
    s.uregRead .pcstk = .ok (s.unsettled s.inShortLoop 0x00FFFFFF (bus24 s.pcTop)) :=
  if_neg (by rw [State.pcEmpty, decide_eq_true_eq]; exact h)

theorem uregRead_pcstk_empty {s : State} (h : s.stk.pcstkp = 0) : s.uregRead .pcstk = refuse .emptyPcStack :=
  if_pos (decide_eq_true h)

theorem sregRead_stky {s : State} (h : s.inShortLoop = false) : s.sregRead .stky = s.stkyView :=
  if_neg (by rw [h]; exact Bool.false_ne_true)

end Sys2Proof.Machine

open Sys2Proof Sys2Proof.Machine

/-- Settles O42: a move to a data register delivers what `uregRead` answers, and that is the image of each register. -/
theorem registersAsTheyAreRead : Obligations.RegistersAsTheyAreRead := by
  intro s n k
  refine ⟨⟨rreg_ofFin s, (acc_eq s).1, (acc_eq s).2, fun j f => by cases f <;> exact dagReg_ofFin s _ j⟩, ?_⟩
  intro reads word addr g j
  have read : ∀ {u v}, s.uregRead u = .ok v → reads u v := fun h => move_completes h k
  have image24 (v : BitVec 24) : bus24 v = addr v := congrArg bus32 (setWidth24_eq v)
  have image16 (v : BitVec 16) : bus32 (v.setWidth 32) = 0#16 ++ v ++ 0#8 := congrArg bus32 (setWidth16_eq v)
  refine ⟨read rfl, read rfl, read rfl, read rfl, read rfl, image24 s.pipe.pc ▸ read rfl,
    image24 s.pipe.daddr ▸ read rfl, image24 s.pipe.faddr ▸ read rfl, read rfl, image16 _ ▸ read rfl, read rfl,
    read rfl, read rfl, read rfl, read rfl, read rfl, read rfl, read rfl, read rfl, fun h => ?_, fun h => ?_, ?_⟩
  · rw [exec_move_to_r, uregRead_pcstk_empty h]; rfl
  · refine ⟨_, read (uregRead_pcstk h), ?_, fun hl => ?_⟩
    · exact unsettled_and_eq_zero (out := 0xFF000000) (by decide) (bus32_and_eq_zero (setWidth_and_high s.pcTop))
    · rw [hl, unsettled_false, image24]; rfl
  · refine ⟨_, _, _, _, _, read rfl, read rfl, read rfl, read rfl, read rfl, ?_, fun hl => ?_⟩
    · exact unsettled_and_eq_zero (out := 0xFFFFFFE0) (by decide) (bus32_and_eq_zero (setWidth_and_high s.stk.pcstkp))
    · rw [hl, unsettled_false, unsettled_false, unsettled_false, laddr_eq, curlcntr_eq, sregRead_stky hl]
      refine ⟨rfl, rfl, rfl, fun hd => ?_, _, rfl, fun b hb => stkyView_getLsbD s hb⟩
      rw [decide_eq_false hd]; rfl

/-- Settles O43: the write of a register of an address generator, and of B with its I, is that of `setDagReg`. -/
theorem writingBWritesI : Obligations.WritingBWritesI := by
  intro s n k v g j w
  have other {f h : DagFile} (hf : h ≠ f) (u : State) (x : BitVec 32) : (u.setDagReg f g j x).dagReg h g j = u.dagReg h g j := by
    rw [setDagReg_dagReg, if_neg fun e => hf e.1]
  have same (f : DagFile) (u : State) : (u.setDagReg f g j v).dagReg f g j = w := by
    rw [setDagReg_dagReg, if_pos ⟨rfl, rfl, rfl⟩, dagTrunc]
  refine ⟨completes_uregImm32 rfl ?_, completes_uregImm32 rfl ?_, fun u hu => ?_⟩
  · rw [extractLsb'_bus32]
    exact ⟨(other (by decide) _ _).trans (same .b s), same .i _⟩
  · rw [extractLsb'_bus32]
    exact ⟨same .i s, other (by decide) _ _⟩
  · obtain ⟨x, hx⟩ : ∃ x, s.uregRead u = .ok x := by
      rcases List.mem_pair.mp hu with rfl | rfl <;> exact ⟨_, rfl⟩
    exact ⟨s.setRreg k x, by rw [exec_move_to_r, hx]; rfl, setRreg_dag ..⟩
end

section
/-! The I/O processor, the timers and the surroundings leave the core alone: what acts beside an instruction (60_exceptions.md
R699; 61_dma_extport.md R730) changes no register of the core but STKY, the latch of interrupts and the flag pins in ASTAT, and
it stops no step but by a fault or a refusal. -/

namespace Sys2Proof.Machine

/-! ### Results of operations that may not complete -/

/-- A result that completes has `P`, and the operation waits only if `waits`. -/
def Act.Ends {α : Type} (waits : Prop) (P : α → Prop) : Act α → Prop
  | .ok x => P x
  | .error (.stall _) => waits
  | .error _ => True

section Ends

variable {α β : Type} {waits : Prop} {P Q : α → Prop} {R : β → Prop} {a b : Act α}

@[simp] theorem Act.ends_ok {x : α} : Act.Ends waits P (.ok x) ↔ P x := Iff.rfl
@[simp] theorem Act.ends_refuse {r : Refusal} : Act.Ends waits P (refuse r) ↔ True := Iff.rfl
@[simp] theorem Act.ends_stall {w : Wait} : Act.Ends waits P (.error (.stall w)) ↔ waits := Iff.rfl

@[simp] theorem Act.ends_ite {c : Prop} [Decidable c] :
    Act.Ends waits P (if c then a else b) ↔ (c → a.Ends waits P) ∧ (¬c → b.Ends waits P) := by
  split <;> simp_all

theorem Act.Ends.of_ok (h : a.Ends waits P) {x : α} (e : a = .ok x) : P x := by subst e; exact h

theorem Act.Ends.not_stall (h : a.Ends False P) {w : Wait} (e : a = .error (.stall w)) : False := by subst e; exact h

theorem Act.Ends.mono (h : a.Ends waits P) (hPQ : ∀ x, P x → Q x) : a.Ends waits Q := by
  match a with
  | .ok x => exact hPQ x h
  | .error (.stall _) => exact h
  | .error (.fault _) => trivial
  | .error (.refuse _) => trivial

/-- An operation that does not wait is one that may. -/
theorem Act.Ends.mayWait (h : a.Ends False P) : a.Ends waits P := by
  match a with
  | .ok _ => exact h
  | .error (.stall _) => exact h.elim
  | .error (.fault _) => trivial
  | .error (.refuse _) => trivial

/-- Where waiting is answered apart, only faults and refusals go through. -/
theorem Act.ends_error {e : Stop} (h : ∀ w, e ≠ .stall w) : Act.Ends waits P (.error e) := by
  match e with
  | .stall w => exact absurd rfl (h w)
  | .fault _ => trivial
  | .refuse _ => trivial

/-- An error goes through unchanged. -/
theorem Act.Ends.error (h : a.Ends waits P) {e : Stop} (ha : a = .error e) : Act.Ends waits R (.error e : Act β) := by
  subst ha
  match e with
  | .stall _ => exact h
  | .fault _ => trivial
  | .refuse _ => trivial

theorem Act.Ends.bind {f : α → Act β} (h : a.Ends waits P) (hf : ∀ x, P x → (f x).Ends waits R) :
    (a >>= f).Ends waits R := by
  cases ha : a with
  | ok x => exact hf x (h.of_ok ha)
  | error e => exact h.error ha

end Ends

/-! ### The part of the state that is the core's -/

/-- What the I/O processor and the surroundings have no access to: the registers of the core but for STKY, the values in
effect, pipeline, stacks and cache, and the notes on the instruction. -/
structure CoreView where
  data : DataRegs
  dag : DagRegs
  sys : SysRegs
  lat : Latency
  pipe : Pipeline
  stk : Stacks
  cache : Vector CacheSet 16
  notes : Transient

/-- The core's part of a state. -/
def State.coreView (s : State) : CoreView where
  data := s.data
  dag := s.dag
  sys := { s.sys with stky := 0 }
  lat := s.lat
  pipe := s.pipe
  stk := s.stk
  cache := s.cache
  notes := { s.tr with requests := 0, syscon := none, reset := false, hardReset := false }

/-- The operation leaves the core alone and does not wait. -/
abbrev Act.Spares (s : State) (a : Act State) : Prop := a.Ends False fun t => t.coreView = s.coreView

/-- The same for one that may not have happened. -/
abbrev Act.SparesIf (s : State) (a : Act (Option State)) : Prop :=
  a.Ends False fun o => ∀ t ∈ o, t.coreView = s.coreView

@[simp] theorem coreView_update (s : State) (m : List Host.Cell) (w : List ShadowEntry) (p : Iop) (e : Env) (n : Nat) :
    State.coreView { s with mem := m, shadow := w, iop := p, env := e, free := n } = s.coreView := rfl

/-! ### Parts of the I/O processor -/

@[simp] theorem coreView_setEp (s : State) (x : Bool) (e : ExtPort) : (s.setEp x e).coreView = s.coreView := by
  cases x <;> rfl
@[simp] theorem coreView_setSport (s : State) (x : Bool) (p : Sport) : (s.setSport x p).coreView = s.coreView := by
  cases x <;> rfl
@[simp] theorem coreView_setTimer (s : State) (x : Bool) (t : Timer) : (s.setTimer x t).coreView = s.coreView := by
  cases x <;> rfl
@[simp] theorem coreView_setChan (s : State) (c : Fin 10) (d : DmaChannel) : (s.setChan c d).coreView = s.coreView := rfl
@[simp] theorem coreView_request (s : State) (k : Nat) : (s.request k).coreView = s.coreView := rfl
@[simp] theorem coreView_timerEvent (s : State) (x e : Bool) : (s.timerEvent x e).coreView = s.coreView := rfl
@[simp] theorem coreView_stopChan (s : State) (c : Fin 10) : (s.stopChan c).coreView = s.coreView := rfl
@[simp] theorem coreView_flushHost (s : State) : s.flushHost.coreView = s.coreView := rfl
@[simp] theorem coreView_extCount (s : State) (n : Nat) : (s.extCount n).coreView = s.coreView := rfl
@[simp] theorem coreView_resetPin (s : State) : s.resetPin.coreView = s.coreView := rfl

@[simp] theorem coreView_storeExt (s : State) (a : Nat) (v : BitVec 32) : (s.storeExt a v).coreView = s.coreView := by
  unfold State.storeExt; split <;> rfl
@[simp] theorem coreView_queueWrite (s : State) (w : Bool) (cs : List (Nat × BitVec 16)) :
    (s.queueWrite w cs).coreView = s.coreView := by
  rw [queueWrite_rest]; rfl

@[simp] theorem coreView_chanControl (s : State) (c : Fin 10) (den : Bool) : (s.chanControl c den).coreView = s.coreView := by
  simp only [State.chanControl]
  split_ifs <;> simp
@[simp] theorem coreView_chainStart (s : State) (c : Fin 10) : (s.chainStart c).coreView = s.coreView := by
  simp only [State.chainStart]
  split_ifs <;> simp
@[simp] theorem coreView_endOfSequence (s : State) (c : Fin 10) : (s.endOfSequence c).coreView = s.coreView := by
  simp only [State.endOfSequence]
  split_ifs <;> simp
@[simp] theorem coreView_endOfCount (s : State) (c : Fin 10) : (s.endOfCount c).coreView = s.coreView := by
  simp only [State.endOfCount]
  split_ifs <;> simp
@[simp] theorem coreView_setDmaParam (s : State) (c : Fin 10) (r : DmaParam) (v : BitVec 32) :
    (s.setDmaParam c r v).coreView = s.coreView := by
  cases r
  case im => simp only [State.setDmaParam]; split <;> simp
  all_goals simp [State.setDmaParam]
@[simp] theorem coreView_chanControls (old : State) (cs : List (Fin 10)) (s : State) :
    (s.chanControls old cs).coreView = s.coreView := by
  induction cs generalizing s with
  | nil => rfl
  | cons c cs ih => rw [State.chanControls, ih, coreView_chanControl]

/-! ### Accesses of the registers of the I/O processor (11_state_iop.md R121, R122) -/

@[simp] theorem coreView_flushChan (s : State) (x : Bool) : (s.flushChan x).coreView = s.coreView := by
  simp only [State.flushChan]
  split_ifs <;> simp
@[simp] theorem coreView_writeVirptOutside (s : State) (v : BitVec 32) :
    (s.writeVirptOutside v).coreView = s.coreView := by
  unfold State.writeVirptOutside; split <;> rfl

/-- A buffer may hold up the read of a register; nothing else of the core is concerned. -/
theorem readBuffer_spares (s : State) (x rx z : Bool) (site : Nat) :
    (s.readBuffer x rx z site).Ends True fun p => p.2.coreView = s.coreView := by
  simp only [State.readBuffer]
  split <;> split
  · exact coreView_setSport ..
  · next e h => cases e <;> trivial
  · exact coreView_setSport ..
  · next e h => cases e <;> trivial

theorem readEpb_spares (s : State) (x px : Bool) (site : Nat) :
    (s.readEpb x px site).Ends True fun p => p.2.coreView = s.coreView := by
  simp only [State.readEpb, Act.ends_ite, Act.ends_refuse, implies_true, true_and]
  intro _ _
  split <;> simp

theorem readReg_spares (s : State) (px : Bool) (r : BitVec 8) (site : Nat) :
    (s.readReg px r site).Ends True fun p => p.2.coreView = s.coreView := by
  simp only [State.readReg]
  generalize iopRegAt r = g
  cases g
  case epb x => exact readEpb_spares s x px site
  case buffer x rx z =>
    dsimp only
    split
    · next v t h => exact (readBuffer_spares s x rx z site).of_ok h
    · next e h => exact (readBuffer_spares s x rx z site).error h
  all_goals rfl

theorem writeBuffer_spares (s : State) (x rx z : Bool) (w : BitVec 32) :
    (s.writeBuffer x rx z w).Ends True fun t => t.coreView = s.coreView := by
  simp only [State.writeBuffer]
  split <;> split
  · exact coreView_setSport ..
  · next e h => cases e <;> trivial
  · exact coreView_setSport ..
  · next e h => cases e <;> trivial

theorem writeEpb_spares (s : State) (x px : Bool) (w : BitVec 48) :
    (s.writeEpb x px w).Ends True fun t => t.coreView = s.coreView := by
  simp [State.writeEpb]

theorem writeSyscon_spares (s : State) (outside : Bool) (v : BitVec 32) : (s.writeSyscon outside v).Spares s := by
  simp only [State.writeSyscon, Act.ends_ite, Act.ends_refuse, Act.ends_ok, implies_true, true_and]
  exact fun _ => rfl

theorem writeDmac_spares (s : State) (x : Bool) (v : BitVec 16) : (s.writeDmac x v).Spares s := by
  simp only [State.writeDmac, Act.ends_ite, Act.ends_refuse, Act.ends_ok, implies_true, true_and]
  intro _ _ _
  split <;> simp

theorem writeTimer_spares (s : State) (x : Bool) (r : TimerReg) (v : BitVec 32) : (s.writeTimer x r v).Spares s := by
  cases r <;> simp [State.writeTimer]

theorem sportControl_spares (s : State) (x : Bool) (p : Sport) : (s.sportControl x p).Spares s := by
  simp [State.sportControl]

theorem writeSport_spares (s : State) (x : Bool) (r : SportReg) (v : BitVec 32) : (s.writeSport x r v).Spares s := by
  cases r
  case stctl => exact sportControl_spares ..
  case srctl => exact sportControl_spares ..
  all_goals exact coreView_setSport ..

theorem writeParam_spares (s : State) (c : Fin 10) (p : DmaParam) (v : BitVec 32) : (s.writeParam c p v).Spares s := by
  cases p <;> simp [State.writeParam]

theorem writeReg_spares (s : State) (outside px : Bool) (r : BitVec 8) (w : BitVec 48) :
    (s.writeReg outside px r w).Ends True fun t => t.coreView = s.coreView := by
  simp only [State.writeReg]
  generalize iopRegAt r = g
  cases g
  case syscon => exact (writeSyscon_spares ..).mayWait
  case virpt => cases outside <;> simp
  case epb => exact writeEpb_spares ..
  case dmac => exact (writeDmac_spares ..).mayWait
  case timer => exact (writeTimer_spares ..).mayWait
  case dma => exact (writeParam_spares ..).mayWait
  case sport => exact (writeSport_spares ..).mayWait
  case buffer => exact writeBuffer_spares ..
  all_goals rfl

/-! ### The timers (60_exceptions.md R694 to R699) -/

theorem tickPwm_spares (s : State) (x : Bool) : (s.tickPwm x).Spares s := by
  simp [State.tickPwm]

@[simp] theorem coreView_tickWidth (s : State) (x : Bool) : (s.tickWidth x).coreView = s.coreView := by
  simp only [State.tickWidth]
  split_ifs <;> simp

theorem tick_spares (s : State) (x : Bool) : (s.tick x).Spares s := by
  have h := tickPwm_spares s x
  simp [State.tick, h]

theorem ticks_spares (n : Nat) (s : State) : (s.ticks n).Spares s := by
  induction n generalizing s with
  | zero => rfl
  | succ n ih =>
    refine (tick_spares s false).bind fun t ht => (tick_spares t true).bind fun u hu => ?_
    exact (ih _).mono fun v hv => hv.trans (hu.trans ht)

/-! ### Actions of the I/O processor (61_dma_extport.md R735 to R749) -/

@[simp] theorem coreView_ioWrite (s : State) (p : Place) (width : Nat) (w : BitVec 48) :
    (s.ioWrite p width w).coreView = s.coreView := by
  unfold State.ioWrite
  split
  · split_ifs <;> simp
  · rfl
@[simp] theorem coreView_popBuffer (s : State) (c : Fin 10) : (s.popBuffer c).2.coreView = s.coreView := by
  simp only [State.popBuffer]; split <;> simp
@[simp] theorem coreView_pushBuffer (s : State) (c : Fin 10) (w : BitVec 48) : (s.pushBuffer c w).coreView = s.coreView := by
  simp only [State.pushBuffer]; split <;> simp
@[simp] theorem coreView_dmaAdvance (s : State) (c : Fin 10) : (s.dmaAdvance c).coreView = s.coreView := by
  simp only [State.dmaAdvance]; split_ifs <;> simp

theorem dmaXfer_spares (s : State) (c : Fin 10) : (s.dmaXfer c).Spares s := by
  simp [State.dmaXfer]

@[simp] theorem coreView_tcbLoad (s : State) (c : Fin 10) (k : Nat) : (s.tcbLoad c k).coreView = s.coreView := by
  simp only [State.tcbLoad]
  split
  · rfl
  · split_ifs <;> simp

theorem feedEpb_spares {s t : State} {host x : Bool} {w : BitVec 48} (h : s.feedEpb host x w = some t) :
    t.coreView = s.coreView := by
  simp only [State.feedEpb] at h
  split_ifs at h <;> cases h <;> simp

/-- A flush that may still be to come only refuses. -/
theorem outsideFlush_ends (s : State) (x : Bool) : (s.outsideFlush x).Ends False fun _ => True := by
  simp [State.outsideFlush]

theorem swfDrain_spares (s : State) : s.swfDrain.SparesIf s := by
  unfold State.swfDrain
  split
  · simp
  · next host r d rest _ =>
    dsimp only
    split
    · exact (outsideFlush_ends s _).bind fun _ _ => fun t ht => by simpa using feedEpb_spares ht
    · have hw := writeReg_spares { s with iop.hid.swf := rest } true false r d
      split
      · next t ht => simpa using hw.of_ok ht
      · simp
      · next hne _ => exact Act.ends_error hne

@[simp] theorem coreView_extDmaWrite (s : State) (boot : Bool) (a w : BitVec 32) :
    (s.extDmaWrite boot a w).coreView = s.coreView := by
  unfold State.extDmaWrite; split_ifs <;> simp
@[simp] theorem coreView_extCounted (s : State) (x last : Bool) : (s.extCounted x last).coreView = s.coreView := by
  unfold State.extCounted; split_ifs <;> simp
@[simp] theorem coreView_rotate (s : State) (c : Fin 10) : (s.rotate c).coreView = s.coreView := by
  unfold State.rotate; split_ifs <;> rfl

theorem extDevice_spares (s : State) (x : Bool) : (s.extDevice x).Spares s := by
  simp only [State.extDevice, Act.ends_ite, Act.ends_refuse, Act.ends_ok, implies_true, true_and]
  intro _
  split <;> simp

theorem extMaster_spares (s : State) (x : Bool) : (s.extMaster x).Spares s := by
  simp only [State.extMaster, Act.ends_ite, Act.ends_refuse, Act.ends_ok, implies_true, true_and]
  refine ⟨fun _ _ => ?_, fun _ => by simp⟩
  split <;> simp

theorem extGrant_spares (s : State) (x : Bool) : (s.extGrant x).Spares s := by
  simp only [State.extGrant, Act.ends_ite, Act.ends_refuse, Act.ends_ok, implies_true, true_and]
  refine ⟨fun _ _ => ?_, fun _ => by simp⟩
  split <;> simp

theorem extXfer_spares (s : State) (x : Bool) : (s.extXfer x).Spares s := by
  have counted {a : Act State} (h : a.Spares s) :
      (a >>= fun t => .ok { t.extCount 1 with iop.hid.dmaHeld := false }).Spares s :=
    h.bind fun t ht => by simpa using ht
  unfold State.extXfer
  dsimp only
  split_ifs
  · exact counted (extDevice_spares s x)
  · exact counted (extMaster_spares s x)
  · exact counted (extGrant_spares s x)

theorem busAction_spares (s : State) : s.busAction.SparesIf s := by
  unfold State.busAction
  split
  · simp
  split
  · exact (dmaXfer_spares s _).bind fun t ht => by simpa using ht
  split
  · simp
  refine (swfDrain_spares s).bind fun o ho => ?_
  split
  · exact ho
  split
  · exact (dmaXfer_spares s _).bind fun t ht => by simpa using ht
  · simp

theorem extAction_spares (s : State) : s.extAction.SparesIf s := by
  simp only [State.extAction, Act.ends_ite, Act.ends_ok]
  refine ⟨fun _ => by simp, fun _ => ⟨fun _ => by simp, fun _ => ⟨fun _ => by simp, fun _ => ?_⟩⟩⟩
  exact (extXfer_spares s _).bind fun t ht => by simpa using ht

/-- What is left of an operation that may not have happened. -/
theorem coreView_getD {s : State} {o : Option State} (h : ∀ t ∈ o, t.coreView = s.coreView) :
    (o.getD s).coreView = s.coreView := by
  cases o with
  | none => rfl
  | some t => exact h t rfl

theorem actions_spares (n : Nat) (s : State) : (s.actions n).Spares s := by
  induction n generalizing s with
  | zero => rfl
  | succ n ih =>
    simp only [State.actions, Act.ends_ite, Act.ends_refuse, implies_true, true_and]
    intro _
    refine (busAction_spares s).bind fun o ho => (extAction_spares _).bind fun p hp => ?_
    exact (ih _).mono fun v hv => hv.trans ((coreView_getD hp).trans (coreView_getD ho))

/-! ### Events (61_dma_extport.md sections 6 and 7) -/

@[simp] theorem coreView_hostPart (s : State) (r : BitVec 8) (w : Bool) (es : List (BitVec 32)) :
    (s.hostPart r w es).coreView = s.coreView := rfl
@[simp] theorem coreView_hbwAfterRead (s : State) : s.hbwAfterRead.coreView = s.coreView := by
  unfold State.hbwAfterRead; split <;> rfl
@[simp] theorem coreView_flushReadBack (s : State) (r : BitVec 8) : (s.flushReadBack r).coreView = s.coreView := by
  unfold State.flushReadBack; split <;> rfl
@[simp] theorem coreView_busRequest (s : State) (core : Bool) : (s.busRequest core).coreView = s.coreView := by
  unfold State.busRequest; split <;> rfl
@[simp] theorem coreView_busWithdraw (s : State) : s.busWithdraw.coreView = s.coreView := rfl
@[simp] theorem coreView_busSync (s : State) (m : BitVec 2) : (s.busSync m).coreView = s.coreView := by
  simp only [State.busSync]; split_ifs <;> rfl
@[simp] theorem coreView_deviceWord (s : State) (a d : BitVec 32) : (s.deviceWord a d).coreView = s.coreView := by
  unfold State.deviceWord; split <;> rfl
@[simp] theorem coreView_arbitrate (s : State) : s.arbitrate.coreView = s.coreView := by
  unfold State.arbitrate; split_ifs <;> rfl

theorem swfPush_spares {s t : State} {host : Bool} {r : BitVec 8} {d : BitVec 48} (h : s.swfPush host r d = some t) :
    t.coreView = s.coreView := by
  unfold State.swfPush at h
  split at h <;> cases h
  rfl

theorem procWrite_spares {s t : State} {r : BitVec 8} {d : BitVec 32} (h : s.procWrite r d = some t) :
    t.coreView = s.coreView := by
  unfold State.procWrite at h
  split_ifs at h
  · cases h; rfl
  · exact swfPush_spares h

theorem driveEpb_spares {s t : State} {x : Bool} {k : Packing} (h : s.driveEpb x k = some t) :
    t.coreView = s.coreView := by
  unfold State.driveEpb at h
  split at h
  · cases h; simp
  · split at h <;> cases h
    rfl

theorem driveReg_spares (s : State) (r : BitVec 8) : (s.driveReg r).SparesIf s := by
  have hr := readReg_spares s false r 24
  unfold State.driveReg
  split
  · next w t h => simpa using hr.of_ok h
  · simp
  · next hne _ => exact Act.ends_error hne

theorem procRead_spares (s : State) (r : BitVec 8) : (s.procRead r).SparesIf s := by
  unfold State.procRead
  split_ifs
  · simp
  · simp
  · split
    · exact (outsideFlush_ends s _).bind fun _ _ => fun t ht => driveEpb_spares ht
    · exact driveReg_spares s r

theorem hostToEpb_spares {s t : State} {r : BitVec 8} {k : Packing} {d : BitVec 32} (h : s.hostToEpb r k d = some t) :
    t.coreView = s.coreView := by
  simp only [State.hostToEpb] at h
  split at h
  · cases h; rfl
  · simpa using swfPush_spares h

theorem hostFromEpb_spares {s t : State} {r : BitVec 8} {x : Bool} {k : Packing} (h : s.hostFromEpb r x k = some t) :
    t.coreView = s.coreView := by
  simp only [State.hostFromEpb] at h
  split at h <;> cases h
  simp

/-- A host access goes on, is held or is refused. -/
theorem hostGate_ends (s : State) (r : BitVec 8) (w : Bool) : (s.hostGate r w).Ends False fun _ => True := by
  simp [State.hostGate]

theorem hostPacking_ends (s : State) (x : Bool) : (s.hostPacking x).Ends False fun _ => True := by
  simp [State.hostPacking]

theorem hostWrite_spares (s : State) (r : BitVec 8) (d : BitVec 32) : (s.hostWrite r d).SparesIf s := by
  rw [State.hostWrite, Act.SparesIf, ← coreView_flushReadBack s r]
  generalize s.flushReadBack r = s
  have hg := hostGate_ends s r true
  dsimp only
  split
  · next e h => exact hg.error h
  · simp
  split
  · exact (outsideFlush_ends s _).bind fun _ _ => (hostPacking_ends s _).bind fun k _ => fun t ht => hostToEpb_spares ht
  · split
    · simp
    · split
      · trivial
      · exact fun t ht => by simpa using swfPush_spares ht

theorem hostRead_spares (s : State) (r : BitVec 8) : (s.hostRead r).SparesIf s := by
  have hg := hostGate_ends s r false
  unfold State.hostRead
  split
  · next e h => exact hg.error h
  · simp
  split
  · simp
  split
  · exact (outsideFlush_ends s _).bind fun _ _ => (hostPacking_ends s _).bind fun k _ => fun t ht => hostFromEpb_spares ht
  · dsimp only
    split
    · simp
    · refine (driveReg_spares s r).bind fun o ho => ?_
      split
      · simp
      · simpa using ho _ rfl

theorem hostBus_spares (s : State) (on : Bool) : (s.hostBus on).SparesIf s := by
  simp [State.hostBus]

theorem busRelease_spares {s t : State} (h : s.busRelease = some t) : t.coreView = s.coreView := by
  unfold State.busRelease at h
  split_ifs at h <;> cases h <;> rfl

theorem dmaRequest_spares (s : State) (x : Bool) (d : BitVec 32) : (s.dmaRequest x d).Spares s := by
  simp [State.dmaRequest]

theorem extStore_spares {s t : State} {a d : BitVec 32} (h : s.extStore a d = some t) : t.coreView = s.coreView := by
  unfold State.extStore at h
  split_ifs at h <;> cases h <;> simp

theorem event_spares (s : State) (e : ExtEvent) : (s.event e).SparesIf s := by
  simp only [State.event, Act.ends_ite, Act.ends_refuse, implies_true, true_and]
  intro _
  cases e
  case procWrite => exact fun t ht => procWrite_spares ht
  case procRead => exact procRead_spares s _
  case hostWrite => exact hostWrite_spares s _ _
  case hostRead => exact hostRead_spares s _
  case hostBus => exact hostBus_spares s _
  case busRelease => exact fun t ht => busRelease_spares ht
  case dmaRequest => exact (dmaRequest_spares s _ _).bind fun t ht => by simpa using ht
  case extStore => exact fun t ht => extStore_spares ht
  case sdramOn => dsimp only; split <;> simp
  all_goals simp

theorem eventsFrom_spares (es held : List ExtEvent) (s : State) : (s.eventsFrom held es).Spares s := by
  induction es generalizing held s with
  | nil => simp [State.eventsFrom]
  | cons e es ih =>
    rw [State.eventsFrom]
    split
    · exact ih _ _
    · refine (event_spares s e).bind fun o ho => ?_
      split
      · exact ih _ _
      · next t => exact (ih held _).mono fun v hv => hv.trans (ho t rfl)

/-! ### What goes on by itself -/

@[simp] theorem coreView_elapse (s : State) : s.elapse.coreView = s.coreView := by
  simp only [State.elapse]; split <;> rfl

/-! ### Beside a step (60_exceptions.md R699; assumption log 8) -/

theorem others_spares (s : State) : s.others.Spares s :=
  (actions_spares _ s).bind fun _ ht => (eventsFrom_spares _ _ _).mono fun _ hu => hu.trans ht

theorem ahead_spares (s : State) : s.ahead.Spares s := by
  simp [State.ahead, others_spares]

/-- At the end of a step the flag pins show in ASTAT besides. -/
theorem beside_ends (s : State) (longer : Bool) :
    (s.beside longer).Ends False fun t => t.coreView = { s.coreView with sys := t.coreView.sys } := by
  have sampled (t : State) (ht : t.coreView = s.coreView) : Act.Ends False
      (fun u => u.coreView = { s.coreView with sys := u.coreView.sys })
      (if t.pipe.mode = .idle16 && t.handsOver then refuse .idle16Activity
        else .ok { t with env.script := t.env.script.tail }.arbitrate.sample) := by
    simp only [Act.ends_ite, Act.ends_refuse, Act.ends_ok, implies_true, true_and]
    intro _
    have ha := (coreView_arbitrate { t with env.script := t.env.script.tail }).trans ht
    generalize State.arbitrate _ = u at ha
    rw [← ha]; rfl
  refine (ticks_spares _ s).bind fun t ht => ?_
  dsimp only
  split
  · exact sampled t ht
  · exact (others_spares t).bind fun u hu => sampled u (hu.trans ht)

end Sys2Proof.Machine
end

section
/-! When a step of the core is over: what was written takes effect one step later (10_state.md R24), and a step that waits
makes nothing take effect. -/

namespace Sys2Proof.Machine

/-! ### The sequencer keeps the notes on the instruction (60_exceptions.md R720) -/

theorem loopCount_tr (u s : State) (l : LoopStep) : (u.loopCount s l).tr = u.tr := by
  cases l <;> simp only [State.loopCount, State.dropPc, State.dropLoop] <;> split_ifs <;> rfl

theorem enterLoop_tr (u s : State) : (u.enterLoop s).tr = u.tr := by
  unfold State.enterLoop State.redecode
  split
  · rfl
  · split_ifs <;> rfl

theorem settleShort_tr (u s : State) : (u.settleShort s).tr = u.tr := by
  simp only [State.settleShort, State.redecode]
  split_ifs <;> rfl

/-- An interrupt entry may ask for another interrupt, as stacks that are full do. -/
theorem takeInterrupt_notes (u : State) (k : Nat) (v : BitVec 24) :
    (u.takeInterrupt k v).coreView.notes = u.coreView.notes := by
  simp [State.coreView]

theorem sequence_notes (s u : State) (f : Fetched) : (s.sequence u f).coreView.notes = u.coreView.notes := by
  have counted : (if s.startsHere u then { u with pipe.lrf := s.pipe.lrf } else u.loopCount s (s.loopDecision u)).tr = u.tr := by
    split
    · rfl
    · exact loopCount_tr ..
  have notes {x y : State} (h : x.tr = y.tr) : x.coreView.notes = y.coreView.notes := by unfold State.coreView; rw [h]
  rw [← notes counted]
  simp only [State.sequence]
  generalize ite (s.startsHere u = true) _ _ = x
  split
  · exact takeInterrupt_notes ..
  · refine notes ?_
    split
    · rfl
    · split
      · rw [settleShort_tr, enterLoop_tr]; rfl
      · rfl
      · rfl

/-! ### The end of a step -/

/-- The chip was reset: nothing waits to take effect, and ASTAT shows the flag pins (70_reset_and_hazards.md R901; D8). -/
def ResetShown (t : State) : Prop :=
  t.lat = { State.resetLatency with astat := t.sys.astat } ∧ t.sys.astat = flagPins t.env.flags

/-- The step from `s` to `t` waited: nothing took effect but a write of SYSCON from outside, and `m` notes the bus master
by which the condition of the instruction was evaluated (30_encoding.md R286). -/
structure Waited (s t : State) (m : Option Bool) : Prop where
  lat : t.lat = { s.lat with syscon := t.lat.syscon, master := m }
  data : t.data = s.data
  dag : t.dag = s.dag
  stk : t.stk = s.stk
  pipe : t.pipe = s.pipe
  cache : t.cache = s.cache

/-- The step from `s` to `t` is over, with the notes of `u`: what was written before it has taken effect, what its
instruction wrote has not (10_state.md R24, R38). -/
structure Settled (s u t : State) : Prop where
  mode1 : t.lat.mode1 = s.sys.mode1
  mode2 : t.lat.mode2 = s.sys.mode2
  master : t.lat.master = none
  pcstkp : t.lat.pcstkp = u.tr.pcstkp
  pointer : ∀ v, s.lat.pcstkp = some v → t.stk.pcstkp = v
  imaskp : t.lat.imaskp = if u.tr.imaskpWritten then s.sys.imaskp else t.sys.imaskp
  astat : t.lat.astat = if u.tr.astatWritten then s.sys.astat else t.sys.astat

/-- A step that ends with a reset. -/
theorem close_reset {s : State} (h : s.tr.reset = true) : ResetShown s.close := by
  unfold State.close
  dsimp only
  rw [if_pos h]
  exact ⟨rfl, rfl⟩

/-- A step that does not. -/
theorem close_plain {s : State} (h : ¬s.tr.reset = true) : s.close = { s with free := s.free + 1 }.fresh := by
  unfold State.close
  dsimp only
  rw [if_neg h]

theorem waitStep_ends (s : State) (w : Wait) (m : Option Bool) :
    (s.waitStep w m).Ends False fun t => Waited s t m ∨ ResetShown t := by
  unfold State.waitStep
  refine (beside_ends _ true).bind fun t ht => ?_
  replace ht : t.coreView = { s.coreView with sys := t.coreView.sys } := by
    rw [ht]; split <;> rfl
  have hv := coreView_elapse ({ t with lat.syscon := t.sysconLatency s.lat.syscon, lat.master := m }.latch s false)
  generalize State.elapse _ = x at hv
  by_cases hr : x.tr.reset = true
  · exact .inr (close_reset hr)
  · rw [Act.ends_ok, close_plain hr]
    have lat : x.lat = _ := congrArg CoreView.lat hv
    have slat : t.lat = s.lat := congrArg CoreView.lat ht
    refine .inl ⟨?_, ?_, ?_, ?_, ?_, ?_⟩
    · show x.lat = { s.lat with syscon := x.lat.syscon, master := m }
      rw [lat, ← slat]; rfl
    · exact (congrArg CoreView.data hv).trans (congrArg CoreView.data ht)
    · exact (congrArg CoreView.dag hv).trans (congrArg CoreView.dag ht)
    · exact (congrArg CoreView.stk hv).trans (congrArg CoreView.stk ht)
    · exact (congrArg CoreView.pipe hv).trans (congrArg CoreView.pipe ht)
    · exact (congrArg CoreView.cache hv).trans (congrArg CoreView.cache ht)

theorem fullStep_ends (s : State) (i : Option Instr) (u : State) (f : Fetched) :
    (s.fullStep i u f).Ends False fun t => Settled s u t ∨ ResetShown t := by
  unfold State.fullStep
  refine (beside_ends _ _).bind fun t ht => ?_
  have notes : t.coreView.notes = u.coreView.notes := (congrArg CoreView.notes ht).trans (sequence_notes s u f)
  have pcstkp : t.tr.pcstkp = u.tr.pcstkp := congrArg (·.pcstkp) notes
  have imaskpWritten : t.tr.imaskpWritten = u.tr.imaskpWritten := congrArg (·.imaskpWritten) notes
  have astatWritten : t.tr.astatWritten = u.tr.astatWritten := congrArg (·.astatWritten) notes
  have hv := coreView_elapse (((t.latch s true).settleLatency s).noteLoads s i)
  generalize State.elapse _ = x at hv
  by_cases hr : x.tr.reset = true
  · exact .inr (close_reset hr)
  · rw [Act.ends_ok, close_plain hr]
    have lat : x.lat = _ := congrArg CoreView.lat hv
    have imaskp : x.sys.imaskp = t.sys.imaskp := congrArg (·.sys.imaskp) hv
    have astat : x.sys.astat = t.sys.astat := congrArg (·.sys.astat) hv
    refine .inl ⟨congrArg (·.mode1) lat, congrArg (·.mode2) lat, congrArg (·.master) lat, ?_, fun v h => ?_, ?_, ?_⟩
    · exact (congrArg (·.pcstkp) lat).trans pcstkp
    · exact (congrArg (·.stk.pcstkp) hv).trans (congrArg (Option.getD · _) h)
    · show x.lat.imaskp = _
      rw [fresh_sys, ← imaskpWritten, imaskp]
      exact congrArg (·.imaskp) lat
    · show x.lat.astat = _
      rw [fresh_sys, ← astatWritten, astat]
      exact congrArg (·.astat) lat

/-- The outcome of an operation that does not wait. -/
theorem Act.Ends.finish_next {s t : State} {a : Act State} {P : State → Prop} (h : a.Ends False P)
    (e : finish s a = .next t) : P t := by
  match a with
  | .ok x => cases e; exact h
  | .error (.stall _) => exact h.elim
  | .error (.fault _) => cases e
  | .error (.refuse _) => cases e

theorem conclude_next {s u t : State} {i : Option Instr} {f : Fetched} (h : s.conclude i u f = .next t) :
    (if u.tr.stall then Waited s t (some s.condMaster) else Settled s u t) ∨ ResetShown t := by
  unfold State.conclude at h
  split at h
  · next hs => rw [if_pos hs]; exact (waitStep_ends ..).finish_next h
  · next hs =>
    rw [if_neg hs]
    split at h
    · cases h
    · exact (fullStep_ends ..).finish_next h

/-- What a step of the core can do: run its instruction to the end, wait, or reset the chip. -/
theorem coreStep_next {s t : State} (h : s.coreStep = .next t) :
    (∃ u, Settled s u t) ∨ (∃ m, Waited s t m) ∨ ResetShown t := by
  have concluded {i u f} (h : s.conclude i u f = .next t) : (∃ u, Settled s u t) ∨ (∃ m, Waited s t m) ∨ ResetShown t := by
    rcases conclude_next h with hc | hc
    · split at hc
      · exact .inr (.inl ⟨_, hc⟩)
      · exact .inl ⟨_, hc⟩
    · exact .inr (.inr hc)
  unfold State.coreStep at h
  split at h
  · exact .inr (((waitStep_ends ..).finish_next h).imp_left fun hw => ⟨_, hw⟩)
  · cases h
  · cases h
  · split at h
    · exact concluded h
    · split at h
      · exact concluded h
      · cases h
      · cases h

/-- A step of the machine is one of the core, on a state whose core is as it was when the step began. -/
theorem step_next {s t : State} (h : step s = .next t) : ∃ x : State, x.coreStep = .next t ∧ x.coreView = s.fresh.coreView := by
  have ha := ahead_spares s.fresh
  unfold step State.cycle at h
  split at h
  · cases h
  · split at h
    · next x hx => exact ⟨x, h, ha.of_ok hx⟩
    · next w hw => exact (ha.not_stall hw).elim
    · cases h
    · cases h

end Sys2Proof.Machine

open Sys2Proof Sys2Proof.Machine

/-- Settles O54: what acts beside the instruction leaves the core alone, so that the values in effect change only at the end
of a step that ran (`Settled`) or in a reset. -/
theorem modesTakeEffectOneStepLater : Obligations.ModesTakeEffectOneStepLater := by
  refine ⟨fun s t h => ?_, fun s u t i f h => (conclude_next h).imp_left fun hc => ?_⟩
  · obtain ⟨x, hx, hv⟩ := step_next h
    have lat : x.lat = s.lat := congrArg CoreView.lat hv
    have sys : { x.sys with stky := 0 } = { s.sys with stky := 0 } := congrArg CoreView.sys hv
    rcases coreStep_next hx with ⟨u, hu⟩ | ⟨m, hm⟩ | hr
    · refine .inl ⟨hu.mode1.trans (congrArg (·.mode1) sys), hu.mode2.trans (congrArg (·.mode2) sys), ?_, ?_, ?_⟩
      · exact (ite_eq_or_eq ..).imp (fun e => (hu.imaskp.trans e).trans (congrArg (·.imaskp) sys)) hu.imaskp.trans
      · exact (ite_eq_or_eq ..).imp (fun e => (hu.astat.trans e).trans (congrArg (·.astat) sys)) hu.astat.trans
      · rw [← lat]; exact hu.pointer
    · refine .inr (.inl ⟨?_, hm.data.trans (congrArg CoreView.data hv), hm.dag.trans (congrArg CoreView.dag hv),
        hm.stk.trans (congrArg CoreView.stk hv), hm.pipe.trans (congrArg CoreView.pipe hv),
        hm.cache.trans (congrArg CoreView.cache hv)⟩)
      rw [← lat, hm.lat]
    · exact .inr (.inr hr)
  · split at hc
    · next hs => rw [if_pos hs, hc.lat]; rfl
    · next hs =>
      rw [if_neg hs]
      exact ⟨hc.mode1, hc.mode2, hc.master, hc.pcstkp, hc.pointer, hc.imaskp, hc.astat⟩
end

section
/-! A store: the access first, then the operation beside it, then the index update (40_compute_move.md R350, R357;
42_immediate_move.md R421 to R423). -/

namespace Sys2Proof.Machine

/-! ### The moves between registers and memory -/

theorem exec_uregMemMoveM (up : Bool) (i m : BitVec 3) (cond : BitVec 5) (g d : Bool) (r : Ureg) (c : Compute) (s : State) :
    exec (.uregMemMoveM up i m cond g d r c) s = execUregMemMoveM up i m cond g d r c s := rfl

theorem exec_dregMemMoveImm6 (i : BitVec 3) (g d up : Bool) (cond : BitVec 5) (data : BitVec 6) (n : BitVec 4) (c : Compute)
    (s : State) :
    exec (.dregMemMoveImm6 i g d up cond data n c) s = execDregMemMoveImm6 i g d up cond data n c s := rfl

theorem exec_uregMemDirect (g d : Bool) (r : Ureg) (a : BitVec 32) (s : State) :
    exec (.uregMemDirect g d r a) s = execUregMemDirect g d r a s := rfl

theorem exec_uregMemImm32 (g : Bool) (i : BitVec 3) (d : Bool) (r : Ureg) (data : BitVec 32) (s : State) :
    exec (.uregMemImm32 g i d r data) s = execUregMemImm32 g i d r data s := rfl

theorem exec_memImm32Store (i m : BitVec 3) (g : Bool) (data : BitVec 32) (s : State) :
    exec (.memImm32Store i m g data) s = execMemImm32Store i m g data s := rfl

/-- An instruction completes with what its operation answers. -/
theorem completes_of_finish {i : Instr} {s : State} {a : Act State} {P : State → Prop} (hi : exec i s = finish s a)
    (h : ∃ t, a = .ok t ∧ P t) : Completes i s P := by
  obtain ⟨t, rfl, hP⟩ := h
  exact ⟨t, hi, hP⟩

/-! ### Transfers that store -/

/-- The note of a condition leaves the address of an access as it is. -/
theorem noteCond_indexAddr (s : State) (cond : BitVec 5) (up g : Bool) (i : BitVec 3) (mv : BitVec 32) :
    (s.noteCond cond).indexAddr up g i mv = s.indexAddr up g i mv := by
  cases up with
  | false => exact noteCond_premodify s cond g i mv
  | true => exact noteCond_postAddr s cond g i

/-- A store at an address, with an operation beside it and no index update. -/
theorem transfer_storeDone {s : State} (h : MemInv s) {g : Bool} {r : Ureg} {a : BitVec 32} {w : BitVec 48} {c : State → State}
    {par : State → State → Prop} (hc : ∀ x, par x (c x)) (hw : s.storeImage r = .ok w)
    (ok : StoreOk s g (decide (r = .px)) (place s.env.id a) w) (i : BitVec 3) (mv : BitVec 32) :
    ∃ t, s.transfer g true r a c id = .ok t ∧ StoreDone s t g (decide (r = .px)) (place s.env.id a) w par false i mv := by
  obtain ⟨x, hx, hs⟩ := transfer_store h c id hw ok
  exact ⟨c x, hx, x, c x, hs, hc x, rfl⟩

/-- A store through an index register, with an operation beside it. -/
theorem indexed_storeDone {s : State} (h : MemInv s) {up g : Bool} {r : Ureg} {i : BitVec 3} {mv : BitVec 32} {w : BitVec 48}
    {c : State → State} {par : State → State → Prop} (hc : ∀ x, par x (c x)) (hw : s.storeImage r = .ok w)
    (ok : StoreOk s g (decide (r = .px)) (place s.env.id (s.indexAddr up g i mv)) w) :
    ∃ t, s.indexed up g true r i mv c = .ok t
      ∧ StoreDone s t g (decide (r = .px)) (place s.env.id (s.indexAddr up g i mv)) w par up i mv := by
  cases up with
  | false => exact transfer_storeDone h hc hw ok i mv
  | true =>
    obtain ⟨x, hx, hs⟩ := transfer_store h c (·.postmodify g i mv) hw ok
    exact ⟨_, hx, x, c x, hs, hc x, postmodify_updated (c x) g i mv⟩

/-- The same under a condition that holds: the address and the value stored are those before its note. -/
theorem noteCond_indexed_storeDone {s : State} (h : MemInv s) (cond : BitVec 5) {up g : Bool} {r : Ureg} {i : BitVec 3}
    {mv : BitVec 32} {w : BitVec 48} (c : Compute) (hw : s.storeImage r = .ok w)
    (ok : StoreOk (s.noteCond cond) g (decide (r = .px)) (place s.env.id (s.indexAddr up g i mv)) w) :
    ∃ t, (s.noteCond cond).indexed up g true r i mv (·.compute c) = .ok t
      ∧ StoreDone (s.noteCond cond) t g (decide (r = .px)) (place s.env.id (s.indexAddr up g i mv)) w (Computed c) up i mv := by
  rw [← noteCond_env s cond, ← noteCond_indexAddr s cond] at ok ⊢
  exact indexed_storeDone (h.noteCond cond) (compute_computed · c) ((noteCond_storeImage s cond r).trans hw) ok

/-! ### Types 3, 4 and 16 -/

theorem uregMemMoveM_sameDag {s : State} {cond : BitVec 5} {g : Bool} {r : Ureg} (hs : s.cond cond = true)
    (hr : uregInDag r g = true) (up : Bool) (i m : BitVec 3) (c : Compute) :
    exec (.uregMemMoveM up i m cond g true r c) s = .refused .sameDagTransfer := by
  rw [exec_uregMemMoveM, execUregMemMoveM, givenAccess_true hs, hr]
  rfl

theorem uregMemMoveM_store {s : State} {cond : BitVec 5} {g : Bool} {r : Ureg} (hs : s.cond cond = true)
    (hr : uregInDag r g = false) (up : Bool) (i m : BitVec 3) (c : Compute) :
    exec (.uregMemMoveM up i m cond g true r c) s =
      finish s ((s.noteCond cond).indexed up g true r i (s.dagReg .m g m) (·.compute c)) := by
  rw [exec_uregMemMoveM, execUregMemMoveM, givenAccess_true hs, hr, noteCond_dagReg]
  rfl

theorem dregMemMoveImm6_given {s : State} {cond : BitVec 5} (hs : s.cond cond = true) (i : BitVec 3) (g d up : Bool)
    (data : BitVec 6) (n : BitVec 4) (c : Compute) :
    exec (.dregMemMoveImm6 i g d up cond data n c) s =
      finish s ((s.noteCond cond).indexed up g d (.r n) i (imm6 data) (·.compute c)) := by
  rw [exec_dregMemMoveImm6, execDregMemMoveImm6, givenAccess_true hs]

/-- Type 16 updates its index register after what its store left. -/
theorem memImm32Store_completes {s x : State} {i : BitVec 3} {g : Bool} {data : BitVec 32} {P : State → Prop}
    (hx : s.storeImm g (s.postAddr g i) data = .ok x) (m : BitVec 3) (hP : P (x.postmodify g i (s.dagReg .m g m))) :
    Completes (.memImm32Store i m g data) s P :=
  ⟨_, by rw [exec_memImm32Store, execMemImm32Store, hx]; rfl, hP⟩

end Sys2Proof.Machine

open Sys2Proof Sys2Proof.Machine

/-- Settles O39: each of the five forms is a store that completes (`store_stored`), with its operation and its index update
after it; a register of the DAG that forms the address is refused before the access. -/
theorem stores : Obligations.Stores := by
  intro s hm
  refine ⟨fun cond g up i m r c hs => ⟨fun hr => ?_, fun w hr hw ok => ?_⟩, fun cond g up i data n c hs => ?_,
    fun g r a w hw => ?_, fun g d i r data => ⟨fun hr => ?_, fun w hr hw => ?_⟩, fun i m g data => ⟨fun reach ok => ?_, ?_⟩⟩
  · exact uregMemMoveM_sameDag hs hr up i m c
  · exact completes_of_finish (uregMemMoveM_store hs hr up i m c) (noteCond_indexed_storeDone hm cond c hw ok)
  · intro _ _ _ ok
    exact completes_of_finish (dregMemMoveImm6_given hs i g true up data n c)
      (noteCond_indexed_storeDone hm cond c (storeImage_r s n) ok)
  · intro _ ok
    exact completes_of_finish (exec_uregMemDirect g true r a s) (transfer_storeDone hm (fun _ => rfl) hw ok 0 0)
  · exact (exec_uregMemImm32 g i d r data s).trans (if_pos hr)
  · intro _ ok
    have he : exec (.uregMemImm32 g i true r data) s = finish s (s.transfer g true r (s.premodify g i data) id id) :=
      (exec_uregMemImm32 g i true r data s).trans (if_neg (by rw [hr]; exact Bool.false_ne_true))
    exact completes_of_finish he (transfer_storeDone hm (fun _ => rfl) hw ok i data)
  · obtain ⟨x, hx, stored⟩ := store_stored hm ok
    exact memImm32Store_completes ((storeImm_eq g data reach).trans hx) m ⟨x, x, stored, rfl, postmodify_updated x g i _⟩
  · intro k hp off
    exact memImm32Store_completes (storeImm_iop g data hp off) m (postmodify_updated s g i _)
end

section
/-! Address generation: what leaves an address generator, bit by bit, and where the circular wrap leaves an index (20_memory.md
R240 to R246; 43_misc.md R441, R442). -/

namespace Sys2Proof.Machine

/-! ### The bits of what an address generator keeps and sends (20_memory.md R240, R245) -/

theorem dagTrunc_true (v : BitVec 32) : dagTrunc true v = (v.setWidth 24).setWidth 32 := (dagTrunc_two v).symm

theorem dagTrunc_getLsbD (g : Bool) (v : BitVec 32) {b : Nat} (hb : b < 32) :
    (dagTrunc g v).getLsbD b = if g then decide (b < 24) && v.getLsbD b else v.getLsbD b := by
  cases g with
  | false => rfl
  | true => simp [dagTrunc_true, hb]

theorem reverse_getLsbD {w : Nat} (v : BitVec w) {b : Nat} (hb : b < w) : v.reverse.getLsbD b = v.getLsbD (w - 1 - b) := by
  rw [BitVec.getLsbD_reverse, BitVec.getMsbD_eq_getLsbD, decide_eq_true hb, Bool.true_and]

theorem dagReverse_getLsbD (g : Bool) (v : BitVec 32) {b : Nat} (hb : b < 32) :
    (dagReverse g v).getLsbD b = if g then decide (b < 24) && v.getLsbD (23 - b) else v.getLsbD (31 - b) := by
  cases g with
  | false => exact reverse_getLsbD v hb
  | true =>
    simp only [dagReverse, if_true, BitVec.getLsbD_setWidth, hb, decide_true, Bool.true_and]
    by_cases h : b < 24
    · rw [reverse_getLsbD _ h, BitVec.getLsbD_setWidth, decide_eq_true h, decide_eq_true (by omega)]
    · rw [BitVec.getLsbD_of_ge _ _ (Nat.not_lt.mp h), decide_eq_false h, Bool.false_and]

/-- Only the bits of the width of the address generator are reversed. -/
theorem dagReverse_dagTrunc (g : Bool) (v : BitVec 32) : dagReverse g (dagTrunc g v) = dagReverse g v := by
  cases g with
  | false => rfl
  | true => simp [dagReverse, dagTrunc_true]

theorem dagTrunc_dagReverse (g : Bool) (v : BitVec 32) : dagTrunc g (dagReverse g v) = dagReverse g v := by
  cases g with
  | false => rfl
  | true => simp [dagReverse, dagTrunc_true]

/-- A register holds no more bits than its address generator has. -/
theorem dagTrunc_dagReg (s : State) (f : DagFile) (g : Bool) (k : BitVec 3) :
    dagTrunc g (s.dagReg f g k) = s.dagReg f g k := by
  cases g with
  | false => rfl
  | true => cases h : s.altDag true k <;> simp [State.dagReg, dagTrunc_true, h]

/-- The address that leaves an address generator, bit by bit. -/
theorem addrOut_getLsbD (s : State) (g : Bool) (k : BitVec 3) (a : BitVec 32) {b : Nat} (hb : b < 32) :
    (s.addrOut g k (dagTrunc g a)).getLsbD b =
      if g then decide (b < 24) && a.getLsbD (if k = 0 ∧ s.lat.mode1.getLsbD (if g then 0 else 1) = true then 23 - b else b)
      else a.getLsbD (if k = 0 ∧ s.lat.mode1.getLsbD (if g then 0 else 1) = true then 31 - b else b) := by
  unfold State.addrOut
  by_cases h : k = 0 ∧ s.lat.mode1.getLsbD (if g then 0 else 1) = true
  · simp only [if_pos h, dagReverse_dagTrunc, dagReverse_getLsbD g a hb]
  · simp only [if_neg h, dagTrunc_getLsbD g a hb]

/-! ### Sums in the width of an address generator (92_eei_decisions.md D32) -/

theorem dagTrunc_ofInt (r : Int) : dagTrunc true (BitVec.ofInt 32 r) = (BitVec.ofInt 24 r).setWidth 32 := by
  have h : (BitVec.ofInt 32 r).setWidth 24 = BitVec.ofInt 24 r := by
    apply BitVec.eq_of_toNat_eq
    simp only [BitVec.toNat_setWidth, BitVec.toNat_ofInt]
    omega
  rw [dagTrunc_true, h]

/-- The exact sum of index and modifier, cut to the width, is the sum of the two words. -/
theorem dagTrunc_ofInt_add (g : Bool) (i m : BitVec 32) :
    dagTrunc g (BitVec.ofInt 32 (i.toNat + dagSigned g m)) = dagTrunc g (i + m) := by
  cases g with
  | false => simp [dagTrunc, dagSigned, BitVec.ofInt_add]
  | true =>
    rw [dagTrunc_ofInt, dagSigned, if_pos rfl, BitVec.ofInt_add, BitVec.ofInt_toInt, BitVec.ofInt_natCast,
      BitVec.ofNat_toNat, dagTrunc_true, BitVec.setWidth_add i m (by decide)]

/-- A value that fits the width is kept as it is. -/
theorem toNat_dagTrunc_ofInt {g : Bool} {r : Int} (h0 : 0 ≤ r) (h : r < if g then 2 ^ 24 else 2 ^ 32) :
    ((dagTrunc g (BitVec.ofInt 32 r)).toNat : Int) = r := by
  cases g with
  | false => simp [dagTrunc] at h ⊢; omega
  | true => rw [dagTrunc_ofInt]; simp at h ⊢; omega

/-! ### The circular wrap (20_memory.md R243, R244) -/

/-- Without a buffer the new index is the sum (R242). -/
theorem wrap_linear (g : Bool) (i m b : BitVec 32) : wrap g i (dagSigned g m) b 0 = dagTrunc g (i + m) :=
  dagTrunc_ofInt_add g i m

/-- From a buffer and with a modifier shorter than it, the new index is one in the buffer that differs from the sum by nothing or
by one length. -/
theorem wrap_in_buffer {g : Bool} {i b l : BitVec 32} {mv : Int} (hb : b.toNat ≤ i.toNat)
    (hi : i.toNat < b.toNat + l.toNat) (hm : |mv| < l.toNat) :
    ∃ r : Int, wrap g i mv b l = dagTrunc g (BitVec.ofInt 32 r) ∧ (b.toNat : Int) ≤ r ∧ r < b.toNat + l.toNat
      ∧ r ∈ [(i.toNat : Int) + mv, i.toNat + mv - l.toNat, i.toNat + mv + l.toNat] := by
  have hl : l ≠ 0 := by rintro rfl; simp at hi; omega
  obtain ⟨lo, up⟩ := abs_lt.mp hm
  refine ⟨_, rfl, ?_⟩
  simp only [hl, if_false, List.mem_cons, List.not_mem_nil, or_false]
  split_ifs <;> omega

theorem wraps_iff (i : BitVec 32) (mv : Int) (b l : BitVec 32) :
    wraps i mv b l = true ↔ (mv < 0 ∧ (i.toNat : Int) + mv < b.toNat)
      ∨ (0 ≤ mv ∧ (b.toNat : Int) + l.toNat ≤ i.toNat + mv) := by
  unfold wraps
  by_cases h : mv < 0
  · simp [h, Int.not_le.mpr h]
  · simp [h, Int.not_lt.mp h]

/-! ### Types 7 and 19 -/

theorem exec_modify (g : Bool) (cond : BitVec 5) (k m : BitVec 3) (c : Compute) (s : State) :
    exec (.modify g cond k m c) s = execModify g cond k m c s := rfl

theorem exec_modifyImm (g : Bool) (k : BitVec 3) (data : BitVec 32) (s : State) :
    exec (.modifyImm g k data) s = finish s (.ok (s.postmodify g k data)) := rfl

theorem exec_bitrevImm (g : Bool) (k : BitVec 3) (data : BitVec 32) (s : State) : exec (.bitrevImm g k data) s =
    finish s (.ok (s.setDagReg .i g k (dagReverse g (dagTrunc g (s.dagReg .i g k + data))))) := rfl

/-- Type 7 with a condition that holds: the compute operation, then the update by the modifier as it was. -/
theorem modify_given {s : State} {cond : BitVec 5} (hs : s.cond cond = true) (g : Bool) (k m : BitVec 3) (c : Compute) :
    exec (.modify g cond k m c) s = finish s (.ok (((s.noteCond cond).compute c).postmodify g k (s.dagReg .m g m))) := by
  rw [exec_modify, execModify, given_true hs, noteCond_dagReg]

end Sys2Proof.Machine

open Sys2Proof Sys2Proof.Machine

/-- Settles O44: the bits of an address are those of `addrOut_getLsbD`; Type 7 and MODIFY are postmodifies, BITREV a write of one
index register; `wrap_in_buffer` keeps the index in its buffer. -/
theorem indexRegisterUpdates : Obligations.IndexRegisterUpdates := by
  intro s g k
  refine ⟨⟨fun b hb => ?_, fun m b hb => addrOut_getLsbD s g k _ hb⟩, fun cond m c hs => ?_, fun data => ⟨?_, ?_⟩,
    fun i m b l mv hmv => ⟨fun hl => ?_, fun hb hi hm hw => ?_, wraps_iff i mv b l⟩⟩
  · rw [← addrOut_getLsbD s g k _ hb, dagTrunc_dagReg]; rfl
  · exact completes_of_finish (modify_given hs g k m c)
      ⟨_, rfl, _, compute_computed (s.noteCond cond) c, postmodify_updated _ g k _⟩
  · exact completes_of_finish (exec_modifyImm g k data s) ⟨_, rfl, postmodify_updated s g k data⟩
  · refine completes_of_finish (exec_bitrevImm g k data s) ⟨_, rfl, _, setDagReg_written s .i g k _, fun b hb => ?_⟩
    rw [dagReverse_dagTrunc, dagTrunc_dagReverse, dagReverse_getLsbD g _ hb]
  · subst hl hmv; exact wrap_linear g i m b
  · obtain ⟨r, hr, lo, above, hmem⟩ := wrap_in_buffer hb hi hm
    have value : ((wrap g i mv b l).toNat : Int) = r := by
      rw [hr]; exact toNat_dagTrunc_ofInt (by omega) (by cases g <;> simp at hw ⊢ <;> omega)
    exact ⟨by omega, by omega, value ▸ hmem⟩
end

section
/-! DO UNTIL: what it puts on the loop stacks and the PC stack, and where it may not stand (41_program_flow.md R394, R395,
R400). -/

namespace Sys2Proof.Machine

theorem exec_lcntrImmDo (data : BitVec 16) (len : BitVec 24) (s : State) :
    exec (.lcntrImmDo data len) s = finish s (s.startLoop len 15 (counterType len) (data.setWidth 32)) := rfl

theorem exec_lcntrUregDo {s : State} {u : Ureg} {v : BitVec 40} (hv : s.uregRead u = .ok v) (len : BitVec 24) :
    exec (.lcntrUregDo u len) s = finish s (s.startLoop len 15 (counterType len) (v.extractLsb' 8 32)) := by
  have h : exec (.lcntrUregDo u len) s = execLcntrUregDo u len s := rfl
  rw [h, execLcntrUregDo, hv]

theorem exec_doUntil (term : BitVec 5) (len : BitVec 24) (s : State) : exec (.doUntil term len) s =
    finish s (s.startLoop len term (if term = 15 then counterType len else 0) (sixth s.stk.count s.stk.depth.toNat)) := rfl

/-- From `s` to `t` a loop was started that ends `len` after the instruction and begins right after it. -/
def LoopStarted (s t : State) (len : BitVec 24) (code : BitVec 5) (type : BitVec 2) (count : BitVec 32) : Prop :=
  ∃ x y, LoopPushed s x (type ++ 0#1 ++ code ++ (s.pipe.pc + len)) count (some (s.pipe.pc + 1))
    ∧ PcPushed x y (s.pipe.pc + 1)
    ∧ t = if s.stk.depth.toNat < 6 then { y with tr.loopStarted := some (s.pipe.pc + len, type) } else y

section StartLoop

variable {s : State} {len : BitVec 24} {code : BitVec 5} {type : BitVec 2} {count : BitVec 32}

theorem startLoop_started (slots : s.pipe.slots = 0) (ahead : 0 < len.toInt)
    (other : s.looping = true → s.loopEnd ≠ s.pipe.pc + len) :
    ∃ t, s.startLoop len code type count = .ok t ∧ LoopStarted s t len code type count := by
  have end_ok : (decide (len.toInt ≤ 0) || (s.looping && decide (s.loopEnd = s.pipe.pc + len))) = false := by
    simpa [ahead] using other
  refine ⟨_, ?_, _, _, pushLoop_pushed .., pushPc_pushed .., rfl⟩
  simp [State.startLoop, slots, end_ok]

theorem startLoop_inSlot (slots : s.pipe.slots ≠ 0) : s.startLoop len code type count = refuse .delaySlot := if_pos slots

theorem startLoop_badEnd (slots : s.pipe.slots = 0) (bad : len.toInt ≤ 0 ∨ s.looping = true ∧ s.loopEnd = s.pipe.pc + len) :
    s.startLoop len code type count = refuse .loopEnd := by
  have end_bad : (decide (len.toInt ≤ 0) || (s.looping && decide (s.loopEnd = s.pipe.pc + len))) = true := by
    simpa using bad
  simp [State.startLoop, slots, end_bad]

/-- An instruction that starts a loop does so, or is refused where it may not stand. -/
theorem starts_of_startLoop {i : Instr} (hi : exec i s = finish s (s.startLoop len code type count)) :
    (s.pipe.slots = 0 → 0 < len.toInt → (s.looping = true → s.loopEnd ≠ s.pipe.pc + len) →
        Completes i s fun t => LoopStarted s t len code type count)
      ∧ (s.pipe.slots ≠ 0 → exec i s = .refused .delaySlot)
      ∧ (s.pipe.slots = 0 → (len.toInt ≤ 0 ∨ s.looping = true ∧ s.loopEnd = s.pipe.pc + len) →
        exec i s = .refused .loopEnd) := by
  refine ⟨fun slots ahead other => completes_of_finish hi (startLoop_started slots ahead other), fun slots => ?_,
    fun slots bad => ?_⟩
  · rw [hi, startLoop_inSlot slots]; rfl
  · rw [hi, startLoop_badEnd slots bad]; rfl

end StartLoop

end Sys2Proof.Machine

open Sys2Proof Sys2Proof.Machine

/-- Settles O49: Types 12 and 13 are `startLoop` with the count that each names. -/
theorem loopsStart : Obligations.LoopsStart := by
  intro s len
  exact ⟨fun data => starts_of_startLoop (exec_lcntrImmDo data len s),
    fun u v hv => starts_of_startLoop (exec_lcntrUregDo hv len),
    fun term => starts_of_startLoop (exec_doUntil term len s)⟩
end

section
/-! Between instructions: which steps are refused at the end of a loop, and what the sequencer fetches next
(41_program_flow.md R381, R393, R396 to R400). -/

namespace Sys2Proof.Machine

/-! ### The loop test -/

/-- Whether the current loop is a short one is read from the loop address stack alone. -/
theorem shortLoop_congr {s t : State} (hd : t.stk.depth = s.stk.depth) (ha : t.stk.laddr = s.stk.laddr) :
    t.shortLoop = s.shortLoop := by
  unfold State.shortLoop State.loopType State.laddr State.looping
  rw [hd, ha]

theorem startsHere_none {s u : State} (h : u.tr.loopStarted = none) : s.startsHere u = false := by
  simp [State.startsHere, h]

theorem loopDecision_none {s u : State} (h : u.tr.loopStarted = none) : s.loopDecision u = s.loopStep := by
  simp [State.loopDecision, startsHere_none h]

theorem loopStep_no_loop {s : State} (hl : s.looping = false) : s.loopStep = .pass := by
  simp [State.loopStep, hl]

/-- A long loop is left alone while its end is not fetched. -/
theorem loopStep_elsewhere {s : State} (hs : s.shortLoop = false) (h : s.looping = false ∨ s.pipe.faddr ≠ s.loopEnd) :
    s.loopStep = .pass := by
  rcases h with hl | hf
  · exact loopStep_no_loop hl
  · simp [State.loopStep, hs, hf]

/-- What a running step does that fetches the end of a long loop. -/
theorem loopStep_at_end {s : State} (hm : s.pipe.mode = .running) (hl : s.looping = true) (hs : s.shortLoop = false)
    (hf : s.pipe.faddr = s.loopEnd) : s.loopStep =
      if s.pipe.lrf || (s.loneLoop && !s.endExecutes) then .reenter
      else if s.term (s.laddr.extractLsb' 24 5) then .exit else .again := by
  simp [State.loopStep, hm, hl, hs, hf]

/-- A loop of one instruction that is not counted, in a step that does not execute it. -/
theorem betweenPasses_iff {s : State} (hl : s.looping = true) : (s.loneLoop && !s.endExecutes) = true ↔
    s.loopType = 0 ∧ s.pcTop = s.loopEnd ∧ ¬(s.pipe.killP = false ∧ s.pipe.pc = s.loopEnd) := by
  simp only [State.loneLoop, State.endExecutes, hl, Bool.true_and, Bool.and_eq_true, decide_eq_true_eq, Bool.not_eq_true',
    Bool.and_eq_false_iff, decide_eq_false_iff_not, Bool.not_eq_false', and_assoc, not_and_or, Bool.not_eq_false]

/-- When a long loop ends. -/
theorem loopStep_ends {s : State} (hm : s.pipe.mode = .running) (hl : s.looping = true) (hs : s.shortLoop = false)
    (hf : s.pipe.faddr = s.loopEnd) (lrf : s.pipe.lrf = false)
    (tested : ¬(s.loopType = 0 ∧ s.pcTop = s.loopEnd ∧ ¬(s.pipe.killP = false ∧ s.pipe.pc = s.loopEnd)))
    (ht : s.term (s.laddr.extractLsb' 24 5) = true) : s.loopStep = .exit := by
  rw [← betweenPasses_iff hl] at tested
  exact loopStep_exit_iff.mpr ⟨hm, hl, hs, hf, lrf, fun lone => by simpa [lone] using tested, ht⟩

/-! ### The bookkeeping of the loop test -/

/-- A loop decision changes nothing but the stacks. -/
theorem loopCount_frame (u s : State) (l : LoopStep) : u.loopCount s l = { u with stk := (u.loopCount s l).stk } := by
  cases l <;> simp only [State.loopCount, State.dropPc, State.dropLoop] <;> split_ifs <;> rfl

/-- CURLCNTR is the entry of the count. -/
theorem curlcntr_written {s : State} (hl : s.looping = true) :
    SixthWritten s.stk.count s.stk.count (s.stk.depth.toNat - 1) s.curlcntr := by
  intro j _
  rw [State.curlcntr, if_pos hl]
  split
  · next h => rw [h]
  · rfl

/-- A pass that does not end the loop changes no stack but the entry of the count, which keeps its value in a loop that is
not counted. -/
theorem loopCount_again {s u : State} (hl : s.looping = true) (hu : u.stk = s.stk) :
    ∃ c v, (u.loopCount s .again).stk = { s.stk with count := c }
      ∧ SixthWritten s.stk.count c (s.stk.depth.toNat - 1) v
      ∧ (s.loopType = 0 → v = s.curlcntr)
      ∧ (s.loopType ≠ 0 → u.tr.countWritten = false → v = s.curlcntr - 1) := by
  by_cases h0 : s.loopType = 0
  · refine ⟨s.stk.count, s.curlcntr, ?_, curlcntr_written hl, fun _ => rfl, fun h => absurd h0 h⟩
    rw [State.loopCount, if_pos h0, hu]
  · refine ⟨_, s.countAfter u, ?_, setSixth_written _ _ _, fun h => absurd h h0, fun _ hw => countAfter_unwritten hw⟩
    rw [State.loopCount, if_neg h0, hu]

/-- Without a push since, the top entry of the loop stacks goes. -/
theorem dropLoop_top {s u : State} (hl : s.looping = true) (hu : u.stk.depth = s.stk.depth) :
    u.dropLoop s = { u with stk.depth := s.stk.depth - 1 } := by
  have hd : ¬s.stk.depth = 0 := by simpa [State.looping] using hl
  rw [State.dropLoop, hu, if_neg (BitVec.lt_irrefl _), if_neg hd]

/-- So does that of the PC stack, if there is one. -/
theorem dropPc_top {s u : State} (hu : u.stk.pcstkp = s.stk.pcstkp) :
    u.dropPc s = { u with stk.pcstkp := if s.stk.pcstkp = 0 then 0 else s.stk.pcstkp - 1 } := by
  rw [State.dropPc, hu, if_neg fun h => BitVec.lt_irrefl _ h.1]
  split
  · next h => rw [← h, ← hu]
  · rfl

/-- The end of a loop pops the stacks of both kinds, where the instruction has left them alone. -/
theorem loopCount_exit {s u : State} (hl : s.looping = true) (hu : u.stk = s.stk) : (u.loopCount s .exit).stk =
    { s.stk with depth := s.stk.depth - 1, pcstkp := if s.stk.pcstkp = 0 then 0 else s.stk.pcstkp - 1 } := by
  rw [State.loopCount, dropLoop_top hl (by rw [hu]), dropPc_top (by rw [hu]), hu]

/-! ### The next fetch address -/

/-- From `s` to `t` the pipeline advanced by one and fetches at `nf` next; `kill` when the two instructions behind do not
execute. -/
def Advanced (s t : State) (nf : BitVec 24) (kill : Bool) : Prop :=
  t.pipe.pc = s.pipe.daddr ∧ t.pipe.daddr = s.pipe.faddr ∧ t.pipe.faddr = nf
    ∧ t.pipe.killP = (s.pipe.killD || kill) ∧ t.pipe.killD = kill

theorem settleShort_long {s u : State} (h : u.shortLoop = false) : u.settleShort s = u := by
  simp [State.settleShort, h]

theorem enterLoop_none {s u : State} (h : u.tr.loopStarted = none) : u.enterLoop s = u := by
  simp [State.enterLoop, h]

theorem loopCount_mode (u s : State) (l : LoopStep) : (u.loopCount s l).pipe.mode = u.pipe.mode := by
  rw [loopCount_frame]

/-- A step that branches takes no interrupt. -/
theorem heldOff_branch (s : State) : s.heldOff true = true := by simp [State.heldOff]

section Sequence

variable {s u : State} {f : Fetched} (running : u.pipe.mode = .running) (started : u.tr.loopStarted = none)
include running started

/-- A branch decides the fetch; a nondelayed one kills the two instructions behind it, those behind a delayed one stand in
its delay slots. -/
theorem sequence_branch {a : BitVec 24} {delayed : Bool}
    (hb : u.tr.branch = if delayed then .delayed a else .nondelayed a) :
    Advanced s (s.sequence u f) a (!delayed) ∧ (s.sequence u f).pipe.slots = if delayed then 2 else 0 := by
  cases delayed <;>
    simp only [State.sequence, startsHere_none started, Bool.false_eq_true, if_false, loopCount_tr, hb, ne_eq, reduceCtorEq,
      not_false_eq_true, decide_true, heldOff_branch, if_true, loopCount_mode, running, not_true_eq_false] <;>
    exact ⟨⟨rfl, rfl, rfl, rfl, rfl⟩, trivial⟩

variable (hb : u.tr.branch = .none) (hk : s.selected = none ∨ s.pipe.holdoff ≠ 0)
include hb hk

/-- Without a branch and an interrupt the loop test says what is fetched and what becomes of the stacks, unless the next
instruction stands in a short loop. -/
theorem sequence_straight {l : LoopStep} (hl : s.loopStep = l) (long : l ≠ .shortExit)
    (next : (u.loopCount s l).shortLoop = false) :
    Advanced s (s.sequence u f) (s.nextFetch l) false ∧ (s.sequence u f).stk = (u.loopCount s l).stk := by
  have no_interrupt : (if s.heldOff false then none else s.selected) = none := by
    rcases hk with hk | hk
    · rw [hk, ite_self]
    · simp only [State.heldOff, hk, ne_eq, not_false_eq_true, decide_true, Bool.true_or, if_true]
  have no_overhead (x : State) : s.shortOverhead x l = false := by simp [State.shortOverhead, long]
  simp only [State.sequence, startsHere_none started, loopDecision_none started, hl, Bool.false_eq_true, if_false,
    loopCount_tr, hb, no_overhead, ne_eq, not_true_eq_false, decide_false, no_interrupt, loopCount_mode, running]
  rw [enterLoop_none (by exact started),
    settleShort_long ((shortLoop_congr (s := u.loopCount s l) (by exact rfl) (by exact rfl)).trans next)]
  exact ⟨⟨rfl, rfl, rfl, rfl, rfl⟩, rfl⟩

/-- Back to the top, without the re-entry flag: in a loop that is not counted the bookkeeping is the same whether the step
executes its only instruction or not. -/
theorem sequence_again (hl : s.looping = true) (hs : s.shortLoop = false)
    (back : s.loopStep = .reenter ∧ s.loopType = 0 ∨ s.loopStep = .again) (hu : u.stk = s.stk) :
    Advanced s (s.sequence u f) s.pcTop false ∧ (s.sequence u f).stk = (u.loopCount s .again).stk := by
  have next : (u.loopCount s .again).shortLoop = false := by
    obtain ⟨c, v, hc, -⟩ := loopCount_again hl hu
    rw [← hs]
    exact shortLoop_congr (by rw [hc]) (by rw [hc])
  rcases back with ⟨reenter, h0⟩ | again
  · have same : u.loopCount s .again = u.loopCount s .reenter := if_pos h0
    rw [same] at next ⊢
    exact sequence_straight running started hb hk reenter (by simp) next
  · exact sequence_straight running started hb hk again (by simp) next

end Sequence

/-! ### The steps that are refused at the end of a loop (41_program_flow.md R393, R400) -/

section Refusals

variable {s u : State} {i : Option Instr} {f : Fetched}

theorem conclude_refused {r : Refusal} (hs : u.tr.stall = false) (h : s.stepRefusal u i f = some r) :
    s.conclude i u f = .refused r := by
  simp [State.conclude, hs, h]

theorem conclude_runs (hs : u.tr.stall = false) (h : s.stepRefusal u i f = none) :
    s.conclude i u f = finish s (s.fullStep i u f) := by
  simp [State.conclude, hs, h]

/-- Where the stacks allow what the step does with the loop, its branches are looked at. -/
theorem stepRefusal_of_stacks (h : s.loopRefusal u (s.loopDecision u) = none) :
    s.stepRefusal u i f = if i.any s.loopBranch || s.lastPassBranch u f then some .loopBranch else none := by
  rw [State.stepRefusal, h]

theorem conclude_loopBranch (hs : u.tr.stall = false) (allowed : s.loopRefusal u (s.loopDecision u) = none)
    (h : (i.any s.loopBranch || s.lastPassBranch u f) = true) : s.conclude i u f = .refused .loopBranch :=
  conclude_refused hs (by rw [stepRefusal_of_stacks allowed, if_pos h])

/-- Outside loops nothing is refused. -/
theorem stepRefusal_no_loop (hd : s.loopDecision u = s.loopStep) (hl : s.looping = false) : s.stepRefusal u i f = none := by
  have pass : s.loopDecision u = .pass := hd.trans (loopStep_no_loop hl)
  have no_tail (j : Instr) : s.loopBranch j = false := by simp [State.loopBranch, State.inLoopTail, hl]
  rw [stepRefusal_of_stacks (by rw [pass]; rfl)]
  cases i <;> simp [State.lastPassBranch, pass, no_tail]

/-- A step that fetches the end of a long loop needs the top entry of the PC stack. -/
theorem loopRefusal_empty (hd : s.loopDecision u = s.loopStep) (hm : s.pipe.mode = .running) (hl : s.looping = true)
    (hs : s.shortLoop = false) (hf : s.pipe.faddr = s.loopEnd) (hp : s.pcEmpty = true) :
    s.loopRefusal u (s.loopDecision u) = some .emptyPcStack := by
  rw [hd, loopStep_at_end hm hl hs hf]
  split_ifs <;> simp [State.loopRefusal, hp]

/-- The last three instructions of a long loop, or all of a short one. -/
theorem inLoopTail_of_body (hl : s.looping = true)
    (body : ∀ b, s.loopStart = some b → (s.loopEnd - s.pipe.pc).toNat ≤ (s.loopEnd - b).toNat)
    (tail : s.pipe.pc = s.loopEnd ∨ s.pipe.pc = s.loopEnd - 1 ∧ s.loopType ≠ 1
      ∨ s.pipe.pc = s.loopEnd - 2 ∧ s.shortLoop = false) : s.inLoopTail = true := by
  have in_body : s.inLoopBody = true := by
    unfold State.inLoopBody
    cases hb : s.loopStart with
    | none => rfl
    | some b => simpa using body b hb
  simp only [State.inLoopTail, hl, in_body, Bool.true_and, Bool.or_eq_true, Bool.and_eq_true, decide_eq_true_eq,
    Bool.not_eq_true']
  tauto

/-- A branch that may not stand at the end of a long loop: any but a CALL that is not delayed. -/
def EndsBadly (i : Instr) : Prop := ∃ delayed call, BranchForm i delayed call ∧ (call = true → delayed = true)

theorem isPlainCall_endsBadly {i : Instr} (h : EndsBadly i) : isPlainCall i = false := by
  obtain ⟨delayed, call, form, hc⟩ := h
  rw [isPlainCall_form form]
  cases call
  · rfl
  · rw [hc rfl]; rfl

theorem isBranch_endsBadly {i : Instr} (h : EndsBadly i) : isBranch i = true := by
  obtain ⟨_, _, form, _⟩ := h
  exact isBranch_form form

theorem endsBadly_word {i : Instr} (h : EndsBadly i) (hw : decode f.word = .ok i) : f.endsBadly = true := by
  simp [Fetched.endsBadly, hw, isBranch_endsBadly h, isPlainCall_endsBadly h]

/-- Such a branch is refused in the last instructions of a loop. -/
theorem loopBranch_endsBadly {i : Instr} (tail : s.inLoopTail = true) (h : EndsBadly i) : s.loopBranch i = true := by
  simp [State.loopBranch, tail, isBranch_endsBadly h, isPlainCall_endsBadly h]

/-- In a loop of one instruction, and in one of two and one iteration, every branch is. -/
theorem loopBranch_small {i : Instr} (tail : s.inLoopTail = true) {delayed call : Bool} (form : BranchForm i delayed call)
    (small : s.loopType = 1 ∨ s.loopStart = some s.loopEnd
      ∨ s.loopType = 2 ∧ sixth s.stk.initial (s.stk.depth.toNat - 1) = 1) : s.loopBranch i = true := by
  simp only [State.loopBranch, isBranch_form form, tail, Bool.true_and, Bool.or_eq_true, Bool.and_eq_true,
    decide_eq_true_eq]
  tauto

/-- When the loop ends, the words of its last two instructions are looked at. -/
theorem lastPassBranch_of_exit (ends : s.loopDecision u = .exit)
    (bad : (∃ i, EndsBadly i ∧ decode f.word = .ok i) ∨ s.pipe.killD = false ∧ s.pipe.daddr = s.loopEnd - 1
      ∧ ∃ i d, EndsBadly i ∧ u.pipe.irD = some d ∧ decode d.word = .ok i) : s.lastPassBranch u f = true := by
  rcases bad with ⟨i, hi, hw⟩ | ⟨kill, daddr, i, d, hi, hd, hw⟩
  · simp [State.lastPassBranch, ends, endsBadly_word hi hw]
  · simp [State.lastPassBranch, ends, kill, daddr, hd, endsBadly_word hi hw]

end Refusals

end Sys2Proof.Machine

open Sys2Proof Sys2Proof.Machine

/-- Settles O50: `loopStep_at_end` decides the loop, and `stepRefusal_of_stacks` and the `sequence` lemmas say what the step
does with that decision. -/
theorem nextFetchAddress : Obligations.NextFetchAddress := by
  intro s u f running started
  have decided := loopDecision_none (s := s) started
  refine ⟨fun stall => ⟨fun hs hm hl hf hp i => ?_, fun entries => ?_⟩,
    fun a hb => (sequence_branch (delayed := false) running started hb).1,
    fun a hb => sequence_branch (delayed := true) running started hb,
    fun hb hk hs hm => ⟨fun elsewhere next => ?_, fun hl hf => ?_⟩⟩
  · refine conclude_refused stall ?_
    rw [State.stepRefusal, loopRefusal_empty decided hm hl hs hf hp]
  · have allowed : s.loopRefusal u (s.loopDecision u) = none :=
      loopRefusal_none (fun hl => decided.trans (loopStep_no_loop hl)) entries
    refine ⟨fun hl i => conclude_runs stall (stepRefusal_no_loop decided hl), fun hl body tail i bad => ?_,
      fun hl hs hm hf lrf tested ht bad i => ?_⟩
    · have refused : s.loopBranch i = true := by
        have tail := inLoopTail_of_body hl body tail
        rcases bad with bad | ⟨small, delayed, call, form⟩
        · exact loopBranch_endsBadly tail bad
        · exact loopBranch_small tail form small
      exact conclude_loopBranch stall allowed (by simp [refused])
    · have ends : s.loopDecision u = .exit := decided.trans (loopStep_ends hm hl hs hf lrf tested ht)
      exact conclude_loopBranch stall allowed (by rw [lastPassBranch_of_exit ends bad, Bool.or_true])
  · exact sequence_straight running started hb hk (loopStep_elsewhere hs elsewhere) (by simp) next
  · have decision := loopStep_at_end hm hl hs hf
    refine ⟨fun lrf next => ?_, fun lrf ht hu => ?_, fun between next => ?_, fun lrf tested ht hu next => ?_⟩
    · exact sequence_straight running started hb hk (l := .reenter) (by simp [decision, lrf]) (by simp) next
    · have back : s.loopStep = .reenter ∧ s.loopType = 0 ∨ s.loopStep = .again := by
        by_cases between : (s.loneLoop && !s.endExecutes) = true
        · exact .inl ⟨by simp [decision, between], ((betweenPasses_iff hl).mp between).1⟩
        · exact .inr (by simp [decision, lrf, between, ht])
      obtain ⟨moved, stk⟩ := sequence_again (f := f) running started hb hk hl hs back hu
      obtain ⟨c, v, hc, hv⟩ := loopCount_again hl hu
      rw [hc] at stk
      rw [stk]
      exact ⟨moved, rfl, v, hv⟩
    · have reenter : s.loopStep = .reenter := by simp [decision, (betweenPasses_iff hl).mpr between]
      exact sequence_straight running started hb hk reenter (by simp) next
    · have ends := loopStep_ends hm hl hs hf lrf tested ht
      have popped := loopCount_exit hl hu
      rw [← popped, ← hf]
      exact sequence_straight running started hb hk ends (by simp)
        ((shortLoop_congr (by rw [popped]) (by rw [popped])).trans next)
end

section
/-! Rounding and packing of exact floating-point results, and the status they leave (45_alu_float.md R500, R502, R504). -/

namespace Sys2Proof.Machine

/-! ### Rounding to a multiple of a power of two (R502) -/

/-- Rounding commutes with the choice of the binary point. -/
theorem RoundsTo.scale {trunc : Bool} {v : ℚ} {u : Int} {q : Nat} (h : RoundsTo trunc v u q) (e : Int) :
    RoundsTo trunc (v * 2 ^ e) (u + e) q := by
  have pos : (0 : ℚ) < 2 ^ e := by positivity
  have split : (2 : ℚ) ^ (u + e) = 2 ^ u * 2 ^ e := zpow_add₀ two_ne_zero u e
  have dist : 2 * |v * 2 ^ e - q * (2 ^ u * 2 ^ e)| = 2 * |v - q * 2 ^ u| * 2 ^ e := by
    rw [← mul_assoc (q : ℚ), ← sub_mul, abs_mul, abs_of_pos pos, mul_assoc]
  unfold RoundsTo at h ⊢
  rw [split, dist, ← mul_assoc, ← mul_assoc]
  simpa only [mul_le_mul_iff_left₀ pos, mul_lt_mul_iff_left₀ pos, mul_left_inj' pos.ne'] using h

/-- A multiple of the unit is left as it is. -/
theorem roundsTo_exact (trunc : Bool) (q : Nat) (u : Int) : RoundsTo trunc (q * 2 ^ u) u q := by
  have pos : (0 : ℚ) < 2 ^ u := by positivity
  cases trunc
  · simp [RoundsTo, pos.le, pos.ne]
  · simp [RoundsTo, pos]

/-- To nearest: at most half a unit away, and from a tie the even one. -/
theorem roundsTo_nearest {v r : ℚ} {u : Int} {q : Nat} (dist : |v - q * 2 ^ u| = r) (half : 2 * r ≤ 2 ^ u)
    (tie : 2 * r = 2 ^ u → q % 2 = 0) : RoundsTo false v u q := by
  simpa [RoundsTo, dist] using And.intro half tie

/-- `shiftRound` divides as R502 rounds, whichever side of the middle the remainder lies on. -/
theorem shiftRound_roundsTo (trunc : Bool) (m k : Nat) : RoundsTo trunc m k (shiftRound trunc m k) := by
  have parts : (m : ℚ) = (m / 2 ^ k : Nat) * 2 ^ (k : Int) + (m % 2 ^ k : Nat) := by
    exact_mod_cast (Nat.div_add_mod' m (2 ^ k)).symm
  have rest : ((m % 2 ^ k : Nat) : ℚ) < 2 ^ (k : Int) := by exact_mod_cast Nat.mod_lt m (by positivity : 0 < 2 ^ k)
  unfold shiftRound
  generalize m / 2 ^ k = q at parts ⊢
  generalize m % 2 ^ k = r at parts rest ⊢
  have down : |(m : ℚ) - q * 2 ^ (k : Int)| = r := by rw [parts, add_sub_cancel_left, Nat.abs_cast]
  have up : |(m : ℚ) - (q + 1 : Nat) * 2 ^ (k : Int)| = 2 ^ (k : Int) - r := by
    rw [parts, abs_sub_comm, abs_of_nonneg] <;> push_cast <;> linarith
  cases trunc
  case true =>
    have nonneg : (0 : ℚ) ≤ r := r.cast_nonneg
    simp only [RoundsTo, if_true, parts]
    constructor <;> linarith
  case false =>
    simp only [Bool.false_eq_true, if_false]
    split_ifs with below above even
    · have below : (2 * r : ℚ) < 2 ^ (k : Int) := by exact_mod_cast below
      exact roundsTo_nearest down below.le fun tie => absurd tie below.ne
    · have above : 2 ^ (k : Int) < (2 * r : ℚ) := by exact_mod_cast above
      exact roundsTo_nearest up (by linarith) fun tie => absurd tie (by linarith)
    · exact roundsTo_nearest down (by exact_mod_cast not_lt.mp above) fun _ => even
    · have ge : 2 ^ (k : Int) ≤ (2 * r : ℚ) := by exact_mod_cast not_lt.mp below
      exact roundsTo_nearest up (by linarith) fun _ => by omega

/-! ### The significand of a result (R502) -/

/-- `m` to `p` significant bits, as `fltPack` rounds it before it looks at the exponent. -/
def roundedSig (trunc : Bool) (p m : Nat) : Nat :=
  if m.log2 + 1 ≤ p then m * 2 ^ (p - 1 - m.log2) else shiftRound trunc m (m.log2 + 1 - p)

/-- The binade of a magnitude. -/
theorem magnitude_binade {m : Nat} (h0 : m ≠ 0) (e : Int) :
    (2 : ℚ) ^ (e + m.log2) ≤ (m : ℚ) * 2 ^ e ∧ (m : ℚ) * 2 ^ e < 2 ^ (e + m.log2 + 1) := by
  have pos : (0 : ℚ) < 2 ^ e := by positivity
  have low : (2 : ℚ) ^ m.log2 ≤ m := by exact_mod_cast Nat.log2_self_le h0
  have high : (m : ℚ) < 2 ^ (m.log2 + 1) := by exact_mod_cast Nat.lt_log2_self
  have split (k : Nat) : (2 : ℚ) ^ (e + k) = 2 ^ k * 2 ^ e := by rw [zpow_add₀ two_ne_zero, zpow_natCast, mul_comm]
  constructor
  · rw [split]; exact mul_le_mul_of_nonneg_right low pos.le
  · rw [add_assoc, ← Nat.cast_succ, split]; exact mul_lt_mul_of_pos_right high pos

theorem roundedSig_roundsTo (trunc : Bool) (p m : Nat) (e : Int) :
    RoundsTo trunc ((m : ℚ) * 2 ^ e) (e + m.log2 + 1 - p) (roundedSig trunc p m) := by
  unfold roundedSig
  split_ifs with fits
  · have value : (m : ℚ) * 2 ^ e = (m * 2 ^ (p - 1 - m.log2) : Nat) * 2 ^ (e + m.log2 + 1 - p) := by
      push_cast
      rw [mul_assoc, ← zpow_natCast, ← zpow_add₀ two_ne_zero]
      congr 2
      omega
    rw [value]
    exact roundsTo_exact ..
  · convert (shiftRound_roundsTo trunc m (m.log2 + 1 - p)).scale e using 1
    omega

/-- Rounding does not go below the quotient, so it keeps the leading bit. -/
theorem le_shiftRound (trunc : Bool) (m k : Nat) : m / 2 ^ k ≤ shiftRound trunc m k := by
  unfold shiftRound
  dsimp only
  split_ifs <;> omega

theorem le_roundedSig (trunc : Bool) {p m : Nat} (hp : 1 ≤ p) (h0 : m ≠ 0) : 2 ^ (p - 1) ≤ roundedSig trunc p m := by
  have low : 2 ^ m.log2 ≤ m := Nat.log2_self_le h0
  unfold roundedSig
  split_ifs with fits
  · calc 2 ^ (p - 1) = 2 ^ m.log2 * 2 ^ (p - 1 - m.log2) := by rw [← pow_add]; congr 1; omega
      _ ≤ m * 2 ^ (p - 1 - m.log2) := Nat.mul_le_mul_right _ low
  · refine le_trans ?_ (le_shiftRound ..)
    rw [Nat.le_div_iff_mul_le (by positivity), ← pow_add]
    exact le_trans (Nat.pow_le_pow_right two_pos (by omega)) low

/-! ### The packed word (R500, R502) -/

theorem infWord_eq (neg : Bool) : infWord neg = BitVec.ofBool neg ++ 255#8 ++ 0#31 := by cases neg <;> rfl

theorem zeroWord_eq (neg : Bool) : zeroWord neg = BitVec.ofBool neg ++ 0#39 := by cases neg <;> rfl

/-- The leading bit of the significand falls outside the fraction field: it is hidden. -/
theorem fraction_hides_leading_bit {p q : Nat} (hp : 1 ≤ p) (hp' : p ≤ 32) (hq : 2 ^ (p - 1) ≤ q) :
    BitVec.ofNat 31 ((q - 2 ^ (p - 1)) * 2 ^ (32 - p)) = BitVec.ofNat 31 (q * 2 ^ (32 - p)) := by
  have lead : 2 ^ (p - 1) * 2 ^ (32 - p) = 2 ^ 31 := by rw [← pow_add]; congr 1; omega
  have sum : q * 2 ^ (32 - p) = (q - 2 ^ (p - 1)) * 2 ^ (32 - p) + 2 ^ 31 := by
    rw [← lead, ← add_mul, Nat.sub_add_cancel hq]
  apply BitVec.eq_of_toNat_eq
  rw [BitVec.toNat_ofNat, BitVec.toNat_ofNat, sum, Nat.add_mod_right]

/-- `fltPack` by the rounded significand and its exponent, with the whole significand in the fraction field. -/
theorem fltPack_eq (trunc neg : Bool) {p m : Nat} (e : Int) (hp : 1 ≤ p) (hp' : p ≤ 32) (h0 : m ≠ 0) :
    let q := roundedSig trunc p m
    let big : Int := if q = 2 ^ p then e + m.log2 + 1 else e + m.log2
    let sig := if q = 2 ^ p then 2 ^ (p - 1) else q
    fltPack trunc p neg m e =
      if 127 < big then ⟨if trunc then normMax neg p else infWord neg, true, false⟩
      else if big < -126 then ⟨zeroWord neg, false, true⟩
      else ⟨BitVec.ofBool neg ++ BitVec.ofInt 8 (big + 127) ++ BitVec.ofNat 31 (sig * 2 ^ (32 - p)), false, false⟩ := by
  intro q big sig
  have lead : 2 ^ (p - 1) ≤ sig := by
    simp only [sig]
    split_ifs
    · exact le_rfl
    · exact le_roundedSig trunc hp h0
  rw [← fraction_hides_leading_bit hp hp' lead]
  have exponent : big = e + m.log2 + (if decide (q = 2 ^ p) then 1 else 0) := by
    simp only [big, decide_eq_true_eq]
    split_ifs <;> omega
  have significand : sig = if decide (q = 2 ^ p) then 2 ^ (p - 1) else q := by simp only [sig, decide_eq_true_eq]
  rw [exponent, significand]
  rfl

/-! ### The status of a floating-point result (R504) -/

/-- A state shows an operation that has a result when it shows the result, the flags and the sticky bits. -/
theorem aluGives_some {s t : State} {rn : BitVec 4} {w : BitVec 40} {f : AluFlags} :
    AluGives s t rn ⟨some w, f⟩ ↔ t.rreg rn = w ∧ AluStatus t f.az f.av f.an f.ac f.as f.ai f.af
      ∧ Sticks s t 0 f.aus ∧ Sticks s t 1 f.avs ∧ Sticks s t 2 f.aos ∧ Sticks s t 5 f.ai := by
  simp [AluGives]

theorem fltZero_eq_decide (w : BitVec 40) : fltZero w = decide (w.extractLsb' 31 8 = 0) :=
  decide_eq_decide.mpr (BitVec.toNat_eq (x := w.extractLsb' 31 8) (y := 0)).symm

theorem fltSign_eq_msb (w : BitVec 40) : fltSign w = w.msb := rfl

end Sys2Proof.Machine

open Sys2Proof Sys2Proof.Machine

/-- Settles O14: the flags are those of `aluGives_some`; a magnitude is rounded in its binade (`roundedSig_roundsTo`), and
`fltPack_eq` packs what that gives. -/
theorem floatRoundAndPack : Obligations.FloatRoundAndPack := by
  refine ⟨fun s => ⟨rfl, rfl⟩, fun s t rn k => ?_, fun s t rn w => ?_, fun trunc neg p m e hp h0 => ?_⟩
  · rw [← fltZero_eq_decide, ← fltSign_eq_msb]
    exact aluGives_some
  · rw [← fltZero_eq_decide, ← fltSign_eq_msb]
    exact aluGives_some
  · obtain ⟨low, high⟩ := magnitude_binade h0 e
    refine ⟨roundedSig trunc p m, e + m.log2, low, high, roundedSig_roundsTo trunc p m e, ?_⟩
    have packed := fltPack_eq trunc neg e (p := p) (by omega) (by omega) h0
    rwa [infWord_eq, zeroWord_eq] at packed
end

section
/-! The multiplier's fixed-point results: the flags by the value in its format, saturation, and where a result goes
(46_multiplier.md R544, R545, R559). -/

namespace Sys2Proof.Machine

/-! ### The upper and the lower part of a word as numbers -/

section Parts

variable {w k n : Nat} (hw : k + n = w) (hn : 0 < n) (v : BitVec w)

include hw

theorem top_toNat : (v.extractLsb' k n).toNat = v.toNat / 2 ^ k := by
  have fits : v.toNat / 2 ^ k < 2 ^ n := Nat.div_lt_of_lt_mul (by rw [← pow_add, hw]; exact v.isLt)
  rw [BitVec.extractLsb'_toNat, Nat.shiftRight_eq_div_pow, Nat.mod_eq_of_lt fits]

theorem top_eq_zero_iff : v.extractLsb' k n = 0#n ↔ v.toNat / 2 ^ k = 0 := by
  rw [← BitVec.toNat_inj, top_toNat hw]; rfl

include hn

/-- The upper part of a signed word is its value divided, rounding down. -/
theorem top_toInt : (v.extractLsb' k n).toInt = v.toInt / 2 ^ k := by
  have sign : (v.extractLsb' k n).msb = v.msb := by
    rw [BitVec.msb_eq_getLsbD_last, BitVec.msb_eq_getLsbD_last, BitVec.getLsbD_extractLsb', ← Nat.add_sub_assoc hn, hw]
    simp [hn]
  have split : (2 : Int) ^ w = 2 ^ n * 2 ^ k := by rw [← hw, pow_add, mul_comm]
  rw [BitVec.toInt_eq_msb_cond, BitVec.toInt_eq_msb_cond, sign, top_toNat hw]
  push_cast
  cases v.msb
  · rfl
  · rw [if_pos rfl, if_pos rfl, split, Int.sub_mul_ediv_right _ _ (by positivity)]

theorem top_eq_zero_iff_toInt : v.extractLsb' k n = 0#n ↔ v.toInt / 2 ^ k = 0 := by
  rw [← BitVec.toInt_inj, top_toInt hw hn, BitVec.toInt_zero]

theorem top_eq_allOnes_iff_toInt : v.extractLsb' k n = BitVec.allOnes n ↔ v.toInt / 2 ^ k = -1 := by
  rw [← BitVec.toInt_inj, top_toInt hw hn, BitVec.toInt_allOnes, if_pos hn]

end Parts

theorem low_eq_zero_iff {w : Nat} (k : Nat) (v : BitVec w) : v.extractLsb' 0 k = 0#k ↔ v.toNat % 2 ^ k = 0 := by
  rw [← BitVec.toNat_inj, BitVec.extractLsb'_toNat]; rfl

/-! ### The flags by the value in its format (R545) -/

/-- The bits above an unsigned number are all 0, those above a signed one all alike. -/
theorem mulOverflow_eq_fmtOver (f : MulFmt) (v : BitVec 80) : mulOverflow f v = fmtOver f v := by
  match f with
  | ⟨true, false⟩ =>
    change decide (v.extractLsb' 64 16 ≠ 0#16) = decide ((v.toNat : Int) < 0 ∨ 2 ^ 64 - 1 < (v.toNat : Int))
    rw [decide_eq_decide, ne_eq, top_eq_zero_iff rfl]
    omega
  | ⟨false, false⟩ =>
    change decide (v.extractLsb' 32 48 ≠ 0#48) = decide ((v.toNat : Int) < 0 ∨ 2 ^ 32 - 1 < (v.toNat : Int))
    rw [decide_eq_decide, ne_eq, top_eq_zero_iff rfl]
    omega
  | ⟨true, true⟩ =>
    change (decide (v.extractLsb' 63 17 ≠ 0#17) && decide (v.extractLsb' 63 17 ≠ BitVec.allOnes 17))
      = decide (v.toInt < -2 ^ 63 ∨ 2 ^ 63 - 1 < v.toInt)
    rw [← Bool.decide_and, decide_eq_decide, ne_eq, ne_eq, top_eq_zero_iff_toInt rfl (by decide),
      top_eq_allOnes_iff_toInt rfl (by decide)]
    omega
  | ⟨false, true⟩ =>
    change (decide (v.extractLsb' 31 49 ≠ 0#49) && decide (v.extractLsb' 31 49 ≠ BitVec.allOnes 49))
      = decide (v.toInt < -2 ^ 31 ∨ 2 ^ 31 - 1 < v.toInt)
    rw [← Bool.decide_and, decide_eq_decide, ne_eq, ne_eq, top_eq_zero_iff_toInt rfl (by decide),
      top_eq_allOnes_iff_toInt rfl (by decide)]
    omega

/-- What lies below the bits of a fraction has 0 above it, or with a sign -1. -/
theorem mulUnderflow_eq_fmtUnder (f : MulFmt) (v : BitVec 80) : mulUnderflow f v = fmtUnder f v := by
  have whole : v = 0#80 ↔ v.toNat = 0 := by rw [← BitVec.toNat_inj]; rfl
  match f with
  | ⟨false, _⟩ => rfl
  | ⟨true, false⟩ =>
    change ((decide (v.extractLsb' 32 48 = 0#48) || false) && decide (v.extractLsb' 0 32 ≠ 0#32))
      = (decide (v ≠ 0#80) && decide (-2 ^ 32 < (v.toNat : Int) ∧ (v.toNat : Int) < 2 ^ 32))
    rw [Bool.or_false, ← Bool.decide_and, ← Bool.decide_and, decide_eq_decide, ne_eq, ne_eq, top_eq_zero_iff rfl,
      low_eq_zero_iff, whole]
    omega
  | ⟨true, true⟩ =>
    have value := BitVec.toInt_eq_toNat_cond v
    have bound := v.isLt
    change ((decide (v.extractLsb' 32 48 = 0#48) || decide (v.extractLsb' 32 48 = BitVec.allOnes 48))
      && decide (v.extractLsb' 0 32 ≠ 0#32)) = (decide (v ≠ 0#80) && decide (-2 ^ 32 < v.toInt ∧ v.toInt < 2 ^ 32))
    rw [← Bool.decide_or, ← Bool.decide_and, ← Bool.decide_and, decide_eq_decide, ne_eq, ne_eq,
      top_eq_zero_iff_toInt rfl (by decide), top_eq_allOnes_iff_toInt rfl (by decide), low_eq_zero_iff, whole]
    omega

/-! ### Saturation (R559) -/

theorem fmtMin_nonpos (f : MulFmt) : fmtMin f ≤ 0 := by
  obtain ⟨frac, signed⟩ := f
  cases frac <;> cases signed <;> decide

theorem fmtMax_nonneg (f : MulFmt) : 0 ≤ fmtMax f := by
  obtain ⟨frac, signed⟩ := f
  cases frac <;> cases signed <;> decide

theorem getLsbD_79_eq_neg (v : BitVec 80) : v.getLsbD 79 = decide (v.toInt < 0) :=
  (BitVec.msb_eq_getLsbD_last v).symm.trans BitVec.msb_eq_toInt

theorem sat80_inside {f : MulFmt} {v : BitVec 80} (low : fmtMin f ≤ fmtValue f v) (high : fmtValue f v ≤ fmtMax f) :
    sat80 f v = v := by
  have inside : fmtOver f v = false := decide_eq_false (by omega)
  rw [sat80, mulOverflow_eq_fmtOver, inside, if_neg Bool.false_ne_true]

theorem fmtValue_sat80_above {f : MulFmt} {v : BitVec 80} (above : fmtMax f < fmtValue f v) :
    fmtValue f (sat80 f v) = fmtMax f := by
  have outside : fmtOver f v = true := decide_eq_true (.inr above)
  rw [sat80, mulOverflow_eq_fmtOver, outside, if_pos rfl]
  match f with
  | ⟨true, false⟩ | ⟨false, false⟩ => rfl
  | ⟨frac, true⟩ =>
    have positive : ¬ v.toInt < 0 := ((fmtMax_nonneg _).trans above.le).not_gt
    rw [getLsbD_79_eq_neg, decide_eq_false positive]
    cases frac <;> rfl

/-- Only a signed value can lie below its format. -/
theorem fmtValue_sat80_below {f : MulFmt} {v : BitVec 80} (below : fmtValue f v < fmtMin f) :
    fmtValue f (sat80 f v) = fmtMin f := by
  have outside : fmtOver f v = true := decide_eq_true (.inl below)
  rw [sat80, mulOverflow_eq_fmtOver, outside, if_pos rfl]
  match f with
  | ⟨_, false⟩ => exact absurd below (Int.natCast_nonneg v.toNat).not_gt
  | ⟨frac, true⟩ =>
    have negative : v.toInt < 0 := below.trans_le (fmtMin_nonpos _)
    rw [getLsbD_79_eq_neg, decide_eq_true negative]
    cases frac <;> rfl

/-- Saturation goes to the nearest number of the format. -/
theorem fmtValue_sat80 (f : MulFmt) (v : BitVec 80) :
    fmtValue f (sat80 f v) = max (fmtMin f) (min (fmtMax f) (fmtValue f v)) := by
  have bounds := (fmtMin_nonpos f).trans (fmtMax_nonneg f)
  rcases lt_or_ge (fmtValue f v) (fmtMin f) with below | low
  · rw [fmtValue_sat80_below below]; omega
  rcases lt_or_ge (fmtMax f) (fmtValue f v) with above | high
  · rw [fmtValue_sat80_above above]; omega
  · rw [sat80_inside low high]; omega

/-! ### Where a result goes, and the status it leaves (R544, R545) -/

theorem applyMul_mulStatus (s : State) (rn : BitVec 4) (o : MulOut) :
    MulStatus (s.applyMul rn o) o.flags.mn o.flags.mv o.flags.mu o.flags.mi := by
  have astat : (s.applyMul rn o).sys.astat = o.flags.astat s.sys.astat := by
    unfold State.applyMul
    split <;> simp [State.mulStatus]
  unfold MulStatus
  rw [astat]
  simp [MulFlags.astat, getLsbD_bitAt, -BitVec.getLsbD_eq_getElem]

theorem applyMul_delivered (s : State) (rn : BitVec 4) (f : MulFmt) (d : MulDest) (v : BitVec 80) (g : MulFlags) :
    Delivered (s.applyMul rn (deliver f d v g)) d f rn v := by
  cases d with
  | reg => exact setRreg_rreg_same ..
  | acc b => exact setAcc_acc_same ..

/-- A multiplier row with a delivered result, and what can be seen of it: the frame, the result and the flags. -/
theorem completes_deliver {i : Instr} {op : MulOp} {rn rx ry : BitVec 4} {s : State} {f : MulFmt} {d : MulDest} {v : BitVec 80}
    {g : MulFlags} (row : i.toCompute = some (.mul op rn rx ry)) (result : s.mulResult op rx ry = deliver f d v g) :
    Completes i s fun t => ComputeFrame s t (d.regs rn) d.accs 0x3C0 op.stkyMask ∧ Delivered t d f rn v
      ∧ MulStatus t g.mn g.mv g.mu g.mi := by
  have runs : exec i s = .next (s.applyMul rn (deliver f d v g)) := by rw [exec_of_toCompute row, ← result]; rfl
  have sticks : (deliver f d v g).sticks op.stkyMask := result ▸ multiply_sticks ..
  have frame := applyMul_frame s rn _ _ sticks
  have status := applyMul_mulStatus s rn (deliver f d v g)
  cases d <;> exact ⟨_, runs, frame, applyMul_delivered .., status⟩

/-- A row of SAT, whichever accumulator it takes and wherever it delivers (R560 to R563). -/
theorem completes_sat {i : Instr} {op : MulOp} {m : Mod1} {rn rx ry : BitVec 4} {s : State} {d : MulDest} {v : BitVec 80}
    (row : i.toCompute = some (.mul op rn rx ry)) (result : s.mulResult op rx ry = mulSat m d v) (mask : op.stkyMask = 0) :
    Completes i s fun t => ComputeFrame s t (d.regs rn) d.accs 0x3C0 0 ∧
      ∃ r : BitVec 80, fmtValue (mod1Fmt m) r = max (fmtMin (mod1Fmt m)) (min (fmtMax (mod1Fmt m)) (fmtValue (mod1Fmt m) v))
        ∧ Delivered t d (mod1Fmt m) rn r ∧ MulStatus t r.msb false (fmtUnder (mod1Fmt m) r) false := by
  obtain ⟨t, runs, frame, delivered, status⟩ := completes_deliver row result
  refine ⟨t, runs, mask ▸ frame, sat80 (mod1Fmt m) v, fmtValue_sat80 .., delivered, ?_⟩
  rwa [BitVec.msb_eq_getLsbD_last, ← mulUnderflow_eq_fmtUnder]

end Sys2Proof.Machine

open Sys2Proof Sys2Proof.Machine

/-- Settles O24: the four rows are `mulSat` of MRF or MRB to a data register or back; `fmtValue_sat80` says what number
saturation leaves, and MU of the model is that of the value (`mulUnderflow_eq_fmtUnder`). -/
theorem multiplierSaturate : Obligations.MultiplierSaturate := by
  intro s m rn rx ry f row
  exact ⟨completes_sat (op := .rnSatMrf m) rfl rfl rfl, completes_sat (op := .rnSatMrb m) rfl rfl rfl,
    completes_sat (op := .mrfSat m) rfl rfl rfl, completes_sat (op := .mrbSat m) rfl rfl rfl⟩
end

section
/-! The latch of interrupt requests bit by bit (60_exceptions.md R654, R664, R666). -/

namespace Sys2Proof.Machine

/-! ### Words made of a list of flags -/

theorem getLsbD_flagBits_of_lt {bs : List Bool} {n k : Nat} (h : k < n) : (flagBits bs n).getLsbD k = false := by
  induction bs generalizing n with
  | nil => simp [flagBits]
  | cons b bs ih =>
    have head : (bitAt b n).getLsbD k = false := by cases b <;> simp [bitAt, h]
    rw [flagBits, BitVec.getLsbD_or, ih (by omega), Bool.or_false]
    exact head

theorem getLsbD_flagBits_cons {b : Bool} {bs : List Bool} {n k : Nat} (hn : n < 32) :
    (flagBits (b :: bs) n).getLsbD k = if k = n then b else (flagBits bs (n + 1)).getLsbD k := by
  have head : (if b then 1#32 <<< n else 0).getLsbD k = (b && decide (k = n)) := getLsbD_bitAt b n k hn
  rw [flagBits, BitVec.getLsbD_or, head]
  split
  case isTrue here => simp [here, getLsbD_flagBits_of_lt]
  case isFalse other => simp [other]

theorem getLsbD_flagBits_nil {n k : Nat} : (flagBits [] n).getLsbD k = false := BitVec.getLsbD_zero

/-! ### The level requests, each at its bit of IRPTL -/

theorem getLsbD_stickyRequests (s : State) (k : Nat) :
    let st : Nat → Bool := fun j => s.sys.stky.getLsbD j
    s.stickyRequests.getLsbD k =
      if k = 24 then st 2 || st 6 else if k = 25 then st 1 || st 7
      else if k = 26 then st 0 || st 8 else if k = 27 then st 5 || st 9 else false := by
  simp [State.stickyRequests, getLsbD_flagBits_cons, getLsbD_flagBits_nil, -BitVec.getLsbD_eq_getElem]

theorem getLsbD_bufferRequests (s : State) (k : Nat) :
    s.bufferRequests.getLsbD k =
      if k = 10 then s.iop.sport0.rxRequest else if k = 11 then s.iop.sport1.rxRequest
      else if k = 12 then s.iop.sport0.txRequest else if k = 13 then s.iop.sport1.txRequest
      else if k = 16 then s.iop.ep0.levelRequest else if k = 17 then s.iop.ep1.levelRequest else false := by
  rw [State.bufferRequests, BitVec.getLsbD_or]
  rcases lt_or_ge k 16 with serial | external
  · rw [getLsbD_flagBits_of_lt serial]
    simp [getLsbD_flagBits_cons, getLsbD_flagBits_nil, serial.ne, (show k ≠ 17 by omega)]
  · simp [getLsbD_flagBits_cons, getLsbD_flagBits_nil, (show k ≠ 10 by omega), (show k ≠ 11 by omega),
      (show k ≠ 12 by omega), (show k ≠ 13 by omega)]

/-- Requests set a bit, and the mask pointer of the start of the step clears it (R654, R720). -/
theorem getLsbD_latch_irptl (u s : State) (core : Bool) {k : Nat} (hk : k < 32) :
    (u.latch s core).sys.irptl.getLsbD k =
      ((u.sys.irptl.getLsbD k || u.tr.requests.getLsbD k
          || (s.bufferRequests.getLsbD k || core && s.stickyRequests.getLsbD k))
        && !s.sys.imaskp.getLsbD k) := by
  have levels : (if core then s.stickyRequests else 0).getLsbD k = (core && s.stickyRequests.getLsbD k) := by
    cases core <;> simp
  simp only [State.latch, BitVec.getLsbD_and, BitVec.getLsbD_or, BitVec.getLsbD_not, levels, hk, decide_true,
    Bool.true_and, Bool.or_assoc]

end Sys2Proof.Machine

open Sys2Proof Sys2Proof.Machine

/-- Settles O53: a bit of the latch is that of `getLsbD_latch_irptl`; the arithmetic levels stand at bits 24 to 27, those of
the buffers below. -/
theorem interruptLatch : Obligations.InterruptLatch := by
  intro u s core st level t
  refine ⟨rfl, fun k hk => ?_⟩
  have levels : (s.bufferRequests.getLsbD k || core && s.stickyRequests.getLsbD k) = level k := by
    rw [getLsbD_bufferRequests, getLsbD_stickyRequests]
    rcases lt_or_ge k 24 with buffer | arithmetic
    · simp [level, buffer.ne, (show k ≠ 25 by omega), (show k ≠ 26 by omega), (show k ≠ 27 by omega)]
    · simp [level, st, (show k ≠ 10 by omega), (show k ≠ 11 by omega), (show k ≠ 12 by omega), (show k ≠ 13 by omega),
        (show k ≠ 16 by omega), (show k ≠ 17 by omega), apply_ite (core && ·), Bool.and_left_comm]
  rw [← levels]
  exact getLsbD_latch_irptl u s core hk
end

section
/-! An instruction whose condition is false: it does nothing, does the compute operation of its ELSE, or seeks the bus
(30_encoding.md R287; 41_program_flow.md R387 to R390; 61_dma_extport.md R753). -/

namespace Sys2Proof.Machine

/-! ### The arms of the conditional instructions -/

theorem exec_compute (cond : BitVec 5) (c : Compute) (s : State) : exec (.compute cond c) s =
    finish s (s.given cond fun t => .ok (t.compute c)) := rfl

/-- The fifteen immediate shifts without a transfer are one instruction but for their operation. -/
theorem exec_ofShiftImm (op : ShiftImmOp) (cond : BitVec 5) (dataex : BitVec 4) (data : BitVec 8) (rn rx : BitVec 4)
    (s : State) :
    exec (Instr.ofShiftImm op cond dataex data rn rx) s = s.shiftImmAlone op cond dataex data rn rx := by
  cases op <;> rfl

/-- So are the fifteen with one. -/
theorem exec_ofShiftImmMove (op : ShiftImmOp) (i m : BitVec 3) (cond : BitVec 5) (g d : Bool) (dataex r : BitVec 4)
    (data : BitVec 8) (rn rx : BitVec 4) (s : State) :
    exec (Instr.ofShiftImmMove op i m cond g d dataex r data rn rx) s =
      s.shiftImmMove op i m cond g d dataex r data rn rx := by
  cases op <;> rfl

/-! ### What a false condition leaves -/

section FalseCondition

variable {s : State} {cond : BitVec 5} (hc : s.cond cond = false)
include hc

/-- A conditional operation leaves the note of its condition. -/
theorem finish_given_false (f : State → Act State) : finish s (s.given cond f) = .next (s.noteCond cond) := by
  rw [given_false hc]; rfl

/-- A conditional access leaves besides the note that the bus is sought, if it would have been an external one. -/
theorem finish_givenAccess_false (a : BitVec 32) (f : State → Act State) :
    finish s (s.givenAccess cond a f) = .next ((s.noteCond cond).seekBus a) := by
  rw [givenAccess_false hc]; rfl

/-- A conditional branch leaves the compute operation of its ELSE, if it has one. -/
theorem finish_branchElse_false (e : Bool) (c : Compute) (f : State → Act State) :
    finish s (s.branchElse cond e c f) =
      if e then exec (.compute 31 c) (s.noteCond cond) else .next (s.noteCond cond) := by
  rw [(compute_computed (s.noteCond cond) c).1]
  cases e <;> simp [State.branchElse, hc, finish]

end FalseCondition

/-- Seeking the bus for an access, as the statements say it. -/
theorem seekBus_eq {s : State} {id : BitVec 2} (hid : s.env.id = id) (a : BitVec 32) : s.seekBus a =
    match place id a with
    | .ext _ | .remote => { s with iop.hid.busWait := true }
    | _ => s := by
  subst hid; rfl

end Sys2Proof.Machine

open Sys2Proof Sys2Proof.Machine

/-- Settles O36: a false condition leaves its note, with the bus sought by Types 3, 4 and 6, or the compute operation of an
ELSE. -/
theorem falseConditionDoesNothing : Obligations.FalseConditionDoesNothing := by
  intro s cond hc u seeking
  have seek (a : BitVec 32) : u.seekBus a = seeking a := seekBus_eq (congrArg Env.id (noteCond_env s cond)) a
  have access (a : BitVec 32) (f : State → Act State) : finish s (s.givenAccess cond a f) = .next (seeking a) :=
    seek a ▸ finish_givenAccess_false hc a f
  have alone (f : State → Act State) : finish s (s.given cond f) = .next u := finish_given_false hc f
  refine ⟨fun c => alone _, fun up i m g d r c => ?_, fun i g d up data r c => ?_, fun src dst c => alone _,
    fun op dx data rn rx => ?_, fun op i m g d dx r data rn rx => ?_, fun g i m c => alone _,
    fun a j ci t => ⟨alone _, alone _, alone _, alone _⟩, fun e c => ?_⟩
  · exact access _ _
  · exact access _ _
  · exact (exec_ofShiftImm ..).trans (alone _)
  · exact (exec_ofShiftImmMove ..).trans (access _ _)
  · have other (f : State → Act State) := finish_branchElse_false hc e c f
    exact ⟨fun a j ci pmi pmm => ⟨other _, other _⟩, fun a j ci t => ⟨other _, other _⟩, fun j lr => other _, fun j => other _⟩
end

section
/-! What a step executes: the pipeline is filled from internal memory, the word at PC is decoded, and its instruction is
executed at a state that differs from the one the step begins at in the pipeline and the cache alone (41_program_flow.md
R380, R381; 60_exceptions.md section 11). -/

namespace Sys2Proof.Machine

/-! ### Fetching from internal memory -/

section Internal

variable {s : State} {a : BitVec 24} (ha : s.isExternal a = false)
include ha

/-- A fetch from internal memory does not wait. -/
theorem fetchPlain_internal (site : Nat) : s.fetchPlain a site = .ok (⟨s.codeWord a site, false⟩, s) := by
  simp [State.fetchPlain, ha]

/-- Filling a stage from internal memory changes nothing else. -/
theorem fill_internal (kill : Bool) (ir : Option Fetched) (site : Nat) : ∃ p, s.fill kill ir a site = .ok (p, s) := by
  unfold State.fill
  cases kill with
  | true => exact ⟨_, rfl⟩
  | false =>
    cases ir with
    | some f => exact ⟨_, rfl⟩
    | none => exact ⟨some ⟨s.codeWord a site, false⟩, by simp [fetchPlain_internal ha]⟩

/-- A fetch of an instruction in internal memory changes at most the cache. -/
theorem fetch_internal (pm : Bool) (site : Nat) : ∃ f t, s.fetch a pm site = .ok (f, t) ∧ t = { s with cache := t.cache } := by
  unfold State.fetch
  simp only [fetchPlain_internal ha]
  by_cases hpm : (pm && !s.lat.mode2.getLsbD 4) = true
  · rw [if_pos hpm]
    cases (s.cacheSet a).find a with
    | some e => exact ⟨_, _, rfl, rfl⟩
    | none => exact ⟨_, _, rfl, by split <;> rfl⟩
  · rw [if_neg hpm]
    exact ⟨_, _, rfl, rfl⟩

end Internal

/-! ### The word at PC -/

/-- A word that is still the one in memory executes, whether the cache supplied it or not. -/
theorem wordAtPc_unchanged (s : State) (cached : Bool) :
    s.wordAtPc ⟨s.codeWord s.pipe.pc 8, cached⟩ = s.codeWord s.pipe.pc 8 := by
  cases cached <;> simp [State.wordAtPc]

/-- The word at PC is not fetched yet, or it is fetched and still the one in memory. -/
def State.holdsCode (s : State) : Prop :=
  s.pipe.irP = none ∨ ∃ c, s.pipe.irP = some ⟨s.codeWord s.pipe.pc 8, c⟩

/-- The stage at PC then holds the word of memory. -/
theorem fill_holdsCode {s : State} (ha : s.isExternal s.pipe.pc = false) (hk : s.pipe.killP = false) (hc : s.holdsCode) :
    ∃ c, s.fill s.pipe.killP s.pipe.irP s.pipe.pc 8 = .ok (some ⟨s.codeWord s.pipe.pc 8, c⟩, s) := by
  rw [hk]
  rcases hc with hc | ⟨c, hc⟩
  · exact ⟨false, by simp [State.fill, hc, fetchPlain_internal ha]⟩
  · exact ⟨c, by simp [State.fill, hc]⟩

theorem decodeAtPc_ok {s : State} {c : Bool} {i : Instr} (h : decode (s.codeWord s.pipe.pc 8) = .ok i) :
    s.decodeAtPc (some ⟨s.codeWord s.pipe.pc 8, c⟩) = .ok (some i) := by
  simp only [State.decodeAtPc, wordAtPc_unchanged, h]

theorem decodeAtPc_error {s : State} {c : Bool} {e : DecodeError} (h : decode (s.codeWord s.pipe.pc 8) = .error e) :
    s.decodeAtPc (some ⟨s.codeWord s.pipe.pc 8, c⟩) = refuse .undefinedWord := by
  simp only [State.decodeAtPc, wordAtPc_unchanged, h]

/-! ### Issue -/

section Issue

variable {s : State} (hm : s.pipe.mode = .running) (hk : s.pipe.killP = false) (hp : s.isExternal s.pipe.pc = false)
  (hd : s.isExternal s.pipe.daddr = false) (hc : s.holdsCode)
include hm hk hp hd hc

/-- A word that is an instruction is issued, at a state that differs in the cache, the two fetched words and the loop
re-entry flag. -/
theorem issue_ok {i : Instr} (hf : s.isExternal s.pipe.faddr = false) (hi : decode (s.codeWord s.pipe.pc 8) = .ok i) :
    ∃ (j : State) (f : Fetched), s.issue = .ok ⟨some i, f, j⟩
      ∧ j = { s with cache := j.cache, pipe.irP := j.pipe.irP, pipe.irD := j.pipe.irD, pipe.lrf := j.pipe.lrf } := by
  obtain ⟨c, filled⟩ := fill_holdsCode hp hk hc
  obtain ⟨d, behind⟩ := fill_internal hd s.pipe.killD s.pipe.irD 9
  obtain ⟨f, t, fetched, ht⟩ := fetch_internal hf (pmAccess i) 7
  refine ⟨{ t with pipe.irP := some ⟨s.codeWord s.pipe.pc 8, c⟩, pipe.irD := d, pipe.lrf := s.pipe.lrf && !s.lrfUsed }, f,
    ?_, ?_⟩
  · rw [State.issue, if_neg (not_not.mpr hm), filled]
    simp only [bind, Except.bind, behind, decodeAtPc_ok hi, Option.map_some, Option.getD_some, fetched]
  · rw [ht]

/-- A word that is none is refused. -/
theorem issue_undefined {e : DecodeError} (he : decode (s.codeWord s.pipe.pc 8) = .error e) :
    s.issue = refuse .undefinedWord := by
  obtain ⟨c, filled⟩ := fill_holdsCode hp hk hc
  obtain ⟨d, behind⟩ := fill_internal hd s.pipe.killD s.pipe.irD 9
  rw [State.issue, if_neg (not_not.mpr hm), filled]
  simp only [bind, Except.bind, behind, decodeAtPc_error he]
  rfl

end Issue

/-! ### The step -/

theorem coreStep_of_issue {s j : State} {i : Instr} {f : Fetched} (h : s.issue = .ok ⟨some i, f, j⟩) : s.coreStep =
    match exec i j with
    | .next u => s.conclude (some i) u f
    | .fault r => .fault r
    | .refused r => .refused r := by
  rw [State.coreStep, h] <;> rfl

theorem coreStep_of_refuse {s : State} {r : Refusal} (h : s.issue = refuse r) : s.coreStep = .refused r := by
  rw [State.coreStep, h]; rfl

/-- A step is the core's part at the state that the surroundings leave, if they act first. -/
theorem step_of_ahead {s b : State} (hid : s.env.id ≠ 3) (h : s.fresh.ahead = .ok b) : step s = b.coreStep := by
  rw [step, State.cycle, if_neg hid, h]

theorem step_processorId {s : State} (hid : s.env.id = 3) : step s = .refused .processorId := if_pos hid

/-- Where they do not, the step begins at its own state without the notes of the last one. -/
theorem ahead_fresh {s : State} (h : s.input.early = false) : s.fresh.ahead = .ok s.fresh :=
  if_neg (by rw [show s.fresh.input = s.input from rfl, h]; exact Bool.false_ne_true)

end Sys2Proof.Machine

open Sys2Proof Sys2Proof.Machine

/-- Settles O4: the step is `coreStep` at `b`, and `issue` at `b` decodes the word at PC. -/
theorem stepRunsTheDecodedInstruction : Obligations.StepRunsTheDecodedInstruction := by
  intro s
  refine ⟨step_processorId, fun b hid hb => ⟨fun early => ?_, fun hm hk hp hd hf hc => ⟨fun i hi _ => ?_, fun e he => ?_⟩⟩⟩
  · exact (Except.ok.inj ((ahead_fresh early).symm.trans hb)).symm
  · obtain ⟨j, f, issued, hj⟩ := issue_ok hm hk hp hd hc hf hi
    exact ⟨j, f, hj, (step_of_ahead hid hb).trans (coreStep_of_issue issued)⟩
  · exact (step_of_ahead hid hb).trans (coreStep_of_refuse (issue_undefined hm hk hp hd hc he))
end

section
/-! Conditional compute: the conditions of an IF, the Type 2 word, and the operation it stands for (30_encoding.md R285 to
R287, R311). -/

namespace Sys2Proof.Machine

/-! ### The conditions (R285, R286) -/

/-- Codes 0 to 14 are the basic conditions, 16 to 30 their complements. -/
theorem cond_basic (s : State) {k : Nat} (hk : k < 15) :
    s.cond (BitVec.ofNat 5 k) = s.basicCond (BitVec.ofNat 4 k)
      ∧ s.cond (BitVec.ofNat 5 (k + 16)) = !s.basicCond (BitVec.ofNat 4 k) := by
  have low : ∀ k < 15, BitVec.ofNat 5 k ≠ 31 ∧ BitVec.ofNat 5 k ≠ 15 ∧ (BitVec.ofNat 5 k).getLsbD 4 = false
      ∧ (BitVec.ofNat 5 k).extractLsb' 0 4 = BitVec.ofNat 4 k := by decide
  have high : ∀ k < 15, BitVec.ofNat 5 (k + 16) ≠ 31 ∧ BitVec.ofNat 5 (k + 16) ≠ 15
      ∧ (BitVec.ofNat 5 (k + 16)).getLsbD 4 = true
      ∧ (BitVec.ofNat 5 (k + 16)).extractLsb' 0 4 = BitVec.ofNat 4 k := by decide
  obtain ⟨always, lce, bit, code⟩ := low k hk
  obtain ⟨always', lce', bit', code'⟩ := high k hk
  unfold State.cond
  exact ⟨by rw [if_neg always, if_neg lce, bit, code]; rfl, by rw [if_neg always', if_neg lce', bit', code']; rfl⟩

/-- The basic conditions by their codes. -/
theorem basicCond_ofNat (s : State) {k : Nat} (hk : k < 15) : s.basicCond (BitVec.ofNat 4 k) =
    [s.flag 0, s.lt, s.le, s.flag 3, s.flag 1, s.flag 7, s.flag 6, s.flag 11, s.flag 12, s.flag 19, s.flag 20, s.flag 21,
      s.flag 22, s.flag 18, s.bm].getD k false := by
  interval_cases k <;> rfl

/-- NOT LCE, outside of loops of one or two instructions. -/
theorem cond_notLce {s : State} (h : s.inShortLoop = false) :
    s.cond 15 = decide (s.lat.curlcntr.getD s.curlcntr ≠ 1) := by
  have hc : s.cond 15 = !s.lce := rfl
  rw [hc, State.lce, h, decide_not]
  rfl

/-! ### The Type 2 word (R311) -/

/-- A Type 2 word by its condition and its COMPUTE field. -/
def type2Word (cond : BitVec 5) (w : BitVec 23) : BitVec 48 := 0x01#8 ++ 0#2 ++ cond ++ 0#10 ++ w

theorem computeWord_eq (w : BitVec 23) : computeWord w = type2Word 31 w := rfl

/-- The fields of a Type 2 word. -/
theorem type2Word_fields (cond : BitVec 5) (w : BitVec 23) :
    fld (type2Word cond w) 45 3 = 0#3 ∧ fld (type2Word cond w) 40 5 = 1#5 ∧ fld (type2Word cond w) 33 5 = cond
      ∧ fld (type2Word cond w) 0 23 = w := by
  have above {lo n : Nat} (h : 23 ≤ lo) (hc : 10 ≤ lo - 23) : fld (type2Word cond w) lo n =
      (0x01#8 ++ 0#2 ++ cond).extractLsb' (lo - 23 - 10) n := by
    rw [type2Word, fld, BitVec.extractLsb'_append_eq_of_le h, BitVec.extractLsb'_append_eq_of_le hc]
  refine ⟨?_, ?_, ?_, BitVec.extractLsb'_append_eq_right⟩
  · rw [above (by decide) (by decide), BitVec.extractLsb'_append_eq_of_le (by decide)]; rfl
  · rw [above (by decide) (by decide), BitVec.extractLsb'_append_eq_of_le (by decide)]; rfl
  · exact (above (by decide) (by decide)).trans BitVec.extractLsb'_append_eq_right

/-- A Type 2 word decodes as its COMPUTE field does, an unconditional one to the row of the operation. -/
theorem decode_type2Word (cond : BitVec 5) (w : BitVec 23) : decode (type2Word cond w) =
    (orElse (decodeCompute w) .undefinedCompute).map
      fun c => if cond = 31 then Instr.ofCompute c else .compute cond c := by
  obtain ⟨top, op, condField, field⟩ := type2Word_fields cond w
  simp only [decode, top, if_true, decodeGroup0, op]
  rw [if_neg (by decide), decodeType2, withCompute, condField, field]
  rfl

theorem decode_type2Word_ok {cond : BitVec 5} {w : BitVec 23} {i : Instr} (h : decode (type2Word cond w) = .ok i) :
    ∃ c, decodeCompute w = some c ∧ i = if cond = 31 then Instr.ofCompute c else .compute cond c := by
  rw [decode_type2Word] at h
  cases hw : decodeCompute w with
  | none => rw [hw] at h; cases h
  | some c => rw [hw] at h; exact ⟨c, rfl, (Except.ok.inj h).symm⟩

/-- With the same COMPUTE field the unconditional word stands for the operation of a conditional one. -/
theorem decode_computeWord_of_compute {cond : BitVec 5} {w : BitVec 23} {c : Compute} {i : Instr} (hc : cond ≠ 31)
    (h : decode (type2Word cond w) = .ok (.compute cond c)) (hi : decode (computeWord w) = .ok i) :
    i = Instr.ofCompute c := by
  obtain ⟨c₁, h₁, e₁⟩ := decode_type2Word_ok h
  obtain ⟨c₂, h₂, e₂⟩ := decode_type2Word_ok (computeWord_eq w ▸ hi)
  rw [if_neg hc, Instr.compute.injEq] at e₁
  rw [if_pos rfl] at e₂
  rw [e₂, e₁.2, Option.some.inj (h₁.symm.trans h₂)]

/-! ### The operation (R300) -/

/-- Every operation has a row of its own, but for the field without one. -/
theorem toCompute_ofCompute {c : Compute} (hc : c ≠ .none) : (Instr.ofCompute c).toCompute = some c := by
  cases c with
  | none => exact absurd rfl hc
  | alu op | flt op | mul op | shift op => cases op <;> rfl
  | dualAlu | dualFlt | mulDualAlu | mulDualFlt => rfl
  | mrRead mr | mrWrite mr => cases mr <;> rfl
  | mulAlu mop aop => cases mop <;> cases aop <;> rfl
  | mulFlt aop => cases aop <;> rfl

theorem exec_ofCompute (c : Compute) (s : State) : exec (Instr.ofCompute c) s = .next (s.compute c) := by
  by_cases hc : c = .none
  · subst hc; exact (compute_computed s .none).1
  · exact exec_of_toCompute (toCompute_ofCompute hc) s

theorem exec_compute_true {s : State} {cond : BitVec 5} (hc : s.cond cond = true) (c : Compute) :
    exec (.compute cond c) s = .next ((s.noteCond cond).compute c) := by
  rw [exec_compute, given_true hc]; rfl

theorem exec_compute_false {s : State} {cond : BitVec 5} (hc : s.cond cond = false) (c : Compute) :
    exec (.compute cond c) s = .next (s.noteCond cond) := by
  rw [exec_compute, finish_given_false hc]

end Sys2Proof.Machine

open Sys2Proof Sys2Proof.Machine

/-- Settles O35: the codes are those of `cond_basic`, and a conditional word does what `exec_ofCompute` says of its row. -/
theorem conditionalCompute : Obligations.ConditionalCompute := by
  intro s cond c
  refine ⟨⟨fun k hk => ?_, rfl, fun hl => ?_⟩, fun w i hcond hw hi => ?_, fun hc => ?_, fun hc => exec_compute_false hc c⟩
  · obtain ⟨basic, complement⟩ := cond_basic s hk
    exact ⟨basic.trans (basicCond_ofNat s hk), complement.trans (congrArg _ (basicCond_ofNat s hk))⟩
  · rw [cond_notLce hl, curlcntr_eq]
  · rw [decode_computeWord_of_compute hcond hw hi, exec_ofCompute]
    split
    · next hc => exact exec_compute_true hc c
    · next hc => exact exec_compute_false (Bool.not_eq_true _ ▸ hc) c
  · exact ⟨_, exec_compute_true hc c, compute_frame (s.noteCond cond) c⟩
end

section
/-! A jump with an ELSE: either the branch, or compute with a postmodify transfer on the DM bus (41_program_flow.md R388). -/

namespace Sys2Proof.Machine

theorem exec_jumpIndirectElseMove (d : Bool) (dmi dmm : BitVec 3) (cond : BitVec 5) (pmi pmm : BitVec 3) (r : BitVec 4)
    (c : Compute) (s : State) : exec (.jumpIndirectElseMove d dmi dmm cond pmi pmm r c) s =
    finish s (s.jumpElseMove d dmi dmm cond (s.indirectTarget pmi pmm) r c) := rfl

theorem exec_jumpPcrel6ElseMove (d : Bool) (dmi dmm : BitVec 3) (cond : BitVec 5) (rel : BitVec 6) (r : BitVec 4)
    (c : Compute) (s : State) : exec (.jumpPcrel6ElseMove d dmi dmm cond rel r c) s =
    finish s (s.jumpElseMove d dmi dmm cond (s.rel6Target rel) r c) := rfl

/-! ### Transfers that load -/

/-- A data register takes any value. -/
theorem loadSettable_r (s : State) (g : Bool) (n : BitVec 4) (p : Place) : LoadSettable s g (.r n) p := fun _ _ _ => rfl

/-- A load through an index register that is updated, with a compute operation beside it. -/
theorem indexed_loadDone {s : State} {g : Bool} {u : Ureg} {i : BitVec 3} (mv : BitVec 32) (c : Compute)
    (ok : LoadOk s u (place s.env.id (s.postAddr g i))) (hs : LoadSettable s g u (place s.env.id (s.postAddr g i))) :
    ∃ t, s.indexed true g false u i mv (·.compute c) = .ok t
      ∧ LoadDone s t g u (place s.env.id (s.postAddr g i)) (Computed c) true i mv := by
  obtain ⟨w, x, z, ht, loaded, written⟩ := transfer_load (·.postmodify g i mv) (compute_keeps c) ok hs
  exact ⟨_, ht, w, x, _, z, loaded, compute_computed x c, written, postmodify_updated z g i mv⟩

/-! ### The two outcomes -/

section JumpElseMove

variable {s : State} {d : Bool} {dmi dmm : BitVec 3} {cond : BitVec 5} {target : BitVec 24} {r : BitVec 4} {c : Compute}

/-- With its condition the branch is taken, and the bus is sought for the access that is not made. -/
theorem jumpElseMove_true (hc : s.cond cond = true) : s.jumpElseMove d dmi dmm cond target r c =
    .ok (((s.noteCond cond).branchTo false target).seekBus (s.postAddr false dmi)) := if_pos hc

/-- Without it the instruction is a transfer through an index register. -/
theorem jumpElseMove_false (hc : s.cond cond = false) : s.jumpElseMove d dmi dmm cond target r c =
    (s.noteCond cond).indexed true false d (.r r) dmi (s.dagReg .m false dmm) (·.compute c) := by
  rw [State.jumpElseMove, hc, noteCond_dagReg]; rfl

theorem jumpElseMove_store (h : MemInv s) (hc : s.cond cond = false)
    (ok : StoreOk (s.noteCond cond) false false (place s.env.id (s.postAddr false dmi)) (s.rreg r ++ 0#8)) :
    ∃ t, s.jumpElseMove true dmi dmm cond target r c = .ok t
      ∧ StoreDone (s.noteCond cond) t false false (place s.env.id (s.postAddr false dmi)) (s.rreg r ++ 0#8) (Computed c)
        true dmi (s.dagReg .m false dmm) := by
  rw [jumpElseMove_false hc]
  exact noteCond_indexed_storeDone (up := true) h cond c (storeImage_r s r) ok

theorem jumpElseMove_load (hc : s.cond cond = false)
    (ok : LoadOk (s.noteCond cond) (.r r) (place s.env.id (s.postAddr false dmi))) :
    ∃ t, s.jumpElseMove false dmi dmm cond target r c = .ok t
      ∧ LoadDone (s.noteCond cond) t false (.r r) (place s.env.id (s.postAddr false dmi)) (Computed c) true dmi
        (s.dagReg .m false dmm) := by
  rw [jumpElseMove_false hc]
  rw [← noteCond_env s cond, ← noteCond_postAddr s cond] at ok ⊢
  exact indexed_loadDone _ c ok (loadSettable_r _ _ r _)

end JumpElseMove

end Sys2Proof.Machine

open Sys2Proof Sys2Proof.Machine

/-- Settles O47: both forms are `jumpElseMove` with the target that each names. -/
theorem elseMove : Obligations.ElseMove := by
  intro s d dmi dmm pmi pmm rel cond r c hm u p mv e he
  have exec_e : exec e.1 s = finish s (s.jumpElseMove d dmi dmm cond e.2 r c) := by
    rcases List.mem_pair.mp he with rfl | rfl
    · exact exec_jumpIndirectElseMove ..
    · exact exec_jumpPcrel6ElseMove ..
  refine ⟨fun hc => ?_, fun hc hd ok => ?_, fun hc hd ok => ?_⟩
  · refine completes_of_finish exec_e ⟨_, jumpElseMove_true hc, u.branchTo false e.2, rfl, ?_⟩
    have hid : (u.branchTo false e.2).env.id = s.env.id := congrArg Env.id (noteCond_env s cond)
    exact seekBus_eq hid _
  · subst hd
    exact completes_of_finish exec_e (jumpElseMove_store hm hc ok)
  · subst hd
    exact completes_of_finish exec_e (jumpElseMove_load hc ok)
end

section
/-! Accesses that wait: for the external bus, or for a buffer that is full or empty; and HBR while one is in progress
(20_memory.md R267 to R270; 61_dma_extport.md R733, R745, R753, R760, R777; 62_serial_ports.md R845, R846). -/

namespace Sys2Proof.Machine

/-! ### A direct transfer that does not complete -/

/-- A direct transfer stops where its access stops. -/
theorem exec_uregMemDirect_error {s : State} {g d : Bool} {u : Ureg} {a : BitVec 32} {e : Stop}
    (h : s.access g d u (dagTrunc g a) 1 = .error e) : exec (.uregMemDirect g d u a) s = finish s (.error e) := by
  rw [exec_uregMemDirect, execUregMemDirect, State.transfer, h]

/-- An access of a data register stops where its load stops. -/
theorem access_load_error {s : State} {g : Bool} {u : Ureg} {a : BitVec 32} {site : Nat} {e : Stop}
    (h : s.load g u a site = .error e) : s.access g false u a site = .error e := by
  rw [State.access, h]; rfl

theorem r_ne_px (n : BitVec 4) : decide (Ureg.r n = .px) = false := decide_eq_false (by simp)

/-- And where its store stops. -/
theorem access_store_error {s : State} {g : Bool} {n : BitVec 4} {a : BitVec 32} {site : Nat} {e : Stop}
    (h : s.store g false a (s.rreg n ++ 0#8) = .error e) : s.access g true (.r n) a site = .error e := by
  rw [State.access, storeImage_r, r_ne_px, if_pos rfl]
  simp only [h]

/-- A core that waits for a buffer notes just that. -/
theorem stalled_buffer (s : State) :
    stalled s .buffer = { s with tr.stall := true, iop.hid.coreWait := Wait.buffer } := by
  simp [stalled, Wait.ofBus]

/-- A core that waits for the external bus notes besides that the processor requests it. -/
theorem stalled_extWait (s : State) (remote px : Bool) : stalled s (s.extWait remote px) =
    { s with tr.stall := true, iop.hid.coreWait := s.extWait remote px, iop.hid.busWait := true } := by
  rw [stalled, extWait_ofBus, Bool.or_true]

/-! ### External memory and the other processor -/

/-- Only external memory and the other processor's space, apart from IOP registers, can hold an access up. -/
theorem completes_eq_false {s : State} {px : Bool} {p : Place} (hc : s.completes px p = false) (hi : ∀ r, p ≠ .iop r) :
    p = .remote ∧ s.remoteReady = false ∨ ∃ m, p = .ext m ∧ s.extReady px m = false := by
  cases p with
  | iop r => exact absurd rfl (hi r)
  | remote => exact .inl ⟨rfl, hc⟩
  | ext m => exact .inr ⟨m, rfl, hc⟩
  | reserved | normal | short => cases hc

/-- A load of a data register waits where the bus or ACK is not there. -/
theorem load_waits {s : State} {g : Bool} {n : BitVec 4} {a : BitVec 32} {site : Nat}
    (hc : s.completes false (place s.env.id a) = false) (hi : ∀ r, place s.env.id a ≠ .iop r) :
    s.load g (.r n) a site = .error (.stall (s.extWait (decide (place s.env.id a = .remote)) false)) := by
  rcases completes_eq_false hc hi with ⟨hp, wait⟩ | ⟨m, hp, wait⟩ <;> simp [State.load, hp, wait]

/-- And so does a store. -/
theorem store_waits {s : State} {g : Bool} {a : BitVec 32} (w : BitVec 48)
    (hc : s.completes false (place s.env.id a) = false) (hi : ∀ r, place s.env.id a ≠ .iop r) :
    s.store g false a w = .error (.stall (s.extWait (decide (place s.env.id a = .remote)) false)) := by
  rcases completes_eq_false hc hi with ⟨hp, wait⟩ | ⟨m, hp, wait⟩ <;> simp [State.store, hp, wait]

theorem access_waits {s : State} {g : Bool} (d : Bool) {n : BitVec 4} {a : BitVec 32} {site : Nat}
    (hc : s.completes false (place s.env.id a) = false) (hi : ∀ r, place s.env.id a ≠ .iop r) :
    s.access g d (.r n) a site = .error (.stall (s.extWait (decide (place s.env.id a = .remote)) false)) := by
  cases d with
  | false => exact access_load_error (load_waits hc hi)
  | true => exact access_store_error (store_waits _ hc hi)

/-- While an access of a bus master with an ID is in progress, held off by ACK or aborted by SBTS, HBR waits for its end
unless SBTS is asserted; then it suspends an access of external memory, and one of the other processor is refused (R777). -/
theorem hostBus_during_access {s : State} (hid : s.env.id ≠ 0) (hm : s.busMaster = true) (hl : s.busLock = false)
    (hd : s.dmaInBus = false) (hb : s.iop.hid.coreWait.begun = true) :
    s.hostBus true =
      if s.env.sbts = false then .ok none
      else if s.iop.hid.coreWait.transfer then refuse .sbtsTransfer else .ok (some { s with iop.sys.hstm := true }) := by
  have synced : s.iop.sys.bsyn = true := by
    simp only [State.busMaster, decide_eq_false hid, Bool.false_or, Bool.and_eq_true] at hm
    exact hm.1.1
  have held : (s.busMaster && (s.busLock || s.inProgress) || !s.iop.sys.bsyn) = !s.env.sbts := by
    simp [State.inProgress, hm, hl, hd, hb, synced]
  rw [State.hostBus]
  simp only [decide_eq_true hid, Bool.true_and, if_true, held, Bool.not_eq_true']

theorem event_hostBus {s : State} (h : s.pipe.mode ≠ .idle16) (on : Bool) : s.event (.hostBus on) = s.hostBus on := by
  simp [State.event, h]

/-! ### Registers of the I/O processor -/

/-- The first 256 addresses are those of the processor's own IOP registers, on either bus (R202). -/
theorem place_dagTrunc_iop (id : BitVec 2) (g : Bool) {a : BitVec 32} (h : a.toNat < 0x100) :
    place id (dagTrunc g a) = .iop (a.extractLsb' 0 8) := by
  have ha : dagTrunc g a = a := by
    cases g with
    | false => rfl
    | true =>
      apply BitVec.eq_of_toNat_eq
      rw [dagTrunc_true, BitVec.toNat_setWidth, BitVec.toNat_setWidth]
      omega
  rw [ha]
  exact if_pos h

section IopAccess

variable {s : State} {g : Bool} {n : BitVec 4} {a : BitVec 32} {e : Stop}

/-- A direct load stops where the read of its register stops. -/
theorem exec_load_iop_error (ha : a.toNat < 0x100) (h : s.readReg false (a.extractLsb' 0 8) 1 = .error e) :
    exec (.uregMemDirect g false (.r n) a) s = finish s (.error e) := by
  refine exec_uregMemDirect_error (access_load_error ?_)
  rw [State.load, place_dagTrunc_iop _ g ha, r_ne_px]
  simp only [h]

/-- A direct store stops where the write of its register stops. -/
theorem exec_store_iop_error (ha : a.toNat < 0x100)
    (h : s.writeReg false false (a.extractLsb' 0 8) (s.rreg n ++ 0#8) = .error e) :
    exec (.uregMemDirect g true (.r n) a) s = finish s (.error e) := by
  refine exec_uregMemDirect_error (access_store_error ?_)
  rw [State.store, place_dagTrunc_iop _ g ha]
  exact h

end IopAccess

section Buffers

variable {s : State} {x : Bool}

theorem readReg_epb (s : State) (x px : Bool) (site : Nat) :
    s.readReg px (if x then 5 else 4) site = s.readEpb x px site := by cases x <;> rfl

theorem writeReg_epb (s : State) (x outside : Bool) (w : BitVec 48) :
    s.writeReg outside false (if x then 5 else 4) w = s.writeEpb x false (image32 (w.extractLsb' 16 32)) := by
  cases x <;> rfl

/-- A buffer that DMA does not use is accessed once what the access depends on is in effect for certain. -/
theorem readEpb_unsure {px : Bool} {site : Nat} (hd : (s.iop.ep x).den = false) (hr : (s.chan (epChan x)).run = false)
    (hu : (s.iop.ep x).unsureFor px = true) : s.readEpb x px site = refuse .dmacLatency := by
  simp [State.readEpb, hd, hr, hu]

theorem writeEpb_unsure {px : Bool} {w : BitVec 48} (hd : (s.iop.ep x).den = false)
    (hr : (s.chan (epChan x)).run = false) (hu : (s.iop.ep x).unsureFor px = true) :
    s.writeEpb x px w = refuse .dmacLatency := by
  simp [State.writeEpb, hd, hr, hu]

theorem readEpb_empty {px : Bool} {site : Nat} (hd : (s.iop.ep x).den = false) (hr : (s.chan (epChan x)).run = false)
    (hu : (s.iop.ep x).unsureFor px = false) (hf : (s.iop.ep x).fifo = []) (hb : s.bhd = false) :
    s.readEpb x px site = .error (.stall .buffer) := by
  simp [State.readEpb, hd, hr, hu, hf, hb]

theorem writeEpb_full {px : Bool} {w : BitVec 48} (hd : (s.iop.ep x).den = false) (hr : (s.chan (epChan x)).run = false)
    (hu : (s.iop.ep x).unsureFor px = false) (hf : 6 ≤ (s.iop.ep x).fifo.length) (hb : s.bhd = false) :
    s.writeEpb x px w = .error (.stall .buffer) := by
  have room : (s.iop.ep x).room = false := decide_eq_false (Nat.not_lt.mpr hf)
  simp [State.writeEpb, hd, hr, hu, room, hb]

/-- The queue of a serial port buffer: of RXx_z (`rx`) or TXx_z. -/
def Sport.queueOf (p : Sport) (rx z : Bool) : List SportWord := if rx then (p.rx z).queue else (p.tx z).queue

@[simp] theorem queueOf_rx (p : Sport) (z : Bool) : p.queueOf true z = (p.rx z).queue := rfl
@[simp] theorem queueOf_tx (p : Sport) (z : Bool) : p.queueOf false z = (p.tx z).queue := rfl

theorem readQueue_empty {q : List SportWord} {site : Nat} (hq : q = []) (hb : s.bhd = false) :
    readQueue s site q = .error (.stall .buffer) := by
  simp [readQueue, hq, hb]

theorem writeQueue_full {q : List SportWord} (hq : 2 ≤ q.length) (hb : s.bhd = false) (w : SportWord) :
    writeQueue s q w = .error (.stall .buffer) := by
  simp [writeQueue, Nat.not_lt.mpr hq, hb]

theorem readBuffer_empty {rx z : Bool} {site : Nat} (hq : (s.iop.sport x).queueOf rx z = []) (hb : s.bhd = false) :
    s.readBuffer x rx z site = .error (.stall .buffer) := by
  cases rx with
  | false => simp [State.readBuffer, readQueue_empty (queueOf_tx .. ▸ hq) hb]
  | true => simp [State.readBuffer, readQueue_empty (queueOf_rx .. ▸ hq) hb]

theorem writeBuffer_full {rx z : Bool} {w : BitVec 32} (hq : 2 ≤ ((s.iop.sport x).queueOf rx z).length)
    (hb : s.bhd = false) : s.writeBuffer x rx z w = .error (.stall .buffer) := by
  cases rx with
  | false => simp [State.writeBuffer, writeQueue_full (queueOf_tx .. ▸ hq) hb]
  | true => simp [State.writeBuffer, writeQueue_full (queueOf_rx .. ▸ hq) hb]

/-- The address of a serial port buffer (62_serial_ports.md R832). -/
def bufferAddr (x rx z : Bool) : BitVec 32 := (if x then 0xF2 else 0xE2) + (if z then 12 else 0) + if rx then 1 else 0

theorem iopRegAt_bufferAddr (x rx z : Bool) : iopRegAt ((bufferAddr x rx z).extractLsb' 0 8) = .buffer x rx z := by
  cases x <;> cases rx <;> cases z <;> rfl

theorem readReg_buffer_empty {rx z px : Bool} {site : Nat} (hq : (s.iop.sport x).queueOf rx z = []) (hb : s.bhd = false) :
    s.readReg px ((bufferAddr x rx z).extractLsb' 0 8) site = .error (.stall .buffer) := by
  simp only [State.readReg, iopRegAt_bufferAddr, readBuffer_empty hq hb]

theorem writeReg_buffer_full {rx z outside px : Bool} {w : BitVec 48}
    (hq : 2 ≤ ((s.iop.sport x).queueOf rx z).length) (hb : s.bhd = false) :
    s.writeReg outside px ((bufferAddr x rx z).extractLsb' 0 8) w = .error (.stall .buffer) := by
  simp only [State.writeReg, iopRegAt_bufferAddr, writeBuffer_full hq hb]

end Buffers

end Sys2Proof.Machine

open Sys2Proof Sys2Proof.Machine

/-- Settles O55: each of these accesses stops before it has any effect, and what a stopped instruction leaves is its wait. -/
theorem accessesThatWait : Obligations.AccessesThatWait := by
  intro s g d n a i sportAddr p waiting
  have wait : finish s (.error (.stall .buffer)) = .next waiting := congrArg _ (stalled_buffer s)
  refine ⟨fun hc hi => ?_, fun hmode hid hm hl hd remote hw => ?_, fun hb => ⟨fun x hden hrun => ?_, fun x rx z => ?_⟩⟩
  · exact (exec_uregMemDirect_error (access_waits d hc hi)).trans (congrArg _ (stalled_extWait ..))
  · have begun : s.iop.hid.coreWait.begun = true := by rcases hw with hw | hw <;> rw [hw] <;> rfl
    have transfer : s.iop.hid.coreWait.transfer = remote := by rcases hw with hw | hw <;> rw [hw] <;> rfl
    rw [event_hostBus hmode, hostBus_during_access hid hm hl hd begun, transfer]
    rfl
  · intro at_ unsure
    have low : at_.toNat < 0x100 := by cases x <;> decide
    have reg : at_.extractLsb' 0 8 = if x then 5 else 4 := by cases x <;> rfl
    have need : (s.iop.ep x).unsureFor false = unsure := by simp [ExtPort.unsureFor, unsure]
    have read := readReg_epb s x false 1
    have write := writeReg_epb s x false (s.rreg n ++ 0#8)
    refine ⟨fun hu => ?_, fun hu hf => ?_, fun hu hf => ?_⟩
    · cases d with
      | false =>
        exact exec_load_iop_error low (reg ▸ read.trans (readEpb_unsure hden hrun (need.trans hu)))
      | true => exact exec_store_iop_error low (reg ▸ write.trans (writeEpb_unsure hden hrun (need.trans hu)))
    · exact (exec_load_iop_error low (reg ▸ read.trans (readEpb_empty hden hrun (need.trans hu) hf hb))).trans wait
    · exact (exec_store_iop_error low (reg ▸ write.trans (writeEpb_full hden hrun (need.trans hu) hf hb))).trans wait
  · intro q
    have low : (bufferAddr x rx z).toNat < 0x100 := by cases x <;> cases rx <;> cases z <;> decide
    exact ⟨fun hq => (exec_load_iop_error low (readReg_buffer_empty hq hb)).trans wait,
      fun hq => (exec_store_iop_error low (writeReg_buffer_full hq hb)).trans wait⟩
end

section
/-! The registers of the I/O processor that hold what the core writes, each in its width, and those that ignore it
(11_state_iop.md R121, R122, R136, R145, R165; 62_serial_ports.md R832; 61_dma_extport.md R733; 92_eei_decisions.md D11, D13). -/

namespace Sys2Proof.Machine

/-! ### Transfers of a data register at an address of the I/O processor -/

/-- The register that an address of the I/O processor names. -/
def regOf (a : BitVec 32) : IopReg := iopRegAt (a.extractLsb' 0 8)

section Transfer

variable {s t : State} {g : Bool} {n : BitVec 4} {a : BitVec 32}

/-- The bus image of a data register carries its 32-bit value in bits 47:16. -/
theorem extractLsb'_rreg (s : State) (n : BitVec 4) : (s.rreg n ++ 0#8).extractLsb' 16 32 = s.rfix n := by
  rw [BitVec.extractLsb'_append_eq_of_le (by decide)]; rfl

/-- A direct store is the write of the register. -/
theorem exec_store_iop (ha : a.toNat < 0x100)
    (h : s.writeReg false false (a.extractLsb' 0 8) (s.rreg n ++ 0#8) = .ok t) :
    exec (.uregMemDirect g true (.r n) a) s = .next t := by
  have stored : s.store g (decide (Ureg.r n = .px)) (dagTrunc g a) (s.rreg n ++ 0#8) = .ok t := by
    rw [r_ne_px, State.store, place_dagTrunc_iop _ g ha]; exact h
  rw [exec_uregMemDirect, execUregMemDirect, State.transfer, State.access, if_pos rfl, storeImage_r]
  simp only [stored]
  rfl

/-- The 32 bits of a register reach the data register with its low eight bits 0. -/
theorem loadWrite_image32 (s : State) (n : BitVec 4) (v : BitVec 32) :
    s.loadWrite (.r n) (image32 v) = .ok (s.setRreg n (v ++ 0#8)) := by
  have bits : (image32 v).extractLsb' 8 40 = v ++ 0#8 := by
    rw [image32, BitVec.extractLsb'_append_eq_ite]; simp
  rw [State.loadWrite, if_neg (by simp), bits]; rfl

/-- A direct load of a 32-bit register brings its value. -/
theorem exec_load_iop {v : BitVec 32} (ha : a.toNat < 0x100)
    (h : s.readReg false (a.extractLsb' 0 8) 1 = .ok (image32 v, t)) :
    exec (.uregMemDirect g false (.r n) a) s = .next (t.setRreg n (v ++ 0#8)) := by
  have loaded : s.load g (.r n) (dagTrunc g a) 1 = .ok (image32 v, t) := by
    rw [State.load, place_dagTrunc_iop _ g ha, r_ne_px]
    simp only [h, if_neg (by simp : ¬Ureg.r n = .px)]
    rw [image32, image32, BitVec.extractLsb'_append_eq_left]
  rw [exec_uregMemDirect, execUregMemDirect, State.transfer, State.access, if_neg Bool.false_ne_true, loaded]
  simp only [id, State.settle, loadWrite_image32]
  rfl

end Transfer

/-! ### The parts of the I/O processor after a write -/

theorem get_set_self {α : Type} {n : Nat} (v : Vector α n) (k : Fin n) (x : α) : (v.set k.val x k.isLt).get k = x :=
  Vector.getElem_set_self ..

@[simp] theorem chan_setChan (s : State) (c : Fin 10) (d : DmaChannel) : (s.setChan c d).chan c = d := get_set_self ..

@[simp] theorem ep_setEp (s : State) (x : Bool) (e : ExtPort) : (s.setEp x e).iop.ep x = e := by cases x <;> rfl

@[simp] theorem sport_setSport (s : State) (x : Bool) (p : Sport) : (s.setSport x p).iop.sport x = p := by cases x <;> rfl

@[simp] theorem timer_setTimer (s : State) (x : Bool) (t : Timer) : (s.setTimer x t).iop.timer x = t := by cases x <;> rfl

/-! ### Registers that keep all their bits -/

/-- The register at an address keeps of a word that the core writes the bits `m`, and nothing outside the I/O processor
changes. -/
def State.Keeps (s : State) (r : BitVec 8) (m : BitVec 32) : Prop :=
  ∀ w, ∃ t, s.writeReg false false r w = .ok t ∧ t = { s with iop := t.iop }
    ∧ t.readReg false r 1 = .ok (image32 (w.extractLsb' 16 32 &&& m), t)

/-- A register that is nothing but storage of 32 bits. -/
def IopReg.isPlain : IopReg → Bool
  | .wait | .virpt | .bmax | .sdrdiv | .msgr _ => true
  | .sport _ r => decide (r ≠ .stctl ∧ r ≠ .srctl)
  | _ => false

/-- The registers of a serial port but for its control registers are such storage. -/
theorem writeSport_plain {s : State} {x : Bool} {q : SportReg} (hq : q ≠ .stctl ∧ q ≠ .srctl) (v : BitVec 32) :
    ∃ p, s.writeSport x q v = .ok (s.setSport x p) ∧ p.reg q = v := by
  cases q with
  | stctl => exact absurd rfl hq.1
  | srctl => exact absurd rfl hq.2
  | _ => exact ⟨_, rfl, rfl⟩

theorem keeps_plain {s : State} {r : BitVec 8} (h : (iopRegAt r).isPlain = true) : s.Keeps r 0xFFFFFFFF := by
  intro w
  have all : w.extractLsb' 16 32 &&& 0xFFFFFFFF = w.extractLsb' 16 32 := BitVec.and_allOnes
  rw [all]
  unfold State.writeReg State.readReg
  cases hr : iopRegAt r with
  | wait | virpt | bmax | sdrdiv => exact ⟨_, rfl, rfl, rfl⟩
  | msgr k => exact ⟨_, rfl, rfl, by simp only [get_set_self]⟩
  | sport x q =>
    rw [hr] at h
    obtain ⟨p, written, kept⟩ := writeSport_plain (s := s) (x := x) (of_decide_eq_true h) (w.extractLsb' 16 32)
    exact ⟨_, written, setSport_rest .., by simp only [sport_setSport, kept]⟩
  | _ => simp [hr, IopReg.isPlain] at h

/-- The period and the width of a timer that is disabled (R165). -/
theorem keeps_timer {s : State} {r : BitVec 8} {x : Bool} {q : TimerReg} (hr : iopRegAt r = .timer x q) (hq : q ≠ .count)
    (off : s.lat.mode2.getLsbD (if x then 11 else 5) = false) : s.Keeps r 0xFFFFFFFF := by
  intro w
  have all : w.extractLsb' 16 32 &&& 0xFFFFFFFF = w.extractLsb' 16 32 := BitVec.and_allOnes
  have written : ∃ y, s.writeTimer x q (w.extractLsb' 16 32) = .ok (s.setTimer x y) ∧ y.reg q = w.extractLsb' 16 32 := by
    cases q with
    | count => exact absurd rfl hq
    | period | width => exact ⟨_, by simp only [State.writeTimer, off]; rfl, rfl⟩
  obtain ⟨y, written, kept⟩ := written
  refine ⟨s.setTimer x y, ?_, writeTimer_rest written, ?_⟩
  · simp only [State.writeReg, hr, written]
  · simp only [State.readReg, hr, timer_setTimer, kept, all]

/-! ### DMA parameter registers (R145; 61_dma_extport.md R733) -/

/-- The bits that a parameter register has (R145; D11). -/
def DmaParam.mask : DmaParam → BitVec 32
  | .ii | .gp => 0x0001FFFF
  | .im | .c => 0x0000FFFF
  | .cp => 0x0003FFFF
  | .ei | .em | .ec => 0xFFFFFFFF

theorem setWidth_setWidth_eq_and (k : Nat) (v : BitVec 32) :
    (v.setWidth k).setWidth 32 = v &&& (BitVec.allOnes k).setWidth 32 := by
  apply BitVec.eq_of_getLsbD_eq
  intro i hi
  simp only [BitVec.getLsbD_setWidth, BitVec.getLsbD_and, BitVec.getLsbD_allOnes, hi, decide_true, Bool.true_and]
  rw [Bool.and_comm]

/-- A parameter register reads as it was stored; the modifier of channels 0 to 7 is fixed. -/
theorem dmaParam_setDmaParam (s : State) {c : Fin 10} {q : DmaParam} (h : q = .im → 8 ≤ c.val) (v : BitVec 32) :
    (s.setDmaParam c q v).dmaParam c q = v &&& q.mask := by
  cases q with
  | im =>
    have hc : ¬c.val < 8 := Nat.not_lt.mpr (h rfl)
    simp only [State.setDmaParam, if_neg hc, State.dmaParam, chan_setChan]
    exact setWidth_setWidth_eq_and 16 v
  | ei | em | ec =>
    simp only [State.setDmaParam, State.dmaParam, ep_setEp]
    exact BitVec.and_allOnes.symm
  | ii | c | cp | gp =>
    simp only [State.setDmaParam, State.dmaParam, chan_setChan]
    exact setWidth_setWidth_eq_and _ v

/-- The start of a chain leaves the chain pointer. -/
theorem dmaParam_chainStart (s : State) (c : Fin 10) : (s.chainStart c).dmaParam c .cp = s.dmaParam c .cp := by
  unfold State.chainStart
  dsimp only
  split <;> simp [State.dmaParam]

/-- What writes of DMACx have changed is in effect. -/
def ExtPort.settled (e : ExtPort) : Prop := e.dmacNew = 0 ∧ e.dmacPrev = 0 ∧ e.dmacOld = 0

theorem ExtPort.settled.unsure {e : ExtPort} (h : e.settled) (k : Nat) : e.unsure k = false := by
  obtain ⟨new, prev, old⟩ := h
  simp [ExtPort.unsure, new, prev, old]

/-- No chain is started by old bits of DMACx alone. -/
theorem chainUnsure_settled {s : State} {c : Fin 10} (h : 8 ≤ c.val → (s.iop.ep (chanB c)).settled) :
    s.chainUnsure c = false := by
  by_cases hc : 8 ≤ c.val
  · have hu := (h hc).unsure
    simp only [State.chainUnsure, hu, Bool.or_false]
    cases (s.iop.ep (chanB c)).den <;> cases (s.iop.ep (chanB c)).chen <;> simp
  · simp [State.chainUnsure, hc]

/-- A parameter register is written where no old bits of DMACx count; the general-purpose register always is. -/
theorem writeParam_settled {s : State} {c : Fin 10} {q : DmaParam}
    (h : q ≠ .gp → 8 ≤ c.val → (s.iop.ep (chanB c)).settled) (v : BitVec 32) :
    ∃ t, s.writeParam c q v = .ok t ∧ t.dmaParam c q = (s.setDmaParam c q v).dmaParam c q := by
  have sure (hq : q ≠ .gp) : (decide (8 ≤ c.val) && (s.iop.ep (chanB c)).den && (s.iop.ep (chanB c)).unsure 0) = false := by
    by_cases hc : 8 ≤ c.val
    · rw [(h hq hc).unsure, Bool.and_false]
    · rw [decide_eq_false hc]; rfl
  cases q with
  | gp => exact ⟨_, rfl, rfl⟩
  | cp =>
    have started : (s.setDmaParam c .cp v).chainUnsure c = false := chainUnsure_settled (h (by decide))
    exact ⟨_, by simp only [State.writeParam, started]; rfl, dmaParam_chainStart ..⟩
  | _ => exact ⟨_, by simp only [State.writeParam, sure (by decide)]; rfl, rfl⟩

theorem keeps_dma {s : State} {r : BitVec 8} {c : Fin 10} {q : DmaParam} (hr : iopRegAt r = .dma c q)
    (fixed : q = .im → 8 ≤ c.val) (h : q ≠ .gp → 8 ≤ c.val → (s.iop.ep (chanB c)).settled) : s.Keeps r q.mask := by
  intro w
  obtain ⟨t, written, kept⟩ := writeParam_settled h (w.extractLsb' 16 32)
  refine ⟨t, ?_, writeParam_rest written, ?_⟩
  · simp only [State.writeReg, hr, written]
  · simp only [State.readReg, hr, kept, dmaParam_setDmaParam s fixed]

/-! ### What the statements say of such registers -/

/-- The register at the address of a pair keeps the bits of its mask. -/
def State.KeepsAt (s : State) (p : BitVec 32 × BitVec 32) : Prop :=
  p.1.toNat < 0x100 ∧ s.Keeps (p.1.extractLsb' 0 8) p.2

/-- A store leaves its value where a load finds it. -/
theorem store_load_of_keepsAt {s : State} {p : BitVec 32 × BitVec 32} (h : s.KeepsAt p) (g : Bool) (n k : BitVec 4) :
    ∃ t u, exec (.uregMemDirect g true (.r n) p.1) s = .next t ∧ t = { s with iop := t.iop }
      ∧ exec (.uregMemDirect g false (.r k) p.1) t = .next u ∧ u.rreg k = (s.rfix n &&& p.2) ++ 0#8 := by
  obtain ⟨low, keeps⟩ := h
  obtain ⟨t, written, rest, read⟩ := keeps (s.rreg n ++ 0#8)
  rw [extractLsb'_rreg] at read
  exact ⟨t, _, exec_store_iop low written, rest, exec_load_iop low read, setRreg_rreg_same ..⟩

/-- A pair names a register that is storage of 32 bits. -/
def namesPlain (p : BitVec 32 × BitVec 32) : Bool :=
  decide (p.1.toNat < 0x100 ∧ (regOf p.1).isPlain = true ∧ p.2 = 0xFFFFFFFF)

/-- A pair names the period or the width of a timer. -/
def namesTimer (x : Bool) (p : BitVec 32 × BitVec 32) : Bool :=
  decide (p.1.toNat < 0x100 ∧ (∃ q ∈ [TimerReg.period, .width], regOf p.1 = .timer x q) ∧ p.2 = 0xFFFFFFFF)

/-- A pair names one of the parameter registers `qs` of the channel, and the bits it has. -/
def namesParam (c : Fin 10) (qs : List DmaParam) (p : BitVec 32 × BitVec 32) : Bool :=
  decide (p.1.toNat < 0x100 ∧ ∃ q ∈ qs, regOf p.1 = .dma c q ∧ p.2 = q.mask)

/-- The parameter registers of a serial channel that are no fixed modifier. -/
def serialParams : List DmaParam := [.ii, .c, .cp, .gp]

/-- A pair names such a register of a channel of a serial port. -/
def namesSerialParam (p : BitVec 32 × BitVec 32) : Bool :=
  decide (∃ c : Fin 10, c.val < 8 ∧ namesParam c serialParams p = true)

/-- The parameter registers of a channel of an external port buffer, but for the general-purpose one. -/
def externalParams : List DmaParam := [.ii, .im, .c, .cp, .ei, .em, .ec]

section KeepsAt

variable {s : State} {p : BitVec 32 × BitVec 32}

theorem keepsAt_plain (hp : namesPlain p = true) : s.KeepsAt p := by
  obtain ⟨low, reg, mask⟩ := of_decide_eq_true hp
  exact ⟨low, mask ▸ keeps_plain reg⟩

theorem keepsAt_timer {x : Bool} (hp : namesTimer x p = true) (off : s.lat.mode2.getLsbD (if x then 11 else 5) = false) :
    s.KeepsAt p := by
  obtain ⟨low, ⟨q, hq, reg⟩, mask⟩ := of_decide_eq_true hp
  exact ⟨low, mask ▸ keeps_timer reg (fun e => absurd (e ▸ hq) (by decide)) off⟩

theorem keepsAt_serialParam (hp : namesSerialParam p = true) : s.KeepsAt p := by
  obtain ⟨c, hc, names⟩ := of_decide_eq_true hp
  obtain ⟨low, q, hq, reg, mask⟩ := of_decide_eq_true names
  exact ⟨low, mask ▸ keeps_dma reg (fun e => absurd (e ▸ hq) (by decide)) fun _ h => absurd hc (Nat.not_lt.mpr h)⟩

/-- The general-purpose register of any channel. -/
theorem keepsAt_gp {c : Fin 10} (hp : namesParam c [.gp] p = true) : s.KeepsAt p := by
  obtain ⟨low, q, hq, reg, mask⟩ := of_decide_eq_true hp
  cases List.mem_singleton.mp hq
  exact ⟨low, mask ▸ keeps_dma reg (fun e => absurd e (by decide)) fun h => absurd rfl h⟩

/-- The channel of an external port buffer has the buffer's number. -/
theorem chanB_epChan (x : Bool) : chanB (epChan x) = x := by cases x <;> rfl

theorem keepsAt_externalParam {x : Bool} (hp : namesParam (epChan x) externalParams p = true)
    (settled : (s.iop.ep x).settled) : s.KeepsAt p := by
  obtain ⟨low, q, _, reg, mask⟩ := of_decide_eq_true hp
  have ext : 8 ≤ (epChan x).val := by cases x <;> decide
  exact ⟨low, mask ▸ keeps_dma reg (fun _ => ext) fun _ _ => (chanB_epChan x).symm ▸ settled⟩

end KeepsAt

/-- The registers that ignore writes (D13). -/
def IopReg.isReadOnly : IopReg → Bool
  | .systat | .bcnt | .dmastat | .timer _ .count => true
  | _ => false

theorem writeReg_readOnly (s : State) {r : BitVec 8} (h : (iopRegAt r).isReadOnly = true) (outside px : Bool) (w : BitVec 48) :
    s.writeReg outside px r w = .ok s := by
  unfold State.writeReg
  cases hr : iopRegAt r with
  | systat | bcnt | dmastat => rfl
  | timer x q =>
    cases q with
    | count => rfl
    | period | width => simp [hr, IopReg.isReadOnly] at h
  | _ => simp [hr, IopReg.isReadOnly] at h

end Sys2Proof.Machine

open Sys2Proof Sys2Proof.Machine

/-- Settles O45: the registers of each list are of a kind that `Keeps` what is written, those of the last one read-only. -/
theorem iopRegistersHoldWhatIsWritten : Obligations.IopRegistersHoldWhatIsWritten := by
  intro s n k plain dma external timers
  have plain_keeps : ∀ p ∈ plain, s.KeepsAt p := fun p hp =>
    keepsAt_plain (List.all_eq_true.mp (by decide) p hp)
  have dma_keeps : ∀ p ∈ dma, s.KeepsAt p := fun p hp =>
    keepsAt_serialParam (List.all_eq_true.mp (by decide) p hp)
  have external_keeps (x : Bool) : ∀ p ∈ external (if x then 0x48 else 0x40) (s.iop.ep x), s.KeepsAt p := by
    intro p hp
    rcases List.mem_cons.mp hp with rfl | hp
    · exact keepsAt_gp (c := epChan x) (by cases x <;> decide)
    · split at hp
      · next settled => exact keepsAt_externalParam (List.all_eq_true.mp (by cases x <;> decide) p hp) settled
      · cases hp
  have timers_keep : ∀ p ∈ timers, s.KeepsAt p := by
    intro p hp
    rcases List.mem_append.mp hp with hp | hp <;> split at hp
    · cases hp
    · next off => exact keepsAt_timer (x := false) (List.all_eq_true.mp (by decide) p hp) (Bool.not_eq_true _ ▸ off)
    · cases hp
    · next off => exact keepsAt_timer (x := true) (List.all_eq_true.mp (by decide) p hp) (Bool.not_eq_true _ ▸ off)
  refine ⟨fun p hp g => store_load_of_keepsAt ?_ g n k, fun a ha g => ?_⟩
  · simp only [List.mem_append] at hp
    rcases hp with (((hp | hp) | hp) | hp) | hp
    · exact plain_keeps p hp
    · exact dma_keeps p hp
    · exact external_keeps false p hp
    · exact external_keeps true p hp
    · exact timers_keep p hp
  · have table : ([(0x03 : BitVec 32), 0x19, 0x37, 0x2A, 0x2D].all fun a =>
        decide (a.toNat < 0x100 ∧ (regOf a).isReadOnly = true)) = true := by decide
    obtain ⟨low, reg⟩ := of_decide_eq_true (List.all_eq_true.mp table a ha)
    exact exec_store_iop low (writeReg_readOnly s reg _ _ _)
end

section
/-! Encoding and decoding: the fields of a word made by concatenation, the tables of codes, and the round trip
(30_encoding.md sections 2 to 7). -/

namespace Sys2Proof

/-! ### Fields of a concatenation -/

@[simp] theorem extract_append_high {v w lo n : Nat} (x : BitVec v) (y : BitVec w) (h : w ≤ lo) :
    @BitVec.extractLsb' (no_index (v + w)) lo n (x ++ y) = x.extractLsb' (lo - w) n :=
  BitVec.extractLsb'_append_eq_of_le h

@[simp] theorem extract_append_low {v w lo n : Nat} (x : BitVec v) (y : BitVec w) (h : lo ≤ w) (hn : n ≤ w - lo) :
    @BitVec.extractLsb' (no_index (v + w)) lo n (x ++ y) = y.extractLsb' lo n :=
  BitVec.extractLsb'_append_eq_of_add_le (by omega)

@[simp] theorem bit_append_high {v w i : Nat} (x : BitVec v) (y : BitVec w) (h : w ≤ i) :
    @BitVec.getLsbD (no_index (v + w)) (x ++ y) i = x.getLsbD (i - w) := by
  rw [BitVec.getLsbD_append, if_neg (by omega)]

@[simp] theorem bit_append_low {v w i : Nat} (x : BitVec v) (y : BitVec w) (h : i < w) :
    @BitVec.getLsbD (no_index (v + w)) (x ++ y) i = y.getLsbD i := by
  rw [BitVec.getLsbD_append, if_pos h]

@[simp] theorem bit_ofBool (b : Bool) : (BitVec.ofBool b).getLsbD 0 = b := by simp

/-! ### The tables of codes -/

@[simp] theorem decodeUreg_encodeUreg (u : Ureg) : decodeUreg (encodeUreg u) = some u := by
  cases u with
  | r n | i n | m n | l n | b n => simp [decodeUreg, encodeUreg, -Nat.reduceAdd]
  | _ => decide

@[simp] theorem decodeSreg_encodeSreg (r : Sreg) : decodeSreg (encodeSreg r) = some r := by cases r <;> decide

theorem find_aluOp (op : AluOp) : allAluOps.find? (fun o => o.code == op.code) = some op := by cases op <;> decide

theorem find_fltOp (op : FltOp) : allFltOps.find? (fun o => o.code == op.code) = some op := by cases op <;> decide

theorem find_shiftOp (op : ShiftOp) : allShiftOps.find? (fun o => o.code == op.code) = some op := by
  cases op <;> decide

theorem find_shiftImmOp (op : ShiftImmOp) : allShiftImmOps.find? (fun o => o.code == op.code) = some op := by
  cases op <;> decide

theorem find_mrReg (mr : MrReg) : allMrRegs.find? (fun o => o.code == mr.code) = some mr := by cases mr <;> decide

theorem find_parMul (op : ParMul) : allParMuls.find? (fun o => o.code == op.code) = some op := by cases op <;> decide

theorem find_parAlu (op : ParAlu) : allParAlus.find? (fun o => o.code == op.code) = some op := by cases op <;> decide

theorem find_parFlt (op : ParFlt) : allParFlts.find? (fun o => o.code == op.code) = some op := by cases op <;> decide

/-- A multiplier operation with a listed option pattern is read back from its opcode. -/
theorem decodeMulOp_code {op : MulOp} (h : op.wf = true) : decodeMulOp op.code = some op := by
  cases op with
  | rn m | mrf m | mrb m | rnMrfAdd m | rnMrbAdd m | mrfAdd m | mrbAdd m | rnMrfSub m | rnMrbSub m | mrfSub m
  | mrbSub m =>
    obtain ⟨ys, xs, fr, rd⟩ := m
    revert ys xs fr rd
    decide
  | rnSatMrf m | rnSatMrb m | mrfSat m | mrbSat m =>
    obtain ⟨fr, sg⟩ := m
    revert fr sg
    decide
  | rnRndMrf sg | rnRndMrb sg | mrfRnd sg | mrbRnd sg => cases sg <;> decide
  | mrfZero | mrbZero | fmul => decide

/-! ### The COMPUTE field (R300) -/

/-- A field with some nonzero part is not the empty one. -/
theorem field_ne_zero {f : BitVec 23} {lo n : Nat} (h : f.extractLsb' lo n ≠ 0) : f ≠ 0#23 := by
  rintro rfl
  exact h (by simp)

theorem decodeCompute_multi {f : BitVec 23} (h : f.getLsbD 22 = true) : decodeCompute f = decodeMulti f := by
  rw [decodeCompute, if_neg, if_pos h]
  rintro rfl
  simp at h

/-- A field of a single unit, with the operation's own opcode, is read by the unit's table. -/
theorem decodeCompute_single {cu : BitVec 3} {op : BitVec 8} {rn rx ry : BitVec 4} (hcu : cu.getLsbD 2 = false)
    (hz : cu ++ op ≠ 0) (hdual : (cu ++ op).extractLsb' 4 6 ≠ 7#6) (hflt : (cu ++ op).extractLsb' 4 6 ≠ 15#6) :
    decodeCompute (cu ++ op ++ rn ++ rx ++ ry) = decodeSingle (cu ++ op ++ rn ++ rx ++ ry) := by
  have zero : cu ++ op ++ rn ++ rx ++ ry ≠ 0#23 := by
    refine field_ne_zero (lo := 12) (n := 11) ?_
    simpa [-Nat.reduceAdd] using hz
  rw [decodeCompute, if_neg zero]
  simp [-Nat.reduceAdd, -BitVec.getLsbD_eq_getElem, hcu]
  rw [if_neg hdual, if_neg hflt]

/-- Every well-formed compute operation is read back from its field. -/
theorem decodeCompute_encodeCompute {c : Compute} (h : c.wf = true) : decodeCompute (encodeCompute c) = some c := by
  cases c with
  | none => rfl
  | alu op rn rx ry =>
    rw [encodeCompute, decodeCompute_single (by decide) (by cases op <;> decide) (by cases op <;> decide)
      (by cases op <;> decide)]
    have low : op.code.getLsbD 7 = false := by cases op <;> rfl
    simp [decodeSingle, -Nat.reduceAdd, -BitVec.getLsbD_eq_getElem, find_aluOp, low]
  | flt op rn rx ry =>
    rw [encodeCompute, decodeCompute_single (by decide) (by cases op <;> decide) (by cases op <;> decide)
      (by cases op <;> decide)]
    have high : op.code.getLsbD 7 = true := by cases op <;> rfl
    simp [decodeSingle, -Nat.reduceAdd, -BitVec.getLsbD_eq_getElem, find_fltOp, high]
  | mul op rn rx ry =>
    have lead (c : BitVec 8) :
        1#3 ++ c ≠ 0 ∧ (1#3 ++ c).extractLsb' 4 6 ≠ 7#6 ∧ (1#3 ++ c).extractLsb' 4 6 ≠ 15#6 := by
      revert c; decide
    obtain ⟨h0, h1, h2⟩ := lead op.code
    rw [encodeCompute, decodeCompute_single (by decide) h0 h1 h2]
    simp [decodeSingle, -Nat.reduceAdd, -BitVec.getLsbD_eq_getElem, decodeMulOp_code h]
  | shift op rn rx ry =>
    rw [encodeCompute, decodeCompute_single (by decide) (by cases op <;> decide) (by cases op <;> decide)
      (by cases op <;> decide)]
    simp [decodeSingle, -Nat.reduceAdd, -BitVec.getLsbD_eq_getElem, find_shiftOp]
  | dualAlu rs ra rx ry | dualFlt rs ra rx ry =>
    rw [encodeCompute, decodeCompute, if_neg]
    · simp [-Nat.reduceAdd, -BitVec.getLsbD_eq_getElem]
    · exact field_ne_zero (lo := 16) (n := 7) (by simp [-Nat.reduceAdd])
  | mrRead mr rk | mrWrite mr rk =>
    rw [encodeCompute, decodeCompute_multi (by simp [-Nat.reduceAdd, -BitVec.getLsbD_eq_getElem])]
    simp [decodeMulti, -Nat.reduceAdd, -BitVec.getLsbD_eq_getElem, find_mrReg]
  | mulAlu mop aop rm ra rxm rym rxa rya =>
    have notMr : (1#1 ++ mop.code ++ aop.code).extractLsb' 1 5 ≠ 0#5 := by cases mop <;> cases aop <;> decide
    have notDual :
        mop.code.extractLsb' 2 2 ≠ 2#2 ∧ mop.code.extractLsb' 2 2 ≠ 3#2 ∧ mop.code.extractLsb' 1 3 ≠ 3#3 := by
      cases mop <;> decide
    rw [encodeCompute, decodeCompute_multi (by simp [-Nat.reduceAdd, -BitVec.getLsbD_eq_getElem])]
    simp [decodeMulti, -Nat.reduceAdd, -BitVec.getLsbD_eq_getElem, find_parMul, find_parAlu, notMr, notDual]
  | mulFlt aop rm ra rxm rym rxa rya =>
    have notMr : (11#4 ++ aop.code).extractLsb' 1 5 ≠ 0#5 := by cases aop <;> decide
    rw [encodeCompute, decodeCompute_multi (by simp [-Nat.reduceAdd, -BitVec.getLsbD_eq_getElem])]
    simp [decodeMulti, -Nat.reduceAdd, -BitVec.getLsbD_eq_getElem, find_parFlt, notMr]
  | mulDualAlu rs rm ra rxm rym rxa rya | mulDualFlt rs rm ra rxm rym rxa rya =>
    rw [encodeCompute, decodeCompute_multi (by simp [-Nat.reduceAdd, -BitVec.getLsbD_eq_getElem])]
    simp [decodeMulti, -Nat.reduceAdd, -BitVec.getLsbD_eq_getElem]

/-! ### Whole words -/

theorem withCompute_ok {w : Word48} {c : Compute} (k : Compute → Instr) (hw : fld w 0 23 = encodeCompute c)
    (hc : c.wf = true) : withCompute w k = .ok (k c) := by
  rw [withCompute, hw, decodeCompute_encodeCompute hc]
  rfl

@[simp] theorem withUreg_encodeUreg (u : Ureg) (k : Ureg → Except DecodeError Instr) :
    withUreg (encodeUreg u) k = k u := by rw [withUreg, decodeUreg_encodeUreg]

/-- The row of a compute operation alone is the Type 2 word of that operation. -/
theorem encode_of_toCompute {i : Instr} {c : Compute} (h : i.toCompute = some c) :
    encode i = encodeAlone c ∧ Instr.ofCompute c = i ∧ i.computeArg.wf = c.wf := by
  cases i <;> cases h <;> exact ⟨rfl, rfl, rfl⟩

theorem decode_encodeAlone {c : Compute} (hc : c.wf = true) : decode (encodeAlone c) = .ok (Instr.ofCompute c) := by
  rw [encodeAlone, ← Machine.type2Word, Machine.decode_type2Word, decodeCompute_encodeCompute hc]
  rfl

theorem decode_encodeShiftImm (op : ShiftImmOp) (cond : BitVec 5) (dataex : BitVec 4) (data : BitVec 8)
    (rn rx : BitVec 4) :
    decode (encodeShiftImm op cond dataex data rn rx) = .ok (.ofShiftImm op cond dataex data rn rx) := by
  simp [decode, decodeGroup0, decodeType6, encodeShiftImm, fld, -Nat.reduceAdd, -BitVec.getLsbD_eq_getElem,
    find_shiftImmOp, orElse, Except.map]

theorem decode_encodeShiftImmMove (op : ShiftImmOp) (i m : BitVec 3) (cond : BitVec 5) (g d : Bool)
    (dataex dreg : BitVec 4) (data : BitVec 8) (rn rx : BitVec 4) :
    decode (encodeShiftImmMove op i m cond g d dataex dreg data rn rx)
      = .ok (.ofShiftImmMove op i m cond g d dataex dreg data rn rx) := by
  simp [decode, decodeType6, encodeShiftImmMove, fld, bit, -Nat.reduceAdd, -BitVec.getLsbD_eq_getElem,
    find_shiftImmOp, orElse, Except.map]

/-- Type 18 (R329): the operation by its code. -/
theorem decode_type18 (bop : BitVec 3) (r : Sreg) (data : BitVec 32) :
    decode (0x14#8 ++ bop ++ 0#1 ++ encodeSreg r ++ data) =
      if bop = 0#3 then .ok (.bitSet r data) else if bop = 1#3 then .ok (.bitClr r data)
      else if bop = 2#3 then .ok (.bitTgl r data) else if bop = 4#3 then .ok (.bitTst r data)
      else if bop = 5#3 then .ok (.bitXor r data) else .error .reservedField := by
  simp [decode, decodeGroup0, decodeType18, orElse, Except.bind, fld, -Nat.reduceAdd, -BitVec.getLsbD_eq_getElem]

/-- Type 20 (R331): the word of seven operation bits is the stack instruction of these bits. -/
theorem decode_encodeType20 (lpu lpo spu spo ppu ppo fc : Bool) :
    decode (encodeType20 lpu lpo spu spo ppu ppo fc) = .ok (Machine.stackInstr lpu lpo spu spo ppu ppo fc) := by
  simp [encodeType20, decode, decodeGroup0, decodeType20, Machine.stackInstr, fld, bit, -Nat.reduceAdd,
    -BitVec.getLsbD_eq_getElem]

/-- The round trip, instruction by instruction: the operand fields are read where the encoder put them. -/
theorem decode_encode {i : Instr} (h : i.wf = true) : decode (encode i) = .ok i := by
  obtain ⟨hc, own⟩ := Bool.and_eq_true_iff.mp h
  cases row : i.toCompute with
  | some c =>
    obtain ⟨word, same, wf⟩ := encode_of_toCompute row
    rw [word, decode_encodeAlone (wf ▸ hc), same]
  | none =>
    have field (w : BitVec 23) (k : Compute → Instr) (hw : w = encodeCompute i.computeArg) :
        (orElse (decodeCompute w) .undefinedCompute).map k = .ok (k i.computeArg) := by
      rw [hw, decodeCompute_encodeCompute hc]
      rfl
    cases i with
    | compute cond c =>
      rw [encode, ← Machine.type2Word, Machine.decode_type2Word]
      refine (field (encodeCompute c) _ rfl).trans ?_
      by_cases hk : cond = 31
      · simp_all [Instr.ownForm, Instr.computeArg, Instr.ofCompute]
      · exact congrArg Except.ok (if_neg hk)
    | dmPmDualMove | uregMemMoveM | dregMemMoveImm6 | uregUregMove | modify | jumpIndirect | jumpPcrel6 | callIndirect
    | callPcrel6 | jumpIndirectElseMove | jumpPcrel6ElseMove | rts | rti =>
      simp [encode, decode, decodeGroup0, withCompute, fld, bit, Instr.computeArg, -Nat.reduceAdd,
        -BitVec.getLsbD_eq_getElem] at field ⊢
      simp only [field]
    | lshiftImm | orLshiftImm | ashiftImm | orAshiftImm | rotImm | bclrImm | bsetImm | btglImm | btstImm | fdepImm
    | orFdepImm | fdepSeImm | orFdepSeImm | fextImm | fextSeImm =>
      rw [encode, decode_encodeShiftImm]
      rfl
    | lshiftImmMove | orLshiftImmMove | ashiftImmMove | orAshiftImmMove | rotImmMove | bclrImmMove | bsetImmMove
    | btglImmMove | btstImmMove | fdepImmMove | orFdepImmMove | fdepSeImmMove | orFdepSeImmMove | fextImmMove
    | fextSeImmMove =>
      rw [encode, decode_encodeShiftImmMove]
      rfl
    | uregMemDirect g d =>
      cases g <;> cases d <;>
        simp [encode, decode, decodeGroup0, fld, bit, -Nat.reduceAdd, -BitVec.getLsbD_eq_getElem]
    | jumpDirect | jumpPcrel | callDirect | callPcrel | lcntrImmDo | lcntrUregDo | doUntil | uregMemImm32
    | memImm32Store | uregImm32 | modifyImm | bitrevImm =>
      simp [encode, decode, decodeGroup0, fld, bit, -Nat.reduceAdd, -BitVec.getLsbD_eq_getElem]
    | bitSet | bitClr | bitTgl | bitTst | bitXor => exact decode_type18 ..
    | pushLoop | popLoop | pushSts | popSts | pushPcstk | popPcstk | flushCache => exact decode_encodeType20 ..
    | nop | idle | rframe => decide
    | idle16 =>
      have differs : Config.idle16Field ≠ 0#39 := by
        rw [Config.idle16Field]
        split
        · decide
        · assumption
      simp [encode, decode, decodeGroup0, decodeIdle, fld, differs, -Nat.reduceAdd, -BitVec.getLsbD_eq_getElem]
    | cjumpDirect | cjumpPcrel =>
      simp [encode, decode, decodeGroup0, fld, -Nat.reduceAdd, -BitVec.getLsbD_eq_getElem]
    | _ => cases row

/-- Settles O1: the fields of every constructor's word are those the decoder reads. -/
theorem decodeEncodeRoundTrip : Obligations.DecodeEncodeRoundTrip := fun _ h => decode_encode h

/-! ### What the decoder answers -/

theorem decodeMulOp_wf {code : BitVec 8} {op : MulOp} (h : decodeMulOp code = some op) : op.wf = true := by
  have table : ∀ c : BitVec 8, (decodeMulOp c).all MulOp.wf = true := by decide
  simpa [h] using table code

theorem wf_of_map {o : Option α} {k : α → Compute} {c : Compute} (hk : ∀ a, o = some a → (k a).wf = true)
    (h : o.map k = some c) : c.wf = true := by
  obtain ⟨a, ha, rfl⟩ := Option.map_eq_some_iff.mp h
  exact hk a ha

theorem decodeSingle_wf {f : BitVec 23} {c : Compute} (h : decodeSingle f = some c) : c.wf = true := by
  unfold decodeSingle at h
  extract_lets at h
  split_ifs at h
  · exact wf_of_map (fun _ _ => rfl) h
  · exact wf_of_map (fun _ _ => rfl) h
  · exact wf_of_map (fun _ ho => by exact decodeMulOp_wf ho) h
  · exact wf_of_map (fun _ _ => rfl) h

theorem decodeMulti_wf {f : BitVec 23} {c : Compute} (h : decodeMulti f = some c) : c.wf = true := by
  unfold decodeMulti at h
  extract_lets at h
  split_ifs at h
  · exact wf_of_map (fun _ _ => rfl) h
  · exact wf_of_map (fun _ _ => rfl) h
  · cases h; rfl
  · cases h; rfl
  · exact wf_of_map (fun _ _ => rfl) h
  · obtain ⟨mo, -, ho⟩ := Option.bind_eq_some_iff.mp h
    exact wf_of_map (fun _ _ => rfl) ho

theorem decodeCompute_wf {f : BitVec 23} {c : Compute} (h : decodeCompute f = some c) : c.wf = true := by
  unfold decodeCompute at h
  split_ifs at h
  · cases h; rfl
  · exact decodeMulti_wf h
  · cases h; rfl
  · cases h; rfl
  · exact decodeSingle_wf h

theorem ownForm_of_toCompute {i : Instr} {c : Compute} (h : i.toCompute = some c) : i.ownForm = true := by
  cases i <;> cases h <;> rfl

theorem ofCompute_wf {c : Compute} (h : c.wf = true) : (Instr.ofCompute c).wf = true := by
  by_cases hc : c = .none
  · rw [hc]; rfl
  · have row := Machine.toCompute_ofCompute hc
    obtain ⟨-, -, arg⟩ := encode_of_toCompute row
    rw [Instr.wf, arg, ownForm_of_toCompute row, h]
    rfl

/-- The decoder answers only well-formed instructions. -/
def AnswersWf (r : Except DecodeError Instr) : Prop := ∀ i, r = .ok i → i.wf = true

theorem answersWf_ok {i : Instr} (h : i.wf = true) : AnswersWf (.ok i) := fun _ e => Except.ok.inj e ▸ h

theorem answersWf_error (e : DecodeError) : AnswersWf (.error e) := fun _ h => nomatch h

theorem answersWf_ite {p : Prop} [Decidable p] {a b : Except DecodeError Instr} (ha : AnswersWf a) (hb : AnswersWf b) :
    AnswersWf (if p then a else b) := by
  split
  · exact ha
  · exact hb

theorem answersWf_map_orElse {o : Option α} {e : DecodeError} {k : α → Instr}
    (h : ∀ a, o = some a → (k a).wf = true) :
    AnswersWf ((orElse o e).map k) := by
  cases o with
  | none => exact answersWf_error e
  | some a => exact answersWf_ok (h a rfl)

theorem answersWf_withCompute {w : Word48} {k : Compute → Instr} (h : ∀ c, c.wf = true → (k c).wf = true) :
    AnswersWf (withCompute w k) := answersWf_map_orElse fun c hc => h c (decodeCompute_wf hc)

theorem answersWf_withUreg {c : BitVec 8} {k : Ureg → Except DecodeError Instr} (h : ∀ u, AnswersWf (k u)) :
    AnswersWf (withUreg c k) := by
  rw [withUreg]
  split
  · exact h _
  · exact answersWf_error _

theorem answersWf_type2 (w : Word48) : AnswersWf (decodeType2 w) := by
  refine answersWf_withCompute fun c hc => ?_
  split
  · exact ofCompute_wf hc
  · next h => simpa [Instr.wf, Instr.computeArg, Instr.ownForm, h] using hc

theorem answersWf_type6 (w : Word48) (move : Bool) : AnswersWf (decodeType6 w move) := by
  refine answersWf_ite (answersWf_error _) (answersWf_map_orElse fun op _ => ?_)
  cases move <;> cases op <;> rfl

theorem answersWf_type18 (w : Word48) : AnswersWf (decodeType18 w) := by
  unfold decodeType18
  cases decodeSreg (fld w 32 4) with
  | none => exact answersWf_error _
  | some r => exact answersWf_ite (answersWf_ok rfl) <| answersWf_ite (answersWf_ok rfl) <|
      answersWf_ite (answersWf_ok rfl) <| answersWf_ite (answersWf_ok rfl) <|
      answersWf_ite (answersWf_ok rfl) (answersWf_error _)

theorem decodeType20_wf (w : Word48) : (decodeType20 w).wf = true := by
  unfold decodeType20
  extract_lets
  split_ifs <;> rfl

theorem answersWf_idle (w : Word48) : AnswersWf (decodeIdle w) :=
  answersWf_ite (answersWf_ok rfl) <| answersWf_ite (answersWf_ok rfl) <| answersWf_ite (answersWf_ok rfl)
    (answersWf_error _)

theorem answersWf_group0 (w : Word48) : AnswersWf (decodeGroup0 w) := by
  unfold decodeGroup0
  refine answersWf_ite (answersWf_idle w) <| answersWf_ite (answersWf_type2 w) <| answersWf_ite (answersWf_type6 w _) <|
    answersWf_ite ?modify <| answersWf_ite ?direct <| answersWf_ite ?pcrel <| answersWf_ite ?indirect <|
    answersWf_ite ?pcrel6 <| answersWf_ite ?rts <| answersWf_ite ?rti <| answersWf_ite (answersWf_ok rfl) <|
    answersWf_ite (answersWf_withUreg fun _ => answersWf_ok rfl) <| answersWf_ite (answersWf_ok rfl) <|
    answersWf_ite (answersWf_withUreg fun _ => answersWf_ok rfl) <|
    answersWf_ite (answersWf_withUreg fun _ => answersWf_ok rfl) <| answersWf_ite (answersWf_type18 w) <|
    answersWf_ite ?immediate <| answersWf_ite (answersWf_ok (decodeType20_wf w)) <| answersWf_ite (answersWf_ok rfl) <|
    answersWf_ite (answersWf_ok rfl) <| answersWf_ite (answersWf_ok rfl) (answersWf_error _)
  case modify | rts | rti =>
    exact answersWf_withCompute fun c hc => by simpa [Instr.wf, Instr.computeArg, Instr.ownForm]
  case direct | pcrel | immediate => exact answersWf_ok (by split <;> rfl)
  case indirect | pcrel6 =>
    exact answersWf_withCompute fun c hc => by split <;> simpa [Instr.wf, Instr.computeArg, Instr.ownForm]

theorem answersWf_decode (w : Word48) : AnswersWf (decode w) := by
  have computes {k : Compute → Instr} (arg : ∀ c, (k c).computeArg = c) (own : ∀ c, (k c).ownForm = true) :
      AnswersWf (withCompute w k) :=
    answersWf_withCompute fun c hc => by rw [Instr.wf, arg, own, hc]; rfl
  unfold decode
  refine answersWf_ite (answersWf_group0 w) <| answersWf_ite (computes (fun _ => rfl) fun _ => rfl) <|
    answersWf_ite (answersWf_withUreg fun _ => computes (fun _ => rfl) fun _ => rfl) <|
    answersWf_ite (answersWf_ite
      (answersWf_withUreg fun _ => answersWf_withUreg fun _ => computes (fun _ => rfl) fun _ => rfl)
      (computes (fun _ => rfl) fun _ => rfl)) <|
    answersWf_ite (answersWf_ite (answersWf_ok rfl) (answersWf_type6 w true)) <|
    answersWf_ite (answersWf_withUreg fun _ => answersWf_ok rfl) <|
    answersWf_ite (computes (fun _ => rfl) fun _ => rfl) (computes (fun _ => rfl) fun _ => rfl)

/-- Settles O2: every branch of the decoder answers a well-formed instruction. -/
theorem decodedInstructionsAreWellFormed : Obligations.DecodedInstructionsAreWellFormed :=
  fun w i h => answersWf_decode w i h

/-- Settles O3, by evaluation of the decoder on the words. -/
theorem sampleWordsDecode : Obligations.SampleWordsDecode := by
  unfold Obligations.SampleWordsDecode
  decide

end Sys2Proof
end

section
/-! The fixed-point ALU: what a row leaves, and the results of the adder, the halved sum, the absolute value, minimum,
maximum, clip, the logic rows and the compare (44_alu_fixed.md). -/

namespace Sys2Proof.Machine

/-! ### What the ALU writes -/

theorem AluFlags.getLsbD_astat (f : AluFlags) (v : BitVec 32) {k : Nat} (hk : k < 24) :
    (f.astat v).getLsbD k = ((v &&& ~~~0x0000043F#32) ||| bitAt f.az 0 ||| bitAt f.av 1 ||| bitAt f.an 2 ||| bitAt f.ac 3
      ||| bitAt f.as 4 ||| bitAt f.ai 5 ||| bitAt f.af 10).getLsbD k := by
  unfold AluFlags.astat
  cases f.gt with
  | none => rfl
  | some gt => exact (bit_append_low _ _ hk).trans (by simp [hk, -BitVec.getLsbD_eq_getElem])

/-- The result, the flags and the sticky bits of an ALU operation are those it gives. -/
theorem applyAlu_gives (s : State) (rn : BitVec 4) (o : AluOut) : AluGives s (s.applyAlu rn o) rn o := by
  have sys : (s.applyAlu rn o).sys = { s.sys with astat := o.flags.astat s.sys.astat, stky := o.flags.stky s.sys.stky } := by
    unfold State.applyAlu
    split <;> simp [State.aluStatus]
  refine ⟨fun v hv => ?_, ?_⟩
  · rw [State.applyAlu, hv]
    exact setRreg_rreg_same ..
  · unfold AluStatus Sticks
    rw [sys]
    simp [AluFlags.getLsbD_astat, AluFlags.stky, getLsbD_bitAt, -BitVec.getLsbD_eq_getElem]

theorem alu_dests {op : AluOp} (h : op ≠ .comp) (rn rx ry : BitVec 4) : (Compute.alu op rn rx ry).dests = [rn] := by
  cases op <;> first | exact absurd rfl h | rfl

theorem flt_dests {op : FltOp} (h : op ≠ .comp) (rn rx ry : BitVec 4) : (Compute.flt op rn rx ry).dests = [rn] := by
  cases op <;> first | exact absurd rfl h | rfl

/-- A fixed-point row of the ALU with a result. -/
theorem completes_alu {i : Instr} {op : AluOp} {rn rx ry : BitVec 4} (row : i.toCompute = some (.alu op rn rx ry))
    (h : op ≠ .comp) (s : State) : Completes i s fun t =>
      ComputeFrame s t [rn] [] 0x43F op.stkyMask ∧ AluGives s t rn (s.aluResult op rx ry) :=
  ⟨_, exec_of_toCompute row s, applyAlu_frame s rn _ _ (aluFixed_gt s.modes _ _ h) (aluFixed_sticks ..),
    applyAlu_gives s rn _⟩

/-- A floating-point row of the ALU with a result. -/
theorem completes_flt {i : Instr} {op : FltOp} {rn rx ry : BitVec 4} (row : i.toCompute = some (.flt op rn rx ry))
    (h : op ≠ .comp) (s : State) : Completes i s fun t =>
      ComputeFrame s t [rn] [] 0x43F op.stkyMask ∧ AluGives s t rn (s.fltResult op rx ry) :=
  ⟨_, exec_of_toCompute row s, applyAlu_frame s rn _ _ (aluFloat_gt s.modes _ _ h) (aluFloat_sticks ..),
    applyAlu_gives s rn _⟩

/-- What holds of a completed instruction holds in a weaker form. -/
theorem Completes.imp {i : Instr} {s : State} {P Q : State → Prop} (h : Completes i s P) (hPQ : ∀ t, P t → Q t) :
    Completes i s Q := by
  obtain ⟨t, runs, ht⟩ := h
  exact ⟨t, runs, hPQ t ht⟩

/-- A compare shifts its outcome into CACC, which the other flags leave alone. -/
theorem applyAlu_shiftsInto (s : State) (rn : BitVec 4) {o : AluOut} {gt : Bool} (hv : o.val = none)
    (hg : o.flags.gt = some gt) : ShiftsInto s (s.applyAlu rn o) gt := by
  have kept (v : BitVec 32) (a b c d e f g : Bool) : ((v &&& ~~~0x0000043F#32) ||| bitAt a 0 ||| bitAt b 1 ||| bitAt c 2
      ||| bitAt d 3 ||| bitAt e 4 ||| bitAt f 5 ||| bitAt g 10).extractLsb' 25 7 = v.extractLsb' 25 7 := by
    apply BitVec.eq_of_getLsbD_eq
    intro i hi
    interval_cases i <;> simp [getLsbD_bitAt, -BitVec.getLsbD_eq_getElem]
  rw [ShiftsInto, State.applyAlu, hv]
  simp only [State.aluStatus, AluFlags.astat, hg]
  rw [kept, BitVec.extractLsb'_append_eq_left]

/-! ### The adder (R471 to R478) -/

theorem adder_post {s t : State} {rn : BitVec 4} {a b : BitVec 32} {cin : Bool}
    (h : AluGives s t rn (adder s.modes.sat a b cin)) : AdderPost s t rn a b cin := by
  obtain ⟨word, status, -, -, ovf, -⟩ := h
  have sum : BitVec.ofNat 32 (a.toNat + b.toNat + cin.toNat) = a + b + BitVec.ofNat 32 cin.toNat := by
    simp [BitVec.ofNat_add]
  simp only [adder, sum, ← Bool.decide_or] at word status ovf
  exact ⟨word _ rfl, status, ovf⟩

/-- A row that is one pass through the adder. -/
theorem completes_adder {i : Instr} {op : AluOp} {rn rx ry : BitVec 4} {s : State} {a b : BitVec 32} {cin : Bool}
    (row : i.toCompute = some (.alu op rn rx ry)) (h : op ≠ .comp) (mask : op.stkyMask = 4)
    (result : s.aluResult op rx ry = adder s.modes.sat a b cin) :
    Completes i s fun t => ComputeFrame s t [rn] [] 0x43F 0x4 ∧ AdderPost s t rn a b cin :=
  (completes_alu row h s).imp fun _ ⟨frame, gives⟩ => ⟨mask ▸ frame, adder_post (result ▸ gives)⟩

/-! ### Results that set AZ and AN only (R487 to R494) -/

theorem completes_logic {i : Instr} {op : AluOp} {rn rx ry : BitVec 4} {s : State} {r : BitVec 32}
    (row : i.toCompute = some (.alu op rn rx ry)) (h : op ≠ .comp) (mask : op.stkyMask = 0)
    (result : s.aluResult op rx ry = logicOut r) :
    Completes i s fun t => ComputeFrame s t [rn] [] 0x43F 0 ∧ LogicPost t rn r := by
  refine (completes_alu row h s).imp fun t ⟨frame, gives⟩ => ⟨mask ▸ frame, ?_⟩
  rw [result] at gives
  obtain ⟨word, status, -⟩ := gives
  exact ⟨word _ rfl, status⟩

/-! ### The halved sum (R479) -/

theorem getLsbD_31_eq_neg (x : BitVec 32) : x.getLsbD 31 = decide (x.toInt < 0) :=
  (BitVec.msb_eq_getLsbD_last x).symm.trans BitVec.msb_eq_toInt

/-- The halved sum is the quotient the rounding says, within the range of a word. -/
theorem average_eq (trunc : Bool) (x y : BitVec 32) : ∃ q : Int,
    (if trunc then 2 * q ≤ x.toInt + y.toInt ∧ x.toInt + y.toInt < 2 * q + 2
      else |x.toInt + y.toInt - 2 * q| ≤ 1 ∧ (|x.toInt + y.toInt - 2 * q| = 1 → q % 2 = 0))
    ∧ average trunc x y = ⟨some (bus32 (BitVec.ofInt 32 q)), { logicFlags 0 with
        az := decide (q = 0), an := decide (q < 0), ac := decide (2 ^ 32 ≤ x.toNat + y.toNat) }⟩ := by
  have hx := BitVec.toInt_lt (x := x)
  have hx' := BitVec.le_toInt (x := x)
  have hy := BitVec.toInt_lt (x := y)
  have hy' := BitVec.le_toInt (x := y)
  set t := x.toInt + y.toInt with ht
  let q : Int := if trunc || decide (t % 2 = 0) || decide (t / 2 % 2 = 0) then t / 2 else t / 2 + 1
  have range : -2 ^ 31 ≤ q ∧ q < 2 ^ 31 := by
    simp only [q]
    split_ifs with exact
    · omega
    · simp only [Bool.or_eq_true, decide_eq_true_eq, not_or] at exact
      omega
  have value : (BitVec.ofInt 32 q).toInt = q := BitVec.toInt_ofInt_eq_self (by decide) range.1 range.2
  refine ⟨q, ?_, ?_⟩
  · simp only [q]
    cases trunc
    · simp only [Bool.false_or, Bool.or_eq_true, decide_eq_true_eq, Bool.false_eq_true, if_false, Int.abs_eq_natAbs]
      split <;> omega
    · simp only [Bool.true_or, if_true]
      omega
  · have zero : BitVec.ofInt 32 q = 0#32 ↔ q = 0 := by rw [← BitVec.toInt_inj, value]; rfl
    have neg : (BitVec.ofInt 32 q).getLsbD 31 = decide (q < 0) := by
      rw [getLsbD_31_eq_neg, value]
    have flags : logicFlags (BitVec.ofInt 32 q) = { logicFlags 0 with az := decide (q = 0), an := decide (q < 0) } := by
      rw [logicFlags, neg]
      exact congrArg (fun z => { logicFlags 0 with az := z, an := decide (q < 0) }) (decide_eq_decide.mpr zero)
    change (⟨some (bus32 (BitVec.ofInt 32 q)), { logicFlags (BitVec.ofInt 32 q) with ac := _ }⟩ : AluOut) = _
    rw [flags]

/-! ### Absolute value, minimum, maximum, clip (R486, R492 to R494) -/

theorem ofInt_abs_toInt (x : BitVec 32) : BitVec.ofInt 32 |x.toInt| = if x.getLsbD 31 then -x else x := by
  rw [getLsbD_31_eq_neg]
  by_cases h : x.toInt < 0
  · rw [if_pos (decide_eq_true h), abs_of_neg h, BitVec.ofInt_neg, BitVec.ofInt_toInt]
  · rw [if_neg (by simpa using h), abs_of_nonneg (not_lt.mp h), BitVec.ofInt_toInt]

theorem ofInt_min_toInt (x y : BitVec 32) :
    BitVec.ofInt 32 (min x.toInt y.toInt) = if x.toInt ≤ y.toInt then x else y := by
  rw [min_def, apply_ite (BitVec.ofInt 32), BitVec.ofInt_toInt, BitVec.ofInt_toInt]

theorem ofInt_max_toInt (x y : BitVec 32) :
    BitVec.ofInt 32 (max x.toInt y.toInt) = if y.toInt ≤ x.toInt then x else y := by
  rw [max_comm, max_def, apply_ite (BitVec.ofInt 32), BitVec.ofInt_toInt, BitVec.ofInt_toInt]

/-- Clipping is limiting to the interval between the magnitude's two signs. -/
theorem ofInt_clip_toInt (x y : BitVec 32) :
    BitVec.ofInt 32 (max (-|y.toInt|) (min x.toInt |y.toInt|)) = clip x y := by
  unfold clip
  extract_lets m
  have hm : |y.toInt| = (m : Int) := Int.abs_eq_natAbs _
  rw [hm, getLsbD_31_eq_neg]
  split_ifs with inside negative
  · rw [show max (-(m : Int)) (min x.toInt m) = x.toInt by omega, BitVec.ofInt_toInt]
  · have : x.toInt < 0 := of_decide_eq_true negative
    rw [show max (-(m : Int)) (min x.toInt m) = -(m : Int) by omega]
  · have : ¬ x.toInt < 0 := fun h => negative (decide_eq_true h)
    rw [show max (-(m : Int)) (min x.toInt m) = (m : Int) by omega, BitVec.ofInt_natCast]

end Sys2Proof.Machine

open Sys2Proof Sys2Proof.Machine

/-- Settles O10: each row is a pass through the adder with its own operands (`completes_adder`). -/
theorem fixedAdderRows : Obligations.FixedAdderRows := by
  intro s rn rx ry x y ci row
  exact ⟨completes_adder (op := .add) rfl nofun rfl rfl, completes_adder (op := .sub) rfl nofun rfl rfl,
    completes_adder (op := .addCi) rfl nofun rfl rfl, completes_adder (op := .subCi) rfl nofun rfl rfl,
    completes_adder (op := .incCi) rfl nofun rfl rfl, completes_adder (op := .decCi) rfl nofun rfl rfl,
    completes_adder (op := .inc) rfl nofun rfl rfl, completes_adder (op := .dec) rfl nofun rfl rfl,
    completes_adder (op := .neg) rfl nofun rfl rfl⟩

/-- Settles O11: the quotient of the halved sum is that of `average_eq`; the other rows are the same numbers written as
the statement has them. -/
theorem fixedAverageAbsMinMaxClip : Obligations.FixedAverageAbsMinMaxClip := by
  intro s rn rx ry x y
  refine ⟨?_, ?_, ?_, ?_, ?_⟩
  · refine (completes_alu (op := .avg) rfl nofun s).imp fun t ⟨frame, gives⟩ => ⟨frame, ?_⟩
    obtain ⟨q, rounds, result⟩ := average_eq s.modes.trunc x y
    rw [show s.aluResult .avg rx ry = average s.modes.trunc x y from rfl, result] at gives
    obtain ⟨word, status, -⟩ := gives
    exact ⟨q, rounds, word _ rfl, status⟩
  · refine (completes_alu (op := .abs) rfl nofun s).imp fun t ⟨frame, gives⟩ => ⟨frame, ?_⟩
    have result : s.aluResult .abs rx ry = absolute s.aluSat x := rfl
    rw [result] at gives
    obtain ⟨word, status, -, -, sticks, -⟩ := gives
    rw [ofInt_abs_toInt]
    exact ⟨word _ rfl, status, sticks⟩
  · exact ofInt_min_toInt x y ▸ completes_logic (op := .min) rfl nofun rfl rfl
  · exact ofInt_max_toInt x y ▸ completes_logic (op := .max) rfl nofun rfl rfl
  · exact ofInt_clip_toInt x y ▸ completes_logic (op := .clip) rfl nofun rfl rfl

/-- Settles O12: the words are those of the encoder, which the decoder reads back, and each row gives its word with the
flags of a logic result. -/
theorem fixedLogicRows : Obligations.FixedLogicRows := by
  refine ⟨fun rn rx ry => ⟨?_, ?_, ?_, ?_, ?_⟩, fun s rn rx ry => ⟨?_, ?_, ?_, ?_, ?_⟩⟩
  · exact decode_encodeAlone (c := .alu .pass rn rx ry) rfl
  · exact decode_encodeAlone (c := .alu .and rn rx ry) rfl
  · exact decode_encodeAlone (c := .alu .or rn rx ry) rfl
  · exact decode_encodeAlone (c := .alu .xor rn rx ry) rfl
  · exact decode_encodeAlone (c := .alu .not rn rx ry) rfl
  · exact completes_logic (op := .pass) rfl nofun rfl rfl
  · exact completes_logic (op := .and) rfl nofun rfl rfl
  · exact completes_logic (op := .or) rfl nofun rfl rfl
  · exact completes_logic (op := .xor) rfl nofun rfl rfl
  · exact completes_logic (op := .not) rfl nofun rfl rfl

/-- Settles O13: a compare writes its status only, and with it CACC (`applyAlu_shiftsInto`). -/
theorem fixedCompare : Obligations.FixedCompare := by
  refine ⟨fun rn rx ry => decode_encodeAlone (c := .alu .comp rn rx ry) rfl, fun s rn rx ry => ?_⟩
  obtain ⟨-, status, -⟩ := applyAlu_gives s rn (s.aluResult .comp rx ry)
  refine ⟨_, exec_of_toCompute (c := .alu .comp rn rx ry) rfl s, applyCompare_frame s rn (s.aluResult .comp rx ry) 0 rfl
    (aluFixed_sticks s.modes .comp _ _), ?_, applyAlu_shiftsInto s rn rfl rfl⟩
  simp only [BitVec.toInt_inj]
  exact status
end

section
/-! The shifter: what a row leaves, and its results bit by bit (47_shifter.md). -/

namespace Sys2Proof.Machine

/-! ### What the shifter writes -/

/-- The result and the status of a shifter operation are those it gives. -/
theorem applyShift_gives (s : State) (rn : BitVec 4) {o : ShiftOut} {r : BitVec 32} (hv : o.val = some r) :
    (s.applyShift rn o).rreg rn = r ++ 0#8 ∧ ShiftStatus (s.applyShift rn o) o.flags.sv o.flags.sz o.flags.ss := by
  rw [State.applyShift, hv]
  refine ⟨setRreg_rreg_same .., ?_⟩
  simp [ShiftStatus, State.setRfix, State.shiftStatus, ShiftFlags.astat, getLsbD_bitAt, -BitVec.getLsbD_eq_getElem]

/-- A shifter row with a result. -/
theorem completes_shift {i : Instr} {op : ShiftOp} {rn rx ry : BitVec 4} {s : State} {r : BitVec 32} {f : ShiftFlags}
    (row : i.toCompute = some (.shift op rn rx ry))
    (result : shifter op (s.rfix rx) (s.rfix ry) (s.rfix rn) (s.flag 1) (freeAt s 4) = ⟨some r, f⟩) :
    Completes i s fun t => ComputeFrame s t [rn] [] 0x3800 0 ∧ t.rreg rn = r ++ 0#8 ∧ ShiftStatus t f.sv f.sz f.ss := by
  have runs : exec i s = .next (s.applyShift rn ⟨some r, f⟩) := by rw [exec_of_toCompute row, ← result]; rfl
  exact ⟨_, runs, applyShift_frame s rn ⟨some r, f⟩, applyShift_gives s rn rfl⟩

/-- A shifter row whose result has the bits `f`, with SZ of the result. -/
theorem completes_shiftOut {i : Instr} {op : ShiftOp} {rn rx ry : BitVec 4} {s : State} {r : BitVec 32} {sv : Bool}
    {f : Nat → Bool} (row : i.toCompute = some (.shift op rn rx ry))
    (result : shifter op (s.rfix rx) (s.rfix ry) (s.rfix rn) (s.flag 1) (freeAt s 4) = shiftOut r sv)
    (bits : ∀ j, j < 32 → r.getLsbD j = f j) :
    Completes i s fun t => ComputeFrame s t [rn] [] 0x3800 0 ∧ ShiftPost t rn sv f :=
  (completes_shift row result).imp fun _ ⟨frame, word, status⟩ => ⟨frame, r, bits, word, status⟩

/-- The OR forms add the old bits of the destination (R584, R586, R593, R595). -/
theorem getLsbD_or_of {r z : BitVec 32} {f : Nat → Bool} (bits : ∀ j, j < 32 → r.getLsbD j = f j) (j : Nat) (hj : j < 32) :
    (z ||| r).getLsbD j = (z.getLsbD j || f j) := by rw [BitVec.getLsbD_or, bits j hj]

/-! ### Shifts and the rotate (R583 to R587) -/

theorem bitZ_of_neg (x : BitVec 32) {j : Int} (h : j < 0) : bitZ x j = false := by
  rw [bitZ, decide_eq_false (not_le.mpr h), Bool.false_and]

theorem bitZ_of_nonneg (x : BitVec 32) {j : Int} (h : 0 ≤ j) : bitZ x j = x.getLsbD j.toNat := by
  rw [bitZ, decide_eq_true h, Bool.true_and]

theorem bitZ_of_ge (x : BitVec 32) {j : Int} (h : 32 ≤ j) : bitZ x j = false := by
  rw [bitZ_of_nonneg x (by omega), BitVec.getLsbD_of_ge _ _ (by omega)]

theorem getLsbD_shl (x : BitVec 32) (k : Int) (j : Nat) (hj : j < 32) : (shl x k).getLsbD j = bitZ x (j - k) := by
  unfold shl
  split_ifs with out left
  · rw [BitVec.ofNat_eq_ofNat, BitVec.getLsbD_zero]
    rcases out with high | low
    · exact (bitZ_of_neg x (by omega)).symm
    · exact (bitZ_of_ge x (by omega)).symm
  · rw [BitVec.getLsbD_shiftLeft]
    by_cases below : j < k.toNat
    · simp [below, bitZ_of_neg x (show (j : Int) - k < 0 by omega)]
    · rw [bitZ_of_nonneg x (by omega), show ((j : Int) - k).toNat = j - k.toNat by omega]
      simp [hj, below, -BitVec.getLsbD_eq_getElem]
  · rw [BitVec.getLsbD_ushiftRight, bitZ_of_nonneg x (by omega)]
    congr 1
    omega

theorem getLsbD_sha (x : BitVec 32) (k : Int) (j : Nat) (hj : j < 32) : (sha x k).getLsbD j = bitZ x (min 31 (j - k)) := by
  unfold sha
  split_ifs with left
  · rw [getLsbD_shl x k j hj, min_eq_right (by omega)]
  · rw [BitVec.getLsbD_sshiftRight, bitZ_of_nonneg x (by omega), BitVec.msb_eq_getLsbD_last,
      decide_eq_false (not_le.mpr hj), Bool.not_false, Bool.true_and]
    split_ifs <;> congr 1 <;> omega

theorem getLsbD_rot (x : BitVec 32) (k : Int) (j : Nat) (hj : j < 32) :
    (x.rotateLeft (k % 32).toNat).getLsbD j = bitZ x ((j - k) % 32) := by
  rw [BitVec.getLsbD_rotateLeft, bitZ_of_nonneg x (by omega)]
  by_cases wrapped : j < (k % 32).toNat % 32
  · rw [decide_eq_true wrapped, cond_true]
    congr 1
    omega
  · rw [decide_eq_false wrapped, cond_false, decide_eq_true hj, Bool.true_and]
    congr 1
    omega

/-! ### Bit operations (R588 to R591) -/

theorem getLsbD_bitMask (y : BitVec 32) (j : Nat) (hj : j < 32) : (bitMask y).getLsbD j = decide (j = y.toNat) := by
  unfold bitMask
  split_ifs with inside
  · rw [BitVec.getLsbD_shiftLeft]
    by_cases below : j < y.toNat
    · simp [below, below.ne]
    · simp [hj, below, BitVec.getLsbD_one]
      omega
  · simp
    omega

/-- A bit operation changes the bit that the operand names, if there is one. -/
theorem bitOut_eq {x y r : BitVec 32} (h : 32 ≤ y.toNat → r = x) : bitOut x y r = shiftOut r (decide (32 ≤ y.toNat)) := by
  unfold bitOut
  split_ifs with inside
  · rw [decide_eq_false (by omega)]
  · rw [decide_eq_true (by omega), h (by omega)]

theorem bitMask_of_ge {y : BitVec 32} (h : 32 ≤ y.toNat) : bitMask y = 0 := if_neg (by omega)

/-- The test of a bit: outside of the word it reads 0. -/
theorem and_bitMask_eq_zero (x y : BitVec 32) : x &&& bitMask y = 0 ↔ x.getLsbD y.toNat = false := by
  constructor
  · intro h
    by_cases inside : y.toNat < 32
    · have bit := congrArg (·.getLsbD y.toNat) h
      simpa [BitVec.getLsbD_and, getLsbD_bitMask y _ inside, -BitVec.getLsbD_eq_getElem] using bit
    · exact BitVec.getLsbD_of_ge _ _ (by omega)
  · intro h
    apply BitVec.eq_of_getLsbD_eq
    intro j hj
    rw [BitVec.getLsbD_and, getLsbD_bitMask y j hj]
    by_cases named : j = y.toNat
    · rw [named, h]; simp
    · simp [named]

/-! ### Field operations (R592 to R597) -/

theorem getLsbD_bitField (x : BitVec 32) (n j : Nat) (hj : j < 32) :
    (bitField x n).getLsbD j = (decide (j < n) && x.getLsbD j) := by
  unfold bitField
  split_ifs with whole
  · rw [decide_eq_true (by omega), Bool.true_and]
  · have low : 2 ^ n - 1 < 2 ^ 32 := lt_of_le_of_lt (Nat.sub_le _ _) (Nat.pow_lt_pow_right (by decide) (by omega))
    rw [BitVec.getLsbD_and, BitVec.getLsbD_ofNat, Nat.testBit_two_pow_sub_one, decide_eq_true hj, Bool.true_and,
      Bool.and_comm]

theorem getLsbD_bitsFrom (k j : Nat) (hj : j < 32) : (bitsFrom k).getLsbD j = decide (k ≤ j) := by
  unfold bitsFrom
  split_ifs with beyond
  · simp; omega
  · rw [BitVec.getLsbD_shiftLeft, BitVec.getLsbD_allOnes, Bool.eq_iff_iff]
    simp [hj]
    omega

/-- The bits of a deposited field, filled to the left with its top bit in the (SE) form. -/
theorem getLsbD_deposit (se : Bool) (x y : BitVec 32) (j : Nat) (hj : j < 32) : (deposit se x y).getLsbD j =
    ((decide (fieldPos y ≤ j) && decide (j < fieldPos y + fieldLen y) && x.getLsbD (j - fieldPos y))
      || (se && decide (0 < fieldLen y) && decide (fieldPos y + fieldLen y ≤ j) && x.getLsbD (fieldLen y - 1))) := by
  have field : (shl (bitField x (fieldLen y)) (fieldPos y)).getLsbD j =
      (decide (fieldPos y ≤ j) && decide (j < fieldPos y + fieldLen y) && x.getLsbD (j - fieldPos y)) := by
    rw [getLsbD_shl _ _ j hj]
    by_cases below : j < fieldPos y
    · rw [bitZ_of_neg _ (by omega), decide_eq_false (not_le.mpr below), Bool.false_and, Bool.false_and]
    · rw [bitZ_of_nonneg _ (by omega), show ((j : Int) - fieldPos y).toNat = j - fieldPos y by omega,
        getLsbD_bitField x _ _ (by omega), decide_eq_true (not_lt.mp below), Bool.true_and]
      congr 1
      rw [decide_eq_decide]
      omega
  unfold deposit
  extract_lets len r
  split_ifs with fill
  · simp only [Bool.and_eq_true, decide_eq_true_eq] at fill
    obtain ⟨⟨hse, hlen⟩, top⟩ := fill
    rw [BitVec.getLsbD_or, field, getLsbD_bitsFrom _ j hj, hse, top, decide_eq_true hlen]
    simp [len]
  · rw [field]
    cases hse : se <;> cases top : x.getLsbD (fieldLen y - 1) <;> simp_all [len, -BitVec.getLsbD_eq_getElem]

/-- The bits of an extracted field, filled to the left with its top bit in the (SE) form. -/
theorem getLsbD_extract (se : Bool) (x y : BitVec 32) (j : Nat) (hj : j < 32) : (extract se x y).getLsbD j =
    ((decide (j < fieldLen y) && x.getLsbD (j + fieldPos y))
      || (se && decide (0 < fieldLen y) && decide (fieldLen y ≤ j) && x.getLsbD (fieldPos y + fieldLen y - 1))) := by
  have field : (bitField (shl x (-(fieldPos y : Int))) (fieldLen y)).getLsbD j =
      (decide (j < fieldLen y) && x.getLsbD (j + fieldPos y)) := by
    rw [getLsbD_bitField _ _ j hj, getLsbD_shl _ _ j hj, bitZ_of_nonneg _ (by omega)]
    congr 2
    omega
  have beyond (off : fieldOff y = true) : x.getLsbD (fieldPos y + fieldLen y - 1) = false := by
    have := of_decide_eq_true off
    exact BitVec.getLsbD_of_ge _ _ (by omega)
  unfold extract
  extract_lets len r
  split_ifs with fill
  · simp only [Bool.and_eq_true, decide_eq_true_eq] at fill
    obtain ⟨⟨⟨hse, hlen⟩, -⟩, top⟩ := fill
    rw [BitVec.getLsbD_or, field, getLsbD_bitsFrom _ j hj, hse, top, decide_eq_true hlen]
    simp [len]
  · rw [field]
    cases hse : se <;> cases top : x.getLsbD (fieldPos y + fieldLen y - 1) <;> cases off : fieldOff y <;>
      simp_all [len, -BitVec.getLsbD_eq_getElem]

/-! ### Leading bits and exponents (R598 to R601) -/

/-- The leading zeros are a run of zeros from bit 31 down. -/
theorem leadingRun_zeros (x : BitVec 32) : LeadingRun x false (leadingZeros x) := by
  unfold leadingZeros
  split_ifs with zero
  · refine ⟨le_rfl, fun j _ _ => ?_, fun h => absurd h (by decide)⟩
    rw [zero]; simp
  · have h0 : x.toNat ≠ 0 := fun h => zero (BitVec.eq_of_toNat_eq h)
    have low : 2 ^ x.toNat.log2 ≤ x.toNat := Nat.log2_self_le h0
    have high : x.toNat < 2 ^ (x.toNat.log2 + 1) := Nat.lt_log2_self
    have top : x.toNat.log2 < 32 := (Nat.log2_lt h0).mpr x.isLt
    refine ⟨by omega, fun j hj _ => ?_, fun _ => ?_⟩
    · rw [BitVec.getLsbD, Nat.testBit_lt_two_pow]
      exact high.trans_le (Nat.pow_le_pow_right two_pos (by omega))
    · rw [show 31 - (31 - x.toNat.log2) = x.toNat.log2 by omega]
      have lead : x.toNat / 2 ^ x.toNat.log2 = 1 := by
        apply Nat.div_eq_of_lt_le <;> omega
      rw [BitVec.getLsbD, Nat.testBit_eq_decide_div_mod_eq, lead]
      rfl

/-- Counting on the complement counts the ones. -/
theorem leadingRun_not {x : BitVec 32} {b : Bool} {n : Nat} (h : LeadingRun (~~~x) b n) : LeadingRun x (!b) n := by
  obtain ⟨le, run, stop⟩ := h
  have flip {j : Nat} (hj : j < 32) : (~~~x).getLsbD j = !x.getLsbD j := by
    simp [hj, -BitVec.getLsbD_eq_getElem]
  refine ⟨le, fun j h1 h2 => ?_, fun hn => ?_⟩
  · rw [← run j h1 h2, flip h2, Bool.not_not]
  · rw [← stop hn, flip (by omega), Bool.not_not]

/-- The exponent is one minus the length of the run of sign bits. -/
theorem expOf_run (x : BitVec 32) : ∃ n : Nat, LeadingRun x x.msb n ∧ expOf x = 1 - n := by
  have sign : x.getLsbD 31 = x.msb := (BitVec.msb_eq_getLsbD_last x).symm
  rw [expOf, sign]
  cases x.msb
  · exact ⟨_, leadingRun_zeros x, rfl⟩
  · exact ⟨_, leadingRun_not (leadingRun_zeros (~~~x)), rfl⟩

theorem leadingZeros_le (x : BitVec 32) : leadingZeros x ≤ 32 := (leadingRun_zeros x).1

/-- All bits are zero when the run of zeros takes the whole word. -/
theorem leadingZeros_eq_iff (x : BitVec 32) : leadingZeros x = 32 ↔ x = 0 := by
  unfold leadingZeros
  split_ifs with zero
  · simp [zero]
  · exact ⟨fun h => absurd h (by omega), fun h => absurd h zero⟩

theorem ofNat_leadingZeros_eq_zero (x : BitVec 32) : BitVec.ofNat 32 (leadingZeros x) = 0 ↔ leadingZeros x = 0 := by
  have le := leadingZeros_le x
  rw [← BitVec.toNat_inj, BitVec.toNat_ofNat, Nat.mod_eq_of_lt (by omega)]
  rfl

/-- A count of leading zeros as a result, as the statement writes it. -/
theorem shiftOut_leadingZeros (x : BitVec 32) : shiftOut (BitVec.ofNat 32 (leadingZeros x)) (decide (x = 0)) =
    ⟨some (BitVec.ofInt 32 (leadingZeros x : Int)),
      ⟨decide (leadingZeros x = 32), decide ((leadingZeros x : Int) = 0), false⟩⟩ := by
  simp only [shiftOut, BitVec.ofInt_natCast, leadingZeros_eq_iff, ofNat_leadingZeros_eq_zero, Int.natCast_eq_zero]

/-! ### Immediate forms (40_compute_move.md R362) -/

theorem shiftImmediate_eq (op : ShiftImmOp) (dataex : BitVec 4) (data : BitVec 8) : shiftImmediate op dataex data =
    if op ∈ [ShiftImmOp.fdep, .orFdep, .fdepSe, .orFdepSe, .fext, .fextSe] then 0#20 ++ dataex ++ data
    else BitVec.ofInt 32 data.toInt := by
  have field : (dataex ++ data).setWidth 32 = 0#20 ++ dataex ++ data := by
    apply BitVec.eq_of_toNat_eq
    rw [BitVec.toNat_setWidth_of_le (by decide)]
    simp only [BitVec.toNat_append, BitVec.toNat_ofNat, Nat.zero_mod, Nat.zero_shiftLeft, Nat.zero_or]
  have sign : data.signExtend 32 = BitVec.ofInt 32 data.toInt := rfl
  rw [shiftImmediate, field, sign]
  cases op <;> rfl

/-- What an immediate shift touches, whatever its operand. -/
theorem shiftImm_frame (s : State) (op : ShiftImmOp) (rn rx : BitVec 4) (y : BitVec 32) :
    ComputeFrame s (s.shift op.toShiftOp rn rx y) (if op = .btst then [] else [rn]) [] 0x3800 0 := by
  have frame := applyShift_frame s rn (shifter op.toShiftOp (s.rfix rx) y (s.rfix rn) (s.flag 1) (freeAt s 4))
  rw [shifter_val] at frame
  cases op <;> exact frame

/-- An immediate shift under a true condition. -/
theorem exec_ofShiftImm_true {s : State} {cond : BitVec 5} (hc : s.cond cond = true) (op : ShiftImmOp)
    (dataex : BitVec 4) (data : BitVec 8) (rn rx : BitVec 4) :
    exec (Instr.ofShiftImm op cond dataex data rn rx) s =
      .next ((s.noteCond cond).shift op.toShiftOp rn rx (shiftImmediate op dataex data)) := by
  rw [exec_ofShiftImm, State.shiftImmAlone, given_true hc]
  rfl

end Sys2Proof.Machine

open Sys2Proof Sys2Proof.Machine

/-- Settles O28: the bits of `shl`, `sha` and the rotate. -/
theorem shiftsAndRotate : Obligations.ShiftsAndRotate := by
  intro s rn rx ry x z k left logical arith row
  have shl_bits : ∀ j, j < 32 → (shl x k).getLsbD j = logical j := getLsbD_shl x k
  have sha_bits : ∀ j, j < 32 → (sha x k).getLsbD j = arith j := getLsbD_sha x k
  exact ⟨completes_shiftOut (op := .lshift) rfl rfl shl_bits,
    completes_shiftOut (op := .orLshift) rfl rfl (getLsbD_or_of shl_bits),
    completes_shiftOut (op := .ashift) rfl rfl sha_bits,
    completes_shiftOut (op := .orAshift) rfl rfl (getLsbD_or_of sha_bits),
    completes_shiftOut (op := .rot) rfl rfl (getLsbD_rot x k)⟩

/-- Settles O29: the bits of a word combined with the mask of the operand. -/
theorem shifterBitOperations : Obligations.ShifterBitOperations := by
  intro s rn rx ry x p out row
  refine ⟨completes_shiftOut (op := .bclr) rfl (bitOut_eq fun h => ?_) fun j hj => ?_,
    completes_shiftOut (op := .bset) rfl (bitOut_eq fun h => ?_) fun j hj => ?_,
    completes_shiftOut (op := .btgl) rfl (bitOut_eq fun h => ?_) fun j hj => ?_, ?_⟩
  · rw [bitMask_of_ge h, BitVec.ofNat_eq_ofNat, BitVec.not_zero, BitVec.and_allOnes]
  · rw [BitVec.getLsbD_and, BitVec.getLsbD_not, getLsbD_bitMask _ j hj]
    simp [hj, p, x, -BitVec.getLsbD_eq_getElem]
  · simp [bitMask_of_ge h]
  · rw [BitVec.getLsbD_or, getLsbD_bitMask _ j hj]
  · simp [bitMask_of_ge h]
  · rw [BitVec.getLsbD_xor, getLsbD_bitMask _ j hj]
  · have runs : exec (.shBtst rn rx ry) s = .next (s.shiftStatus ⟨out, decide (x &&& bitMask (s.rfix ry) = 0), false⟩) := rfl
    refine ⟨_, runs, shiftStatus_frame s _, ?_⟩
    simp only [and_bitMask_eq_zero]
    simp [ShiftStatus, State.shiftStatus, ShiftFlags.astat, getLsbD_bitAt, p, -BitVec.getLsbD_eq_getElem]

/-- Settles O30: the bits of a deposited and of an extracted field. -/
theorem fieldDepositAndExtract : Obligations.FieldDepositAndExtract := by
  intro s rn rx ry x z pos len off dep depSe ext extSe row
  have dep_bits : ∀ j, j < 32 → (deposit false x (s.rfix ry)).getLsbD j = dep j := fun j hj => by
    rw [getLsbD_deposit _ _ _ j hj, Bool.false_and, Bool.false_and, Bool.false_and, Bool.or_false]; rfl
  have depSe_bits : ∀ j, j < 32 → (deposit true x (s.rfix ry)).getLsbD j = depSe j := fun j hj => by
    rw [getLsbD_deposit _ _ _ j hj, Bool.true_and]; rfl
  have ext_bits : ∀ j, j < 32 → (extract false x (s.rfix ry)).getLsbD j = ext j := fun j hj => by
    rw [getLsbD_extract _ _ _ j hj, Bool.false_and, Bool.false_and, Bool.false_and, Bool.or_false]; rfl
  have extSe_bits : ∀ j, j < 32 → (extract true x (s.rfix ry)).getLsbD j = extSe j := fun j hj => by
    rw [getLsbD_extract _ _ _ j hj, Bool.true_and]; rfl
  have sameOff : fieldOff (s.rfix ry) = off := by
    rw [fieldOff, Nat.add_comm]; rfl
  have out (r : BitVec 32) : shiftOut r (fieldOff (s.rfix ry)) = shiftOut r off := by rw [sameOff]
  exact ⟨completes_shiftOut (op := .fdep) rfl (out _) dep_bits,
    completes_shiftOut (op := .orFdep) rfl (out _) (getLsbD_or_of dep_bits),
    completes_shiftOut (op := .fdepSe) rfl (out _) depSe_bits,
    completes_shiftOut (op := .orFdepSe) rfl (out _) (getLsbD_or_of depSe_bits),
    completes_shiftOut (op := .fext) rfl (out _) ext_bits,
    completes_shiftOut (op := .fextSe) rfl (out _) extSe_bits⟩

/-- Settles O31: the run of leading bits equal to the sign, of zeros and of ones. -/
theorem exponentAndLeadingBits : Obligations.ExponentAndLeadingBits := by
  intro s rn rx ry x post
  obtain ⟨n, run, value⟩ := expOf_run x
  refine ⟨⟨n, run, ?_, ?_⟩, ⟨leadingZeros x, leadingRun_zeros x, ?_⟩,
    ⟨leadingZeros (~~~x), leadingRun_not (leadingRun_zeros (~~~x)), ?_⟩⟩
  · exact completes_shift (op := .exp) rfl (congrArg (expOut · _) value)
  · rw [← value]
    exact completes_shift (op := .expEx) rfl rfl
  · exact completes_shift (op := .leftz) rfl (shiftOut_leadingZeros x)
  · exact completes_shift (op := .lefto) rfl (shiftOut_leadingZeros (~~~x))

/-- Settles O33: both forms are the shifter on an operand, of Ry or the immediate one (`shiftImmediate_eq`). -/
theorem immediateShifts : Obligations.ImmediateShifts := by
  intro p hp s cond dataex data rn rx ry y
  have row : (p.2 rn rx ry).toCompute = some (.shift p.1.toShiftOp rn rx ry) := by fin_cases hp <;> rfl
  refine ⟨exec_of_toCompute row s, fun hc => ⟨_, exec_ofShiftImm_true hc p.1 dataex data rn rx, ?_, ?_⟩⟩
  · rw [shiftImmediate_eq]
  · exact shiftImm_frame ..
end

section
/-! The short floating-point format: FPACK and FUNPACK (47_shifter.md section 6). -/

namespace Sys2Proof.Machine

/-! ### Concatenations as numbers -/

theorem toNat_append_eq {v w : Nat} (x : BitVec v) (y : BitVec w) : (x ++ y).toNat = x.toNat * 2 ^ w + y.toNat := by
  rw [BitVec.toNat_append, ← Nat.shiftLeft_add_eq_or_of_lt y.isLt, Nat.shiftLeft_eq]

/-- A register word put together from sign, exponent and the upper 23 bits of the fraction. -/
def fltWord (neg : Bool) (e f : Nat) : BitVec 32 := BitVec.ofBool neg ++ BitVec.ofNat 8 e ++ BitVec.ofNat 23 f

section Fields

variable (neg : Bool) {e f : Nat}

theorem fltWord_sign : (fltWord neg e f).getLsbD 31 = neg := by
  simp [fltWord, -Nat.reduceAdd, -BitVec.getLsbD_eq_getElem]

theorem fltWord_exp (he : e < 256) : ((fltWord neg e f).extractLsb' 23 8).toNat = e := by
  simp [fltWord, -Nat.reduceAdd, Nat.mod_eq_of_lt he]

theorem fltWord_frac (hf : f < 2 ^ 23) : ((fltWord neg e f).extractLsb' 0 23).toNat = f := by
  simp [fltWord, -Nat.reduceAdd]
  omega

theorem fltExp_fltWord (he : e < 256) : fltExp (fltWord neg e f ++ 0#8) = e := by
  simp [fltExp, fltWord, -Nat.reduceAdd, Nat.mod_eq_of_lt he]

theorem fltWord_toNat (he : e < 256) (hf : f < 2 ^ 23) :
    (fltWord neg e f).toNat = (neg.toNat * 2 ^ 8 + e) * 2 ^ 23 + f := by
  rw [fltWord, toNat_append_eq, toNat_append_eq, BitVec.toNat_ofBool, BitVec.toNat_ofNat, BitVec.toNat_ofNat,
    Nat.mod_eq_of_lt he, Nat.mod_eq_of_lt hf]

theorem fltFrac_fltWord (he : e < 256) (hf : f < 2 ^ 23) : fltFrac (fltWord neg e f ++ 0#8) = f * 2 ^ 8 := by
  rw [fltFrac, BitVec.extractLsb'_toNat, Nat.shiftRight_zero, toNat_append_eq, fltWord_toNat neg he hf, BitVec.toNat_zero]
  omega

end Fields

/-! ### FUNPACK (R604) -/

/-- The 16 bits of a short number as a sign, an exponent and a fraction. -/
theorem short_toNat (x : BitVec 32) : (x.extractLsb' 0 16).toNat =
    ((BitVec.ofBool (x.getLsbD 15)).toNat * 2 ^ 4 + (x.extractLsb' 11 4).toNat) * 2 ^ 11 + (x.extractLsb' 0 11).toNat := by
  have sign : (BitVec.ofBool (x.getLsbD 15)).toNat = x.toNat / 2 ^ 15 % 2 := by
    rw [BitVec.getLsbD, Nat.testBit_eq_decide_div_mod_eq, BitVec.toNat_ofBool]
    rcases Nat.mod_two_eq_zero_or_one (x.toNat / 2 ^ 15) with h | h <;> rw [h] <;> rfl
  rw [sign]
  simp only [BitVec.extractLsb'_toNat, Nat.shiftRight_eq_div_pow]
  omega

/-- What FUNPACK makes of the exponent `e4` and the fraction `fr` of a short number: a normal number keeps its fraction,
a zero stays one, and a denormal is normalised. -/
inductive Unpacked (e4 fr : Nat) : (e f : Nat) → Prop
  | normal (h : e4 ≠ 0) : Unpacked e4 fr (120 + e4) (fr * 2 ^ 12)
  | zero (h : e4 = 0) (hf : fr = 0) : Unpacked e4 fr 0 0
  | denormal {n f : Nat} (h : e4 = 0) (hf : fr ≠ 0) (hn : n ≤ 10) (sig : 2 ^ 23 + f = fr * 2 ^ (n + 13))
      (bound : f < 2 ^ 23) : Unpacked e4 fr (120 - n) f

theorem funpack_eq (x : BitVec 32) : ∃ e f, Unpacked (x.extractLsb' 11 4).toNat (x.extractLsb' 0 11).toNat e f
    ∧ funpack x = fltWord (x.getLsbD 15) e f := by
  have fits : (x.extractLsb' 0 11).toNat < 2 ^ 11 := (x.extractLsb' 0 11).isLt
  have small : (x.extractLsb' 11 4).toNat < 16 := (x.extractLsb' 11 4).isLt
  unfold funpack
  dsimp only
  split_ifs with normal zero
  · refine ⟨_, _, .normal fun h => normal (BitVec.eq_of_toNat_eq h), BitVec.eq_of_toNat_eq ?_⟩
    rw [fltWord_toNat _ (by omega) (by omega)]
    generalize (x.extractLsb' 0 11).toNat = fr at fits
    generalize x.extractLsb' 11 4 = e4 at normal small
    have top : (BitVec.ofBool (e4.getLsbD 3)).toNat = e4.toNat / 8
        ∧ (BitVec.ofBool (!e4.getLsbD 3)).toNat = 1 - e4.toNat / 8
        ∧ (e4.extractLsb' 0 3).toNat = e4.toNat % 8 := by revert e4; decide
    obtain ⟨high, low, rest⟩ := top
    simp only [toNat_append_eq, high, low, rest, BitVec.toNat_ofNat, BitVec.toNat_ofBool]
    omega
  · rw [ne_eq, not_not] at normal
    refine ⟨_, _, .zero (congrArg BitVec.toNat normal) zero, BitVec.eq_of_toNat_eq ?_⟩
    rw [fltWord_toNat _ (by omega) (by omega), toNat_append_eq, BitVec.toNat_ofBool, BitVec.toNat_ofNat]
    omega
  · rw [ne_eq, not_not] at normal
    generalize (x.extractLsb' 0 11).toNat = fr at fits zero
    have lo : 2 ^ fr.log2 ≤ fr := Nat.log2_self_le zero
    have hi : fr < 2 ^ (fr.log2 + 1) := Nat.lt_log2_self
    have lead : fr.log2 < 11 := (Nat.log2_lt zero).mpr fits
    have low : 2 ^ 23 ≤ fr * 2 ^ (10 - fr.log2 + 13) := by
      calc 2 ^ 23 = 2 ^ fr.log2 * 2 ^ (10 - fr.log2 + 13) := by rw [← pow_add]; congr 1; omega
        _ ≤ _ := Nat.mul_le_mul_right _ lo
    have high : fr * 2 ^ (10 - fr.log2 + 13) < 2 ^ 24 := by
      calc _ < 2 ^ (fr.log2 + 1) * 2 ^ (10 - fr.log2 + 13) := Nat.mul_lt_mul_of_pos_right hi (by positivity)
        _ = 2 ^ 24 := by rw [← pow_add]; congr 1; omega
    refine ⟨_, fr * 2 ^ (10 - fr.log2 + 13) - 2 ^ 23, .denormal (congrArg BitVec.toNat normal) zero
      (Nat.sub_le 10 fr.log2) (by omega) (by omega), ?_⟩
    have hidden : BitVec.ofNat 23 (fr * 2 ^ (10 - fr.log2 + 13)) = BitVec.ofNat 23 (fr * 2 ^ (10 - fr.log2 + 13) - 2 ^ 23) := by
      apply BitVec.eq_of_toNat_eq
      rw [BitVec.toNat_ofNat, BitVec.toNat_ofNat]
      omega
    rw [hidden]
    rfl

/-- An unpacked number has a finite exponent and no bits below those of the short format. -/
theorem Unpacked.bounds {e4 fr e f : Nat} (h : Unpacked e4 fr e f) (he : e4 < 16) (hf : fr < 2 ^ 11) :
    e < 255 ∧ f < 2 ^ 23 ∧ f % 2 ^ 12 = 0 := by
  cases h with
  | normal h => omega
  | zero h hf => omega
  | @denormal n f h _ hn sig bound =>
    have even : (2 ^ 23 + f) % 2 ^ 12 = 0 := by
      rw [sig, show n + 13 = n + 1 + 12 by omega, pow_add _ _ 12, ← mul_assoc, Nat.mul_mod_left]
    omega

/-- The value of an unpacked number: that of the short one. -/
theorem Unpacked.value {e4 fr e f : Nat} (h : Unpacked e4 fr e f) (neg : Bool) (he : e4 < 16) (hf : fr < 2 ^ 11) :
    |fltVal (fltWord neg e f ++ 0#8)| =
      if e4 = 0 then (fr : ℚ) * 2 ^ (-17 : Int) else (2 ^ 11 + fr : ℚ) * 2 ^ ((e4 : Int) - 18) := by
  obtain ⟨hexp, hfrac, -⟩ := h.bounds he hf
  have mag : |fltVal (fltWord neg e f ++ 0#8)| =
      ((if e = 0 then 0 else 2 ^ 31 + f * 2 ^ 8 : Nat) : ℚ) * 2 ^ ((e : Int) - 158) := by
    rw [fltVal, fltMant, fltPow, fltExp_fltWord neg (by omega), fltFrac_fltWord neg (by omega) hfrac, abs_mul, abs_mul,
      abs_of_nonneg (by positivity : (0 : ℚ) ≤ 2 ^ ((e : Int) - 158)), Nat.abs_cast]
    cases fltSign (fltWord neg e f ++ 0#8) <;> simp
  rw [mag]
  cases h with
  | normal h =>
    rw [if_neg (by omega), if_neg h, show ((120 + e4 : Nat) : Int) - 158 = ((e4 : Int) - 18) + (-20) by omega,
      zpow_add₀ two_ne_zero]
    push_cast
    ring
  | zero h hf => simp [h, hf]
  | @denormal n f h _ hn sig bound =>
    have sig' : 2 ^ 31 + f * 2 ^ 8 = fr * 2 ^ (n + 21) := by
      calc 2 ^ 31 + f * 2 ^ 8 = (2 ^ 23 + f) * 2 ^ 8 := by ring
        _ = fr * 2 ^ (n + 21) := by rw [sig, mul_assoc, ← pow_add]
    rw [if_neg (by omega), if_pos h, sig', show ((120 - n : Nat) : Int) - 158 = -17 + -((n + 21 : Nat) : Int) by omega,
      zpow_add₀ two_ne_zero _ (-((n + 21 : Nat) : Int)), zpow_neg _ ((n + 21 : Nat) : Int), zpow_natCast]
    push_cast
    field_simp

/-! ### FPACK (R603) -/

theorem roundNearest_roundsTo (m k : Nat) : RoundsTo false m k (roundNearest m k) := shiftRound_roundsTo false m k

/-- A multiple of the unit is packed as it is. -/
theorem roundNearest_mul (q k : Nat) : roundNearest (q * 2 ^ k) k = q := by
  unfold roundNearest
  simp

/-- A packed short word: 16 zeros, the sign, the 15 bits of the magnitude. -/
def shortWord (neg : Bool) (mag : Nat) : BitVec 32 := 0#16 ++ BitVec.ofBool neg ++ BitVec.ofNat 15 mag

/-- What FPACK answers, by the range of the exponent; the one case that is left open has free bits below the sign. -/
theorem fpack_eq (x : BitVec 32) (free : BitVec 80) : ∃ mag sv q, fpack x free =
      ⟨some (shortWord (x.getLsbD 31) mag), ⟨sv, false, false⟩⟩
    ∧ (if 135 < (x.extractLsb' 23 8).toNat then q = 0x7FFF
        else if 120 < (x.extractLsb' 23 8).toNat then
          q = ((x.extractLsb' 23 8).toNat - 120) * 2048 + roundNearest (x.extractLsb' 0 23).toNat 12
        else if 109 < (x.extractLsb' 23 8).toNat then
          q = roundNearest (2 ^ 23 + (x.extractLsb' 0 23).toNat) (133 - (x.extractLsb' 23 8).toNat)
        else q = 0)
    ∧ (q < 0x8000 → mag = q ∧ sv = decide (135 < (x.extractLsb' 23 8).toNat)) := by
  unfold fpack
  dsimp only
  split_ifs with large normal fits denormal
  · exact ⟨_, _, _, rfl, rfl, fun _ => ⟨rfl, (decide_eq_true large).symm⟩⟩
  · exact ⟨_, _, _, rfl, rfl, fun _ => ⟨rfl, (decide_eq_false large).symm⟩⟩
  · exact ⟨_, _, _, rfl, rfl, fun h => absurd h fits⟩
  · exact ⟨_, _, _, rfl, rfl, fun _ => ⟨rfl, (decide_eq_false large).symm⟩⟩
  · exact ⟨_, _, _, rfl, rfl, fun _ => ⟨rfl, (decide_eq_false large).symm⟩⟩

/-- Packing takes an unpacked number back. -/
theorem fpack_fltWord {e4 fr e f : Nat} (h : Unpacked e4 fr e f) (neg : Bool) (he : e4 < 16) (hf : fr < 2 ^ 11)
    (free : BitVec 80) :
    fpack (fltWord neg e f) free = ⟨some (shortWord neg (e4 * 2 ^ 11 + fr)), ⟨false, false, false⟩⟩ := by
  obtain ⟨hexp, hfrac, -⟩ := h.bounds he hf
  obtain ⟨mag, sv, q, packed, magnitude, inside⟩ := fpack_eq (fltWord neg e f) free
  rw [fltWord_sign] at packed
  rw [fltWord_exp neg (by omega), fltWord_frac neg hfrac] at magnitude
  rw [fltWord_exp neg (by omega)] at inside
  have hq : e ≤ 135 ∧ q = e4 * 2 ^ 11 + fr := by
    cases h with
    | normal h =>
      rw [if_neg (by omega), if_pos (by omega), roundNearest_mul] at magnitude
      omega
    | zero h hf =>
      rw [if_neg (by omega), if_neg (by omega), if_neg (by omega)] at magnitude
      omega
    | @denormal n f h _ hn sig bound =>
      rw [if_neg (by omega), if_neg (by omega), if_pos (by omega), sig, show 133 - (120 - n) = n + 13 by omega,
        roundNearest_mul] at magnitude
      omega
  obtain ⟨rfl, rfl⟩ := inside (by omega)
  rw [packed, hq.2, decide_eq_false (by omega)]

theorem shortWord_toNat (neg : Bool) {mag : Nat} (h : mag < 2 ^ 15) : (shortWord neg mag).toNat = neg.toNat * 2 ^ 15 + mag := by
  rw [shortWord, toNat_append_eq, toNat_append_eq, BitVec.toNat_ofBool, BitVec.toNat_ofNat, BitVec.toNat_ofNat,
    Nat.mod_eq_of_lt h]
  omega

end Sys2Proof.Machine

open Sys2Proof Sys2Proof.Machine

/-- Settles O32: FUNPACK gives the fields of `Unpacked`, whose value is that of the short number; FPACK rounds by the range
of the exponent (`fpack_eq`) and takes these fields back (`fpack_fltWord`). -/
theorem shortFloatPackAndUnpack : Obligations.ShortFloatPackAndUnpack := by
  intro s rn rx ry rk h e4 fr e f sg
  have exponent : e4 = ((s.rfix rx).extractLsb' 11 4).toNat := by
    simp only [e4, h, BitVec.extractLsb'_toNat, Nat.shiftRight_eq_div_pow]
    omega
  have fraction : fr = ((s.rfix rx).extractLsb' 0 11).toNat := by
    simp only [fr, h, BitVec.extractLsb'_toNat, Nat.shiftRight_eq_div_pow]
    omega
  have sign : h.msb = (s.rfix rx).getLsbD 15 := by
    rw [BitVec.msb_eq_getLsbD_last, BitVec.getLsbD_extractLsb']
    rfl
  obtain ⟨ex, fx, unpacked, word⟩ := funpack_eq (s.rfix rx)
  rw [← exponent, ← fraction] at unpacked
  have he : e4 < 16 := (h.extractLsb' 11 4).isLt
  have hf : fr < 2 ^ 11 := (h.extractLsb' 0 11).isLt
  obtain ⟨hexp, hfrac, low⟩ := unpacked.bounds he hf
  refine ⟨?_, ?_, ?_⟩
  · refine (completes_shift (op := .funpack) (f := ⟨false, false, false⟩) rfl rfl).imp
      fun t ⟨frame, result, status⟩ => ⟨frame, status, ?_⟩
    rw [word] at result
    rw [result, fltExp_fltWord _ (by omega), sign]
    refine ⟨?_, ?_, by omega, fun h4 hfr => ?_, unpacked.value _ he hf⟩
    · exact (bit_append_high (i := 39) _ _ (by decide)).trans (fltWord_sign _)
    · apply BitVec.eq_of_toNat_eq
      rw [BitVec.extractLsb'_toNat, Nat.shiftRight_zero, toNat_append_eq, fltWord_toNat _ (by omega) hfrac]
      change _ = 0
      rw [BitVec.toNat_zero]
      omega
    · cases unpacked with
      | normal h => exact absurd h4 h
      | zero => cases (s.rfix rx).getLsbD 15 <;> rfl
      | denormal _ h => exact absurd hfr h
  · obtain ⟨mag, sv, q, packed, magnitude, inside⟩ := fpack_eq (s.rfix rx) (freeAt s 4)
    refine (completes_shift (op := .fpack) rfl packed).imp
      fun t ⟨frame, result, sv', sz, ss⟩ => ⟨frame, sz, ss, q, ?_, ?_, ?_, fun hq => ?_⟩
    · rw [result]
      simp [shortWord, -Nat.reduceAdd, sg, BitVec.msb_eq_getLsbD_last]
    · rw [result]
      simp [-Nat.reduceAdd]
    · split_ifs at magnitude ⊢ with large normal denormal
      · exact magnitude
      · exact ⟨_, roundNearest_roundsTo _ _, magnitude⟩
      · rw [magnitude]
        convert roundNearest_roundsTo (2 ^ 23 + f) (133 - e) using 1
        · push_cast; rfl
        · omega
      · exact magnitude
    · obtain ⟨rfl, rfl⟩ := inside hq
      exact ⟨result, sv'⟩
  · obtain ⟨t, runs, -, result, -⟩ :=
      completes_shift (i := .shFunpack rn rx ry) (op := .funpack) (s := s) (f := ⟨false, false, false⟩) rfl rfl
    rw [word] at result
    have operand : t.rfix rn = fltWord ((s.rfix rx).getLsbD 15) ex fx := by
      rw [State.rfix, result]
      exact BitVec.extractLsb'_append_eq_left
    obtain ⟨u, runs', -, result', -⟩ := completes_shift (i := .shFpack rk rn ry) (op := .fpack) (s := t) rfl
      (by rw [operand]; exact fpack_fltWord unpacked _ he hf _)
    have back : shortWord ((s.rfix rx).getLsbD 15) (e4 * 2 ^ 11 + fr) = 0#16 ++ h := by
      apply BitVec.eq_of_toNat_eq
      rw [shortWord_toNat _ (by omega), toNat_append_eq, BitVec.toNat_zero, short_toNat, ← exponent, ← fraction,
        BitVec.toNat_ofBool]
      omega
    exact ⟨t, u, runs, runs', by rw [result', back]⟩
end

section
/-! The multiplier: what a row leaves in the sticky bits, rounding at bit 32, and the floating-point multiply. -/

namespace Sys2Proof.Machine

/-! ### Status and results -/

theorem applyMul_sticks (s : State) (rn : BitVec 4) (o : MulOut) :
    Sticks s (s.applyMul rn o) 6 o.flags.mos ∧ Sticks s (s.applyMul rn o) 7 o.flags.mvs
      ∧ Sticks s (s.applyMul rn o) 8 o.flags.mus ∧ Sticks s (s.applyMul rn o) 9 o.flags.mi := by
  have stky : (s.applyMul rn o).sys.stky = o.flags.stky s.sys.stky := by
    unfold State.applyMul
    split <;> simp [State.mulStatus]
  unfold Sticks
  rw [stky]
  simp [MulFlags.stky, getLsbD_bitAt, -BitVec.getLsbD_eq_getElem]

/-- A multiplier row from its output: the frame, the status, and the state it leaves. -/
theorem completes_mul {i : Instr} {op : MulOp} {rn rx ry : BitVec 4} (s : State) {o : MulOut}
    (row : i.toCompute = some (.mul op rn rx ry)) (result : s.mulResult op rx ry = o) :
    Completes i s fun t => t = s.applyMul rn o ∧ ComputeFrame s t (o.regs rn) o.accs 0x3C0 op.stkyMask
      ∧ MulStatus t o.flags.mn o.flags.mv o.flags.mu o.flags.mi := by
  have runs : exec i s = .next (s.applyMul rn o) := by rw [exec_of_toCompute row, ← result]; rfl
  exact ⟨_, runs, rfl, applyMul_frame s rn o _ (result ▸ multiply_sticks ..), applyMul_mulStatus ..⟩

/-- A result delivered with the flags of its format (R544, R545). -/
theorem completes_fixed {i : Instr} {op : MulOp} {rn rx ry : BitVec 4} {s : State} {f : MulFmt} {d : MulDest}
    {v : BitVec 80} (row : i.toCompute = some (.mul op rn rx ry))
    (result : s.mulResult op rx ry = deliver f d v (mulFixedFlags f v)) (mask : op.stkyMask = 0x40) :
    Completes i s fun t => ComputeFrame s t (d.regs rn) d.accs 0x3C0 0x40 ∧ Delivered t d f rn v
      ∧ MulStatus t v.msb (fmtOver f v) (fmtUnder f v) false ∧ Sticks s t 6 (fmtOver f v) := by
  obtain ⟨t, runs, rfl, frame, status⟩ := completes_mul s row result
  have sticks := (applyMul_sticks s rn (deliver f d v (mulFixedFlags f v))).1
  rw [mask] at frame
  rw [BitVec.msb_eq_getLsbD_last, ← mulOverflow_eq_fmtOver, ← mulUnderflow_eq_fmtUnder]
  cases d <;> exact ⟨_, runs, frame, applyMul_delivered .., status, sticks⟩

/-! ### Rounding at bit 32 (R543) -/

/-- The model rounds the upper 48 bits by the lower 32, which is a quotient to nearest. -/
theorem rnd80_eq (v : BitVec 80) : rnd80 v = BitVec.ofNat 80 (roundNearest v.toNat 32 * 2 ^ 32) := by
  have hi : (v.extractLsb' 32 48).toNat = v.toNat / 2 ^ 32 := by
    rw [BitVec.extractLsb'_toNat, Nat.shiftRight_eq_div_pow]; omega
  have lo : (v.extractLsb' 0 32).toNat = v.toNat % 2 ^ 32 := by simp
  have odd : (v.extractLsb' 32 48).getLsbD 0 = decide (v.toNat / 2 ^ 32 % 2 = 1) := by
    rw [← hi, ← BitVec.testBit_toNat, Nat.testBit_zero]
  apply BitVec.eq_of_toNat_eq
  rw [rnd80, toNat_append_eq, lo, odd, BitVec.toNat_ofNat, roundNearest]
  simp only [Bool.or_eq_true, Bool.and_eq_true, decide_eq_true_eq, BitVec.ofNat_eq_ofNat, BitVec.toNat_ofNat]
  split_ifs <;> simp only [BitVec.toNat_add, hi, BitVec.toNat_ofNat] <;> omega

theorem rnd80_roundsAt32 (v : BitVec 80) : RoundsAt32 v (rnd80 v) := ⟨_, roundNearest_roundsTo .., rnd80_eq v⟩

/-! ### Multiply and accumulate (R541, R542, R548 to R558) -/

theorem completes_mulAcc {i : Instr} {op : MulOp} {m : Mod2} {rn rx ry : BitVec 4} {s : State} {d : MulDest}
    {base : BitVec 80} {minus : Bool} (k : Int) (row : i.toCompute = some (.mul op rn rx ry))
    (result : s.mulResult op rx ry = mulAcc m d base minus (s.rfix rx) (s.rfix ry)) (mask : op.stkyMask = 0x40)
    (hk : k = if minus then -1 else 1) :
    Completes i s fun t => ComputeFrame s t (d.regs rn) d.accs 0x3C0 0x40 ∧
      ∃ v : BitVec 80,
        (let exact := base + BitVec.ofInt 80 (k * productOf m (s.rfix rx) (s.rfix ry))
          if m.round then RoundsAt32 exact v else v = exact)
        ∧ Delivered t d (mod2Fmt m) rn v
        ∧ MulStatus t v.msb (fmtOver (mod2Fmt m) v) (fmtUnder (mod2Fmt m) v) false
        ∧ Sticks s t 6 (fmtOver (mod2Fmt m) v) := by
  have sum (p : Int) : (if minus then base - BitVec.ofInt 80 p else base + BitVec.ofInt 80 p)
      = base + BitVec.ofInt 80 (k * p) := by
    cases minus <;> simp [hk, BitVec.ofInt_neg, BitVec.sub_eq_add_neg]
  obtain ⟨t, runs, frame, post⟩ := completes_fixed row result mask
  refine ⟨t, runs, frame, _, ?_, post⟩
  rw [show product m (s.rfix rx) (s.rfix ry) = BitVec.ofInt 80 (productOf m (s.rfix rx) (s.rfix ry)) from rfl, sum]
  cases m.round
  · exact rfl
  · exact rnd80_roundsAt32 _

/-! ### The floating-point multiply (R570) -/

theorem fltNan_of_finite {w : BitVec 40} (h : fltExp w ≠ 255) : fltNan w = false := by simp [fltNan, h]

theorem fltExp_lt (w : BitVec 40) : fltExp w < 256 := (w.extractLsb' 31 8).isLt

/-- The magnitude of a value: its significand in units of its power of two. -/
theorem abs_fltVal (w : BitVec 40) : |fltVal w| = (fltMant w : ℚ) * 2 ^ fltPow w := by
  rw [fltVal, abs_mul, abs_mul, abs_of_nonneg (by positivity : (0 : ℚ) ≤ 2 ^ fltPow w), Nat.abs_cast]
  cases fltSign w <;> simp

theorem abs_fltVal_mul (x y : BitVec 40) :
    ((fltMant x * fltMant y : Nat) : ℚ) * 2 ^ (fltPow x + fltPow y) = |fltVal x * fltVal y| := by
  rw [abs_mul, abs_fltVal, abs_fltVal, zpow_add₀ two_ne_zero]
  push_cast
  ring

theorem fltMant_eq_zero {w : BitVec 40} : fltMant w = 0 ↔ fltZero w = true := by simp [fltMant, fltZero]

/-- A row of the floating-point multiply whose result is the word `w` with flags `g`. -/
theorem completes_fltMul {s : State} {rn rx ry : BitVec 4} {w : BitVec 40} {g : MulFlags}
    (result : fltMul s.modes (s.rreg rx) (s.rreg ry) = ⟨some w, none, g⟩) :
    Completes (.mulFloat rn rx ry) s fun t => ComputeFrame s t [rn] [] 0x3C0 0x380 ∧ t.rreg rn = w
      ∧ MulStatus t g.mn g.mv g.mu g.mi ∧ Sticks s t 7 g.mvs ∧ Sticks s t 8 g.mus ∧ Sticks s t 9 g.mi
      ∧ t.sys.stky = g.stky s.sys.stky := by
  obtain ⟨t, runs, rfl, frame, status⟩ := completes_mul (i := .mulFloat rn rx ry) s rfl result
  obtain ⟨-, sticks⟩ := applyMul_sticks s rn ⟨some w, none, g⟩
  exact ⟨_, runs, frame, setRreg_rreg_same .., status, sticks.1, sticks.2.1, sticks.2.2,
    by simp [State.applyMul, State.mulStatus]⟩

end Sys2Proof.Machine

open Sys2Proof Sys2Proof.Machine

/-- Settles O23: every row is `mulAcc` on a base, an accumulator or 0, with the product added or subtracted. -/
theorem fixedMultiplies : Obligations.FixedMultiplies := by
  intro s m rn rx ry p f row
  exact ⟨completes_mulAcc (op := .rn m) 1 rfl rfl rfl rfl, completes_mulAcc (op := .mrf m) 1 rfl rfl rfl rfl,
    completes_mulAcc (op := .mrb m) 1 rfl rfl rfl rfl, completes_mulAcc (op := .rnMrfAdd m) 1 rfl rfl rfl rfl,
    completes_mulAcc (op := .rnMrbAdd m) 1 rfl rfl rfl rfl, completes_mulAcc (op := .mrfAdd m) 1 rfl rfl rfl rfl,
    completes_mulAcc (op := .mrbAdd m) 1 rfl rfl rfl rfl, completes_mulAcc (op := .rnMrfSub m) (-1) rfl rfl rfl rfl,
    completes_mulAcc (op := .rnMrbSub m) (-1) rfl rfl rfl rfl, completes_mulAcc (op := .mrfSub m) (-1) rfl rfl rfl rfl,
    completes_mulAcc (op := .mrbSub m) (-1) rfl rfl rfl rfl⟩

/-- Settles O25: RND is `rnd80` delivered with the flags of a fraction; a clear delivers 0. -/
theorem multiplierRoundAndClear : Obligations.MultiplierRoundAndClear := by
  intro s sg rn rx ry f row
  have rounds {i : Instr} {op : MulOp} {d : MulDest} {v : BitVec 80} (toRow : i.toCompute = some (.mul op rn rx ry))
      (result : s.mulResult op rx ry = mulRnd sg d v) (mask : op.stkyMask = 0x40) : row i d v :=
    (completes_fixed toRow result mask).imp fun _ h => ⟨h.1, _, rnd80_roundsAt32 v, h.2⟩
  have clears {i : Instr} {op : MulOp} {b : Bool} (toRow : i.toCompute = some (.mul op rn rx ry))
      (result : s.mulResult op rx ry = ⟨none, some (b, 0), mulFlagsClear⟩) (mask : op.stkyMask = 0) :
      Completes i s fun t => ComputeFrame s t [] [b] 0x3C0 0 ∧ t.acc b = 0 ∧ MulStatus t false false false false :=
    (completes_mul s toRow result).imp fun t ⟨gives, frame, status⟩ =>
      ⟨mask ▸ frame, gives ▸ setAcc_acc_same .., status⟩
  exact ⟨rounds (op := .rnRndMrf sg) rfl rfl rfl, rounds (op := .rnRndMrb sg) rfl rfl rfl,
    rounds (op := .mrfRnd sg) rfl rfl rfl, rounds (op := .mrbRnd sg) rfl rfl rfl,
    clears (op := .mrfZero) rfl rfl rfl, clears (op := .mrbZero) rfl rfl rfl⟩

/-- Settles O26: a transfer clears the flags, and a part of an accumulator is read or written. -/
theorem mrTransfers : Obligations.MrTransfers := by
  intro s rk read write f b r
  have cleared (t : State) (h : t.sys.astat = mulFlagsClear.astat s.sys.astat) : MulStatus t false false false false := by
    unfold MulStatus
    rw [h]
    simp [MulFlags.astat, mulFlagsClear, getLsbD_bitAt, -BitVec.getLsbD_eq_getElem]
  have reads {i : Instr} {mr : MrReg} (row : i.toCompute = some (.mrRead mr rk)) {v : BitVec 32}
      (part : mrPart mr (s.acc (mrBack mr)) = v) : read i v :=
    ⟨_, exec_of_toCompute row s, compute_frame s (.mrRead mr rk), part ▸ setRreg_rreg_same ..,
      cleared _ (by simp [State.compute, State.mrRead, State.mulStatus, State.setRfix])⟩
  have writes {i : Instr} {mr : MrReg} (row : i.toCompute = some (.mrWrite mr rk)) {v : BitVec 80}
      (part : mrWithPart mr (s.acc (mrBack mr)) (s.rfix rk) = v) : write i (mrBack mr) v :=
    ⟨_, exec_of_toCompute row s, compute_frame s (.mrWrite mr rk), part ▸ setAcc_acc_same ..,
      cleared _ (by simp [State.compute, State.mrWrite, State.mulStatus])⟩
  exact ⟨reads (mr := .mr0f) rfl rfl, reads (mr := .mr1f) rfl rfl, reads (mr := .mr2f) rfl rfl,
    reads (mr := .mr0b) rfl rfl, reads (mr := .mr1b) rfl rfl, reads (mr := .mr2b) rfl rfl,
    writes (mr := .mr0f) rfl rfl, writes (mr := .mr0b) rfl rfl, writes (mr := .mr1f) rfl rfl,
    writes (mr := .mr1b) rfl rfl, writes (mr := .mr2f) rfl rfl, writes (mr := .mr2b) rfl rfl⟩

/-- Settles O27: the model's cases are those of R570; the significands multiply to the magnitude of the product
(`abs_fltVal_mul`). -/
theorem floatMultiply : Obligations.FloatMultiply := by
  intro s rn rx ry x y neg
  have kept (g : MulFlags) (h : g.mos = false ∧ g.mvs = false ∧ g.mus = false ∧ g.mi = false) :
      g.stky s.sys.stky = s.sys.stky := by
    obtain ⟨h6, h7, h8, h9⟩ := h
    simp [MulFlags.stky, bitAt, h6, h7, h8, h9]
  by_cases invalid : (fltNan x || fltNan y || (fltInf x && fltZero y) || (fltZero x && fltInf y)) = true
  · refine (completes_fltMul (if_pos invalid)).imp fun t ⟨frame, word, status, mvs, mus, mi, _⟩ => ⟨frame, ?_⟩
    rw [if_pos invalid]
    exact ⟨word, status, mvs, mus, mi⟩
  by_cases inf : (fltInf x || fltInf y) = true
  · refine (completes_fltMul ((if_neg invalid).trans (if_pos inf))).imp
      fun t ⟨frame, word, status, _, _, _, stky⟩ => ⟨frame, ?_⟩
    rw [if_neg invalid, if_pos inf]
    exact ⟨word, status, stky.trans (kept _ ⟨rfl, rfl, rfl, rfl⟩)⟩
  by_cases zero : (fltZero x || fltZero y) = true
  · refine (completes_fltMul ((if_neg invalid).trans ((if_neg inf).trans (if_pos zero)))).imp
      fun t ⟨frame, word, status, _, _, _, stky⟩ => ⟨frame, ?_⟩
    rw [if_neg invalid, if_neg inf, if_pos zero]
    exact ⟨word, status, stky.trans (kept _ ⟨rfl, rfl, rfl, rfl⟩)⟩
  · refine (completes_fltMul ((if_neg invalid).trans ((if_neg inf).trans (if_neg zero)))).imp
      fun t ⟨frame, word, status, mvs, mus, mi, _⟩ => ⟨frame, ?_⟩
    rw [if_neg invalid, if_neg inf, if_neg zero]
    have nonzero : fltMant x * fltMant y ≠ 0 := by
      rw [Nat.mul_ne_zero_iff, ne_eq, ne_eq, fltMant_eq_zero, fltMant_eq_zero]
      simpa using zero
    exact ⟨_, _, nonzero, abs_fltVal_mul x y, word, status, mvs, mus, mi⟩
end

section
/-! Floating-point values: the sign apart from the magnitude, the order of the values, and the rows of the ALU that
compare, pick, scale or add. -/

namespace Sys2Proof.Machine

/-! ### The sign bit and the bits below it -/

theorem sign_append (w : BitVec 40) : w = BitVec.ofBool w.msb ++ w.extractLsb' 0 39 := by
  apply BitVec.eq_of_toNat_eq
  rw [toNat_append_eq, BitVec.toNat_ofBool, BitVec.msb_eq_decide, BitVec.extractLsb'_toNat, Nat.shiftRight_zero]
  have := w.isLt
  by_cases top : 2 ^ 39 ≤ w.toNat <;> simp [top, -Nat.reducePow] <;> omega

theorem clear_sign (w : BitVec 40) : w &&& 0x7FFFFFFFFF = 0#1 ++ w.extractLsb' 0 39 := by
  conv_lhs => rw [sign_append w, show (0x7FFFFFFFFF : BitVec 40) = 0#1 ++ BitVec.allOnes 39 from rfl, BitVec.and_append,
    BitVec.and_allOnes]
  rw [show BitVec.ofBool w.msb &&& 0#1 = 0#1 from BitVec.and_zero]

theorem only_sign (w : BitVec 40) : w &&& 0x8000000000 = BitVec.ofBool w.msb ++ 0#39 := by
  conv_lhs => rw [sign_append w, show (0x8000000000 : BitVec 40) = 1#1 ++ 0#39 from rfl, BitVec.and_append]
  cases w.msb <;> simp

theorem flip_sign (w : BitVec 40) : w ^^^ 0x8000000000 = BitVec.ofBool (!w.msb) ++ w.extractLsb' 0 39 := by
  conv_lhs => rw [sign_append w, show (0x8000000000 : BitVec 40) = 1#1 ++ 0#39 from rfl, BitVec.xor_append]
  cases w.msb <;> simp

theorem copysign_eq (x y : BitVec 40) : fltCopysign x y = BitVec.ofBool y.msb ++ x.extractLsb' 0 39 := by
  rw [fltCopysign, clear_sign, only_sign, BitVec.or_append]
  simp

@[simp] theorem msb_sign_append (b : Bool) (l : BitVec 39) : (BitVec.ofBool b ++ l).msb = b := by
  rw [BitVec.msb_append, if_neg (by decide)]
  cases b <;> rfl

@[simp] theorem low_sign_append (b : BitVec 1) (l : BitVec 39) : (b ++ l).extractLsb' 0 39 = l := by
  rw [extract_append_low] <;> simp

/-- The exponent and the fraction do not see the sign. -/
theorem fltExp_eq_of_low {x y : BitVec 40} (h : x.extractLsb' 0 39 = y.extractLsb' 0 39) : fltExp x = fltExp y := by
  have := congrArg BitVec.toNat h
  simp only [BitVec.extractLsb'_toNat, fltExp, Nat.shiftRight_eq_div_pow] at this ⊢
  omega

theorem fltFrac_eq_of_low {x y : BitVec 40} (h : x.extractLsb' 0 39 = y.extractLsb' 0 39) : fltFrac x = fltFrac y := by
  have := congrArg BitVec.toNat h
  simp only [BitVec.extractLsb'_toNat, fltFrac, Nat.shiftRight_eq_div_pow] at this ⊢
  omega

theorem fltNan_eq_of_low {x y : BitVec 40} (h : x.extractLsb' 0 39 = y.extractLsb' 0 39) : fltNan x = fltNan y := by
  rw [fltNan, fltNan, fltExp_eq_of_low h, fltFrac_eq_of_low h]

theorem fltZero_eq_of_low {x y : BitVec 40} (h : x.extractLsb' 0 39 = y.extractLsb' 0 39) : fltZero x = fltZero y := by
  rw [fltZero, fltZero, fltExp_eq_of_low h]

theorem fltNan_negate (x : BitVec 40) : fltNan (fltNegate x) = fltNan x :=
  fltNan_eq_of_low (by rw [fltNegate, flip_sign, low_sign_append])

/-! ### Conditioned operands (R501) -/

/-- A conditioned operand of exponent 0 is a zero of its sign. -/
theorem fltIn_zero {r : Bool} {w : BitVec 40} (h : fltZero (fltIn r w) = true) :
    fltIn r w = BitVec.ofBool (fltIn r w).msb ++ 0#39 := by
  unfold fltIn at h ⊢
  dsimp only at h ⊢
  split_ifs at h ⊢ with hr he he
  · rw [only_sign, msb_sign_append]
  · exact absurd (of_decide_eq_true h) he
  · rw [only_sign, msb_sign_append]
  · exact absurd (of_decide_eq_true h) he

theorem fltIn_zero_low {r : Bool} {w : BitVec 40} (h : fltZero (fltIn r w) = true) :
    (fltIn r w).extractLsb' 0 39 = 0#39 := by
  conv_lhs => rw [fltIn_zero h]
  exact low_sign_append ..

/-! ### The order of the values -/

/-- The magnitude as a number in the order of the values. -/
def fltMag (w : BitVec 40) : Nat := if fltZero w then 0 else (w.extractLsb' 0 39).toNat

theorem fltKey_eq (w : BitVec 40) : fltKey w = signed (fltSign w) (fltMag w) := by
  unfold fltKey fltMag signed
  split_ifs <;> rfl

theorem fltMag_fltIn (r : Bool) (w : BitVec 40) : fltMag (fltIn r w) = ((fltIn r w).extractLsb' 0 39).toNat := by
  unfold fltMag
  split_ifs with h
  · rw [fltIn_zero_low h]; rfl
  · rfl

theorem low_toNat (w : BitVec 40) : (w.extractLsb' 0 39).toNat = fltExp w * 2 ^ 31 + fltFrac w := by
  simp only [BitVec.extractLsb'_toNat, fltExp, fltFrac, Nat.shiftRight_eq_div_pow]
  omega

theorem fltFrac_lt (w : BitVec 40) : fltFrac w < 2 ^ 31 := (w.extractLsb' 0 31).isLt

theorem fltVal_zero {w : BitVec 40} (h : fltZero w = true) : fltVal w = 0 := by
  rw [fltVal, fltMant_eq_zero.mpr h]
  simp

theorem fltMant_of_nonzero {w : BitVec 40} (h : fltZero w = false) : fltMant w = 2 ^ 31 + fltFrac w := by
  have := fltExp_pos h
  rw [fltMant, if_neg (by omega)]

/-- A value that is not zero stands in the binade of its exponent. -/
theorem abs_fltVal_binade {w : BitVec 40} (h : fltZero w = false) :
    (2 : ℚ) ^ (fltPow w + 31) ≤ |fltVal w| ∧ |fltVal w| < 2 ^ (fltPow w + 32) := by
  have nonzero : fltMant w ≠ 0 := by simp [fltMant_eq_zero, h]
  have binade := magnitude_binade nonzero (fltPow w)
  rw [fltMant_log2 h] at binade
  rw [abs_fltVal]
  exact ⟨binade.1, binade.2.trans_eq (by rw [Nat.cast_ofNat, add_assoc]; rfl)⟩

theorem abs_fltVal_lt {x y : BitVec 40} (h : fltMag x < fltMag y) : |fltVal x| < |fltVal y| := by
  unfold fltMag at h
  by_cases hy : fltZero y = true
  · simp [hy] at h
  have hy' : fltZero y = false := by simpa using hy
  by_cases hx : fltZero x = true
  · rw [fltVal_zero hx, abs_zero]
    exact lt_of_lt_of_le (by positivity) (abs_fltVal_binade hy').1
  have hx' : fltZero x = false := by simpa using hx
  rw [if_neg hx, if_neg hy, low_toNat, low_toNat] at h
  have fx := fltFrac_lt x
  have fy := fltFrac_lt y
  rcases lt_or_ge (fltExp x) (fltExp y) with below | above
  · calc |fltVal x| < 2 ^ (fltPow x + 32) := (abs_fltVal_binade hx').2
      _ ≤ 2 ^ (fltPow y + 31) := zpow_le_zpow_right₀ one_le_two (by unfold fltPow; omega)
      _ ≤ |fltVal y| := (abs_fltVal_binade hy').1
  · have same : fltPow x = fltPow y := by unfold fltPow; omega
    rw [abs_fltVal, abs_fltVal, same, fltMant_of_nonzero hx', fltMant_of_nonzero hy']
    exact mul_lt_mul_of_pos_right (by exact_mod_cast (by omega : 2 ^ 31 + fltFrac x < 2 ^ 31 + fltFrac y)) (by positivity)

theorem abs_fltVal_congr {x y : BitVec 40} (h : fltMag x = fltMag y) : |fltVal x| = |fltVal y| := by
  have key (z : BitVec 40) (hz : fltZero z = false) : fltMag z = fltExp z * 2 ^ 31 + fltFrac z ∧ 1 ≤ fltExp z :=
    ⟨by rw [fltMag, hz]; exact low_toNat z, fltExp_pos hz⟩
  have zeroMag (z : BitVec 40) (hz : fltZero z = true) : fltMag z = 0 := by rw [fltMag, if_pos hz]
  cases hx : fltZero x <;> cases hy : fltZero y
  · have := key x hx
    have := key y hy
    have fx := fltFrac_lt x
    have fy := fltFrac_lt y
    have same : fltExp x = fltExp y ∧ fltFrac x = fltFrac y := by omega
    rw [abs_fltVal, abs_fltVal, fltPow, fltPow, fltMant, fltMant, same.1, same.2]
  · have := key x hx
    have := zeroMag y hy
    omega
  · have := key y hy
    have := zeroMag x hx
    omega
  · rw [fltVal_zero hx, fltVal_zero hy]

theorem abs_fltVal_lt_iff {x y : BitVec 40} : |fltVal x| < |fltVal y| ↔ fltMag x < fltMag y := by
  rcases lt_trichotomy (fltMag x) (fltMag y) with below | same | above
  · exact iff_of_true (abs_fltVal_lt below) below
  · exact iff_of_false (abs_fltVal_congr same).not_lt same.not_lt
  · exact iff_of_false (abs_fltVal_lt above).not_gt above.not_gt

theorem abs_fltVal_pos_iff {x : BitVec 40} : 0 < |fltVal x| ↔ 0 < fltMag x := by
  have := abs_fltVal_lt_iff (x := 0) (y := x)
  rwa [fltVal_zero (by decide), abs_zero] at this

theorem fltVal_signed (w : BitVec 40) : fltVal w = if fltSign w then -|fltVal w| else |fltVal w| := by
  rw [abs_fltVal, fltVal]
  cases fltSign w <;> simp

/-- The key that the model compares orders the values. -/
theorem fltVal_lt_iff {x y : BitVec 40} : fltVal x < fltVal y ↔ fltKey x < fltKey y := by
  have less := abs_fltVal_lt_iff (x := x) (y := y)
  have greater := abs_fltVal_lt_iff (x := y) (y := x)
  have posx := abs_fltVal_pos_iff (x := x)
  have posy := abs_fltVal_pos_iff (x := y)
  have nonneg := abs_nonneg (fltVal x)
  have nonneg' := abs_nonneg (fltVal y)
  rw [fltVal_signed x, fltVal_signed y, fltKey_eq, fltKey_eq]
  generalize |fltVal x| = a at *
  generalize |fltVal y| = b at *
  unfold signed
  cases fltSign x <;> cases fltSign y <;> simp only [if_true, if_false, Bool.false_eq_true]
  · rw [less]; omega
  · exact iff_of_false (by linarith) (by omega)
  · constructor
    · intro h
      have : 0 < a ∨ 0 < b := by by_contra none; push Not at none; linarith
      rw [posx, posy] at this
      omega
    · intro h
      have : 0 < fltMag x ∨ 0 < fltMag y := by omega
      rw [← posx, ← posy] at this
      rcases this with h | h <;> linarith
  · rw [neg_lt_neg_iff, greater]; omega

theorem fltVal_le_iff {x y : BitVec 40} : fltVal x ≤ fltVal y ↔ fltKey x ≤ fltKey y := by
  rw [← not_lt, ← not_lt, fltVal_lt_iff]

theorem fltVal_eq_iff {x y : BitVec 40} : fltVal x = fltVal y ↔ fltKey x = fltKey y := by
  rw [le_antisymm_iff, fltVal_le_iff, fltVal_le_iff, ← le_antisymm_iff]

/-! ### Rows without an exception -/

/-- Without AI the invalid bit of STKY stays out of what a row may set. -/
theorem completes_valid {i : Instr} {op : FltOp} {rn rx ry : BitVec 4} {s : State} {o : AluOut} {sm : BitVec 32}
    (row : i.toCompute = some (.flt op rn rx ry)) (h : op ≠ .comp) (result : s.fltResult op rx ry = o)
    (valid : o.flags.ai = false) (mask : sm = op.stkyMask &&& ~~~0x20#32) :
    Completes i s fun t => ComputeFrame s t [rn] [] 0x43F sm ∧ AluGives s t rn o := by
  have sticks : o.sticks sm := by
    obtain ⟨aus, avs, aos, -⟩ := aluFloat_sticks s.modes op (s.rreg rx) (s.rreg ry)
    rw [show aluFloat s.modes op (s.rreg rx) (s.rreg ry) = o from result] at aus avs aos
    rw [mask, AluOut.sticks, valid]
    simpa [-BitVec.getLsbD_eq_getElem] using And.intro aus (And.intro avs aos)
  have gt : o.flags.gt = none := result ▸ aluFloat_gt s.modes _ _ h
  have runs : exec i s = .next (s.applyAlu rn o) := by rw [exec_of_toCompute row, ← result]; rfl
  exact ⟨_, runs, applyAlu_frame s rn o sm gt sticks, applyAlu_gives s rn o⟩

end Sys2Proof.Machine
end

section
/-! The rows of the floating-point ALU on values: sums, compares, picks, scaling, and NAN operands. -/

namespace Sys2Proof.Machine

/-! ### Sums (R506) -/

theorem fltNan_false_of_finite {w : BitVec 40} (h : fltFinite w) : fltNan w = false ∧ fltInf w = false := by
  have h : fltExp w ≠ 255 := h
  simp [fltNan, fltInf, h]

theorem fltNan_of_inf {w : BitVec 40} (h : fltInf w = true) : fltNan w = false := by
  simp_all [fltNan, fltInf]

/-- A value in units of a power of two that is not above its own. -/
theorem fltVal_eq_units {w : BitVec 40} {e : Int} (h : e ≤ fltPow w) :
    fltVal w = (signed (fltSign w) (fltMant w * 2 ^ (fltPow w - e).toNat) : ℚ) * 2 ^ e := by
  have power : (2 : ℚ) ^ fltPow w = 2 ^ (fltPow w - e).toNat * 2 ^ e := by
    rw [← zpow_natCast, ← zpow_add₀ two_ne_zero]
    congr 1
    omega
  rw [fltVal, power]
  unfold signed
  cases fltSign w <;> simp [mul_assoc]

theorem fltSum_sumOf (md : Modes) (h : Int) (x y : BitVec 40) : SumOf md h x y (fltSum md h x y) := by
  have finite (z : BitVec 40) (hz : fltFinite z) := fltNan_false_of_finite hz
  have units : fltVal x + fltVal y
      = ((signed (fltSign x) (fltMant x * 2 ^ (fltPow x - min (fltPow x) (fltPow y)).toNat)
        + signed (fltSign y) (fltMant y * 2 ^ (fltPow y - min (fltPow x) (fltPow y)).toNat) : Int) : ℚ)
          * 2 ^ min (fltPow x) (fltPow y) := by
    rw [fltVal_eq_units (min_le_left (fltPow x) (fltPow y)), fltVal_eq_units (min_le_right (fltPow x) (fltPow y))]
    push_cast
    ring
  have pos : (0 : ℚ) < 2 ^ min (fltPow x) (fltPow y) := by positivity
  unfold fltSum
  dsimp only
  generalize (signed (fltSign x) _ + signed (fltSign y) _ : Int) = t at units ⊢
  constructor
  case invalid =>
    intro inv
    rw [if_pos]
    rcases inv with hx | hy | ⟨hx, hy, differ⟩ <;> simp [*]
  case left =>
    intro hx hy same
    rw [if_neg, if_pos hx]
    simpa [fltNan_of_inf hx, hx, hy] using same
  case right =>
    intro hx hy
    rw [if_neg, if_neg, if_pos hy] <;> simp [finite x hx, fltNan_of_inf hy]
  case zero =>
    intro hx hy sum
    have zero : t = 0 := by
      rw [units, mul_eq_zero, or_iff_left pos.ne'] at sum
      exact_mod_cast sum
    rw [if_neg, if_neg, if_neg, if_pos zero] <;> simp [finite x hx, finite y hy]
  case round =>
    intro hx hy sum
    have nonzero : t ≠ 0 := by rintro rfl; exact sum (by rw [units]; simp)
    have negative : fltVal x + fltVal y < 0 ↔ t < 0 := by
      rw [units]
      exact ⟨fun h => by exact_mod_cast neg_of_mul_neg_left h pos.le,
        fun h => mul_neg_of_neg_of_pos (by exact_mod_cast h) pos⟩
    refine ⟨t.natAbs, min (fltPow x) (fltPow y) + h, Int.natAbs_ne_zero.mpr nonzero, ?_, ?_⟩
    · rw [units, abs_mul, abs_of_pos pos, zpow_add₀ two_ne_zero, Nat.cast_natAbs, Int.cast_abs, mul_assoc]
    · rw [if_neg, if_neg, if_neg, if_neg nonzero, decide_eq_decide.mpr negative] <;> simp [finite x hx, finite y hy]

/-! ### One operand (R512 to R516) -/

theorem aluGives_word {s t : State} {rn : BitVec 4} {w : BitVec 40} (h : AluGives s t rn (fltOut w)) :
    t.rreg rn = w ∧ AluStatus t (fltZero w) false w.msb false false false true :=
  ⟨h.1 w rfl, h.2.1⟩

/-- A row whose result is a word without an exception. -/
theorem completes_word {i : Instr} {op : FltOp} {rn rx ry : BitVec 4} {s : State} {w : BitVec 40} {sm : BitVec 32}
    (row : i.toCompute = some (.flt op rn rx ry)) (h : op ≠ .comp) (result : s.fltResult op rx ry = fltOut w)
    (mask : sm = op.stkyMask &&& ~~~0x20#32) :
    Completes i s fun t => ComputeFrame s t [rn] [] 0x43F sm ∧ t.rreg rn = w
      ∧ AluStatus t (fltZero w) false w.msb false false false true :=
  (completes_valid row h result rfl mask).imp fun _ ⟨frame, gives⟩ => ⟨frame, aluGives_word gives⟩

/-- The significand of a finite operand that is not a zero, scaled. -/
theorem scaled_magnitude {x : BitVec 40} (h : ¬(fltInf x || fltZero x) = true) (k : Int) :
    fltMant x ≠ 0 ∧ (fltMant x : ℚ) * 2 ^ (fltPow x + k) = |fltVal x| * 2 ^ k := by
  refine ⟨?_, ?_⟩
  · rw [ne_eq, fltMant_eq_zero]
    simp_all
  · rw [abs_fltVal, zpow_add₀ two_ne_zero, mul_assoc]

/-- What SCALB and RND give of an operand that is not a NAN. -/
theorem scaled_cases {x : BitVec 40} {p : Nat} {k : Int} {trunc : Bool} :
    let o := if fltInf x || fltZero x then fltOut x else fltPacked (fltPack trunc p (fltSign x) (fltMant x) (fltPow x + k))
    o.flags.ai = false ∧
      if fltInf x || fltZero x then o = fltOut x
      else ∃ (m : Nat) (e : Int), m ≠ 0 ∧ (m : ℚ) * 2 ^ e = |fltVal x| * 2 ^ k ∧ o = fltPacked (fltPack trunc p x.msb m e) := by
  dsimp only
  split_ifs with special
  · exact ⟨rfl, rfl⟩
  · obtain ⟨nonzero, magnitude⟩ := scaled_magnitude special k
    exact ⟨rfl, _, _, nonzero, magnitude, rfl⟩

theorem fltScale_valid {md : Modes} {x : BitVec 40} {k : Int} (h : fltNan x = false) : fltScale md x k
    = if fltInf x || fltZero x then fltOut x
      else fltPacked (fltPack md.trunc md.bits (fltSign x) (fltMant x) (fltPow x + k)) :=
  if_neg (by simp [h])

theorem fltRound_valid {md : Modes} {x : BitVec 40} (h : fltNan x = false) : fltRound md x
    = if fltInf x || fltZero x then fltOut x
      else fltPacked (fltPack md.trunc 24 (fltSign x) (fltMant x) (fltPow x)) :=
  if_neg (by simp [h])

/-! ### Minimum and maximum (R526, R527) -/

theorem fltVal_zeroSign (b : Bool) : fltVal (BitVec.ofBool b ++ 0#39) = 0 := fltVal_zero (by cases b <;> rfl)

theorem fltMin_picks {x y : BitVec 40} (hx : fltZero x = true → x = BitVec.ofBool x.msb ++ 0#39)
    (hy : fltZero y = true → y = BitVec.ofBool y.msb ++ 0#39) :
    (fltMin x y = x ∨ fltMin x y = y) ∧ fltVal (fltMin x y) = min (fltVal x) (fltVal y)
      ∧ (fltZero x && fltZero y → (fltMin x y).msb = (x.msb || y.msb)) := by
  unfold fltMin
  split_ifs with both less
  · obtain ⟨zx, zy⟩ := (Bool.and_eq_true ..).mp both
    rw [fltSign_eq_msb, fltSign_eq_msb, zeroWord_eq, fltVal_zeroSign, fltVal_zero zx, fltVal_zero zy, min_self]
    refine ⟨?_, rfl, fun _ => msb_sign_append ..⟩
    cases sx : x.msb
    · rw [Bool.false_or]
      exact .inr (hy zy).symm
    · rw [Bool.true_or, ← sx]
      exact .inl (hx zx).symm
  · exact ⟨.inl rfl, (min_eq_left (fltVal_le_iff.mpr less)).symm, fun h => absurd h both⟩
  · exact ⟨.inr rfl, (min_eq_right (fltVal_le_iff.mpr (not_le.mp less).le)).symm, fun h => absurd h both⟩

theorem fltMax_picks {x y : BitVec 40} (hx : fltZero x = true → x = BitVec.ofBool x.msb ++ 0#39)
    (hy : fltZero y = true → y = BitVec.ofBool y.msb ++ 0#39) :
    (fltMax x y = x ∨ fltMax x y = y) ∧ fltVal (fltMax x y) = max (fltVal x) (fltVal y)
      ∧ (fltZero x && fltZero y → (fltMax x y).msb = (x.msb && y.msb)) := by
  unfold fltMax
  split_ifs with both less
  · obtain ⟨zx, zy⟩ := (Bool.and_eq_true ..).mp both
    rw [fltSign_eq_msb, fltSign_eq_msb, zeroWord_eq, fltVal_zeroSign, fltVal_zero zx, fltVal_zero zy, max_self]
    refine ⟨?_, rfl, fun _ => msb_sign_append ..⟩
    cases sx : x.msb
    · rw [Bool.false_and, ← sx]
      exact .inl (hx zx).symm
    · rw [Bool.true_and]
      exact .inr (hy zy).symm
  · exact ⟨.inl rfl, (max_eq_left (fltVal_le_iff.mpr less)).symm, fun h => absurd h both⟩
  · exact ⟨.inr rfl, (max_eq_right (fltVal_le_iff.mpr (not_le.mp less).le)).symm, fun h => absurd h both⟩

/-! ### NAN operands (R503, R515) -/

/-- A row with an invalid result: the word, AI and AIS, AZ and AV clear, AN as given. -/
theorem completes_invalid {i : Instr} {op : FltOp} {rn rx ry : BitVec 4} {s : State} {w : BitVec 40} {an as : Bool}
    (row : i.toCompute = some (.flt op rn rx ry)) (h : op ≠ .comp)
    (result : s.fltResult op rx ry = ⟨some w, { fltFlags 0 with az := false, an := an, as := as, ai := true }⟩) :
    Completes i s fun t => t.rreg rn = w ∧ t.sys.astat.getLsbD 5 = true ∧ t.sys.astat.getLsbD 0 = false
      ∧ t.sys.astat.getLsbD 1 = false ∧ t.sys.astat.getLsbD 2 = an ∧ Sticks s t 5 true := by
  refine (completes_flt row h s).imp fun t ⟨_, gives⟩ => ?_
  rw [result, aluGives_some] at gives
  obtain ⟨word, ⟨az, av, an, -, -, ai, -⟩, -, -, -, ais⟩ := gives
  exact ⟨word, ai, az, av, an, ais⟩

theorem fltSum_nan {md : Modes} {h : Int} {x y : BitVec 40} (nan : (fltNan x || fltNan y) = true) :
    fltSum md h x y = fltInvalid md.rnd32 := by
  rw [fltSum, if_pos]
  rw [nan, Bool.true_or]

theorem fltBinary_nan {md : Modes} {x y r : BitVec 40} (nan : (fltNan x || fltNan y) = true) :
    fltBinary md x y r = fltInvalid md.rnd32 := if_pos nan

theorem fltUnary_nan {md : Modes} {x r : BitVec 40} (nan : fltNan x = true) : fltUnary md x r = fltInvalid md.rnd32 :=
  if_pos nan

theorem fltNan_not_zero {x : BitVec 40} (nan : fltNan x = true) : fltZero x = false := by
  simp_all [fltNan, fltZero]

theorem fltExp_of_nan {x : BitVec 40} (nan : fltNan x = true) : fltExp x = 255 := by
  simp_all [fltNan]

end Sys2Proof.Machine

open Sys2Proof Sys2Proof.Machine

/-- Settles O16: the model's sum satisfies `SumOf` (`fltSum_sumOf`); the rows differ in the second operand and in what
they take of the result. -/
theorem floatSums : Obligations.FloatSums := by
  intro s rn rx ry x y minusY positive row
  have sums {i : Instr} {op : FltOp} {h : Int} {b : BitVec 40} {last : AluOut → AluOut}
      (toRow : i.toCompute = some (.flt op rn rx ry)) (notComp : op ≠ .comp)
      (result : s.fltResult op rx ry = last (fltSum s.modes h x b)) : row i h b op.stkyMask last :=
    (completes_flt toRow notComp s).imp fun t ⟨frame, gives⟩ => ⟨frame, _, fltSum_sumOf s.modes h x b, result ▸ gives⟩
  refine ⟨sums (op := .add) rfl nofun rfl, sums (op := .sub) rfl nofun rfl, sums (op := .absAdd) rfl nofun rfl,
    sums (op := .absSub) rfl nofun rfl, sums (op := .avg) rfl nofun rfl, fun t r => aluGives_some⟩

/-- Settles O17: the model compares keys, which order the values (`fltVal_lt_iff`). -/
theorem floatCompare : Obligations.FloatCompare := by
  intro s rn rx ry x y nan
  have runs : exec (.fltComp rn rx ry) s = .next (s.applyAlu rn (fltCompare x y)) := rfl
  have sticks : (fltCompare x y).sticks 0x20 := aluFloat_sticks s.modes .comp (s.rreg rx) (s.rreg ry)
  obtain ⟨-, status, -, -, -, ais⟩ := applyAlu_gives s rn (fltCompare x y)
  have out : fltCompare x y = ⟨none, { fltFlags 0 with
      az := !nan && decide (fltVal x = fltVal y), an := !nan && decide (fltVal x < fltVal y), ai := nan
      gt := some (!nan && decide (fltVal y < fltVal x)) }⟩ := by
    simp only [fltVal_lt_iff, fltVal_eq_iff, fltCompare]
    cases hn : nan
    · rw [if_neg (by simpa [nan] using hn)]; rfl
    · rw [if_pos hn]; rfl
  rw [out] at runs sticks status ais
  exact ⟨_, runs, applyCompare_frame s rn _ 0x20 rfl sticks, status, applyAlu_shiftsInto s rn rfl rfl, ais⟩

/-- Settles O18: without a NAN the rows are words, or the significand scaled and packed (`scaled_cases`). -/
theorem floatSignPassRoundScale : Obligations.FloatSignPassRoundScale := by
  intro s rn rx ry x w k
  refine ⟨fun hx => ⟨?neg, ?abs, ?pass, ?scalb⟩, fun hw => ?rnd⟩
  case neg =>
    have result : s.fltResult .neg rx ry = fltOut (fltNegate x) := if_neg (by simp [x, hx])
    have zero : fltZero (fltNegate x) = fltZero x :=
      fltZero_eq_of_low (by rw [fltNegate, flip_sign, low_sign_append])
    have sign : (fltNegate x).msb = !x.msb := by rw [fltNegate, flip_sign, msb_sign_append]
    rw [← zero, ← sign]
    exact completes_word (op := .neg) rfl nofun result rfl
  case abs =>
    have result : s.fltResult .abs rx ry
        = ⟨some (x &&& 0x7FFFFFFFFF), { fltFlags (x &&& 0x7FFFFFFFFF) with an := false, as := x.msb }⟩ := by
      change fltAbsolute s.modes x = _
      rw [fltAbsolute, fltUnary, if_neg (by simp [hx])]; rfl
    have zero : fltZero (x &&& 0x7FFFFFFFFF) = fltZero x := fltZero_eq_of_low (by rw [clear_sign, low_sign_append])
    refine (completes_valid (op := .abs) (sm := 0) rfl nofun result rfl rfl).imp fun t ⟨frame, gives⟩ => ?_
    obtain ⟨word, status, -⟩ := aluGives_some.mp gives
    exact ⟨frame, word, zero ▸ status⟩
  case pass => exact completes_word (w := x) (op := .pass) rfl nofun (if_neg (by simp [x, hx])) rfl
  case scalb =>
    have cases := scaled_cases (x := x) (p := s.modes.bits) (k := k) (trunc := s.modes.trunc)
    have result : s.fltResult .scalb rx ry = _ := fltScale_valid hx
    exact (completes_valid (op := .scalb) (sm := 0x3) rfl nofun result cases.1 rfl).imp
      fun t ⟨frame, gives⟩ => ⟨frame, _, gives, cases.2⟩
  case rnd =>
    have cases := scaled_cases (x := w) (p := 24) (k := 0) (trunc := s.modes.trunc)
    simp only [add_zero, zpow_zero, mul_one] at cases
    have result : s.fltResult .rnd rx ry = _ := fltRound_valid hw
    exact (completes_valid (op := .rnd) (sm := 0x2) rfl nofun result cases.1 rfl).imp
      fun t ⟨frame, gives⟩ => ⟨frame, _, gives, cases.2⟩

/-- Settles O22: MIN and MAX compare keys, which order the values; two zeros are the words of their signs. -/
theorem floatCopysignMinMaxClip : Obligations.FloatCopysignMinMaxClip := by
  intro s rn rx ry x y row hx hy
  have picks {i : Instr} {op : FltOp} {r : BitVec 40} (toRow : i.toCompute = some (.flt op rn rx ry)) (notComp : op ≠ .comp)
      (result : s.fltResult op rx ry = fltBinary s.modes x y r) (mask : op.stkyMask = 0x20) :
      Completes i s fun t => t.rreg rn = r ∧ ComputeFrame s t [rn] [] 0x43F 0
        ∧ AluStatus t (fltZero (t.rreg rn)) false (t.rreg rn).msb false false false true := by
    have valid : s.fltResult op rx ry = fltOut r := by rw [result, fltBinary, if_neg (by simp [hx, hy])]
    refine (completes_word (sm := 0) toRow notComp valid (by rw [mask]; rfl)).imp fun t ⟨frame, word, status⟩ => ?_
    exact ⟨word, frame, word.symm ▸ status⟩
  refine ⟨?copysign, ?min, ?max, ?clip⟩
  case copysign =>
    obtain ⟨t, runs, word, frame, status⟩ := picks (i := .fltCopysign rn rx ry) (op := .copysign) rfl nofun rfl rfl
    exact ⟨t, runs, frame, word.trans (copysign_eq x y), status⟩
  case min =>
    obtain ⟨t, runs, word, frame, status⟩ := picks (i := .fltMin rn rx ry) (op := .min) rfl nofun rfl rfl
    exact ⟨t, runs, frame, word.symm ▸ fltMin_picks fltIn_zero fltIn_zero, status⟩
  case max =>
    obtain ⟨t, runs, word, frame, status⟩ := picks (i := .fltMax rn rx ry) (op := .max) rfl nofun rfl rfl
    exact ⟨t, runs, frame, word.symm ▸ fltMax_picks fltIn_zero fltIn_zero, status⟩
  case clip =>
    obtain ⟨t, runs, word, frame, status⟩ := picks (i := .fltClip rn rx ry) (op := .clip) rfl nofun rfl rfl
    refine ⟨t, runs, frame, word.trans ?_, status⟩
    simp only [fltClip, copysign_eq, abs_fltVal_lt_iff, x, y, fltMag_fltIn]

/-- Settles O15: every row answers the invalid result on a NAN; the ABS forms, MANT and RSQRTS clear its sign flag. -/
theorem floatNanOperandsAreInvalid : Obligations.FloatNanOperandsAreInvalid := by
  intro s rn rx ry x y whole noSign invalid word
  have answers {i : Instr} {op : FltOp} {w : BitVec 40} {an as : Bool} (row : i.toCompute = some (.flt op rn rx ry))
      (notComp : op ≠ .comp)
      (result : s.fltResult op rx ry = ⟨some w, { fltFlags 0 with az := false, an := an, as := as, ai := true }⟩)
      (sign : an = decide (i ∉ noSign)) : invalid w i :=
    by subst sign; exact completes_invalid row notComp result
  simp only [List.forall_mem_cons, List.not_mem_nil, false_implies, implies_true, and_true]
  refine ⟨fun nan => answers (op := .rnd) rfl nofun (if_pos nan) (by simp [noSign]),
    fun nan => ⟨⟨?neg, ?abs, ?pass, ?scalb, ?recips, ?rsqrts⟩, ⟨?mant, ?logb, ?fix, ?fixBy, ?trunc, ?truncBy⟩⟩,
    fun nan => ?two⟩
  case neg => exact answers (op := .neg) rfl nofun (fltUnary_nan nan) (by simp [noSign])
  case pass => exact answers (op := .pass) rfl nofun (fltUnary_nan nan) (by simp [noSign])
  case abs =>
    have result : fltAbsolute s.modes x
        = ⟨some word, { fltFlags 0 with az := false, an := false, as := fltSign x, ai := true }⟩ := by
      rw [fltAbsolute, fltUnary_nan nan]; rfl
    exact answers (op := .abs) rfl nofun result (by simp [noSign])
  case scalb => exact answers (op := .scalb) rfl nofun (if_pos nan) (by simp [noSign])
  case recips => exact answers (op := .recips) rfl nofun (if_pos nan) (by simp [noSign])
  case rsqrts =>
    have result : fltRsqrts s.modes x = ⟨some word, { fltFlags 0 with az := false, an := false, ai := true }⟩ := by
      rw [fltRsqrts, if_neg (by simp [fltNan_not_zero nan]), if_pos (by simp [nan])]; rfl
    exact answers (op := .rsqrts) rfl nofun result (by simp [noSign])
  case mant =>
    have result : fltMantissa x
        = ⟨some 0xFFFFFFFF00, { fltFlags 0 with az := false, an := false, as := fltSign x, ai := true }⟩ := by
      rw [fltMantissa, if_pos (fltExp_of_nan nan)]; rfl
    exact answers (op := .mant) rfl nofun result (by simp [noSign])
  case logb => exact answers (op := .logb) (an := true) rfl nofun (if_pos nan) (by simp [noSign])
  case fix => exact answers (op := .fix) (an := true) rfl nofun (if_pos nan) (by simp [noSign])
  case fixBy => exact answers (op := .fixBy) (an := true) rfl nofun (if_pos nan) (by simp [noSign])
  case trunc => exact answers (op := .trunc) (an := true) rfl nofun (if_pos nan) (by simp [noSign])
  case truncBy => exact answers (op := .truncBy) (an := true) rfl nofun (if_pos nan) (by simp [noSign])
  case two =>
    have either : (fltNan x || fltNan y) = true := by simpa using nan
    have negated : (fltNan x || fltNan (fltNegate y)) = true := by rwa [fltNan_negate]
    refine ⟨answers (op := .add) rfl nofun (fltSum_nan either) (by simp [noSign]),
      answers (op := .sub) rfl nofun (fltSum_nan negated) (by simp [noSign]),
      answers (op := .absAdd) (an := false) rfl nofun (congrArg fltAbsOut (fltSum_nan either)) (by simp [noSign]),
      answers (op := .absSub) (an := false) rfl nofun (congrArg fltAbsOut (fltSum_nan negated)) (by simp [noSign]),
      answers (op := .avg) (w := word) (an := true) (as := false) rfl nofun ?_ (by simp [noSign]),
      answers (op := .copysign) rfl nofun (fltBinary_nan either) (by simp [noSign]),
      answers (op := .min) rfl nofun (fltBinary_nan either) (by simp [noSign]),
      answers (op := .max) rfl nofun (fltBinary_nan either) (by simp [noSign]),
      answers (op := .clip) rfl nofun (fltBinary_nan either) (by simp [noSign])⟩
    change fltAvg s.modes x y = _
    rw [fltAvg, fltSum_nan either]
    rfl
end

section
/-! Conversions between floating-point and fixed-point numbers, and the seeds of the reciprocals. -/

namespace Sys2Proof.Machine

/-! ### A word from its fields (R500) -/

theorem flt_fields {w : BitVec 40} {neg : Bool} {e f : Nat} (h : w.toNat = (neg.toNat * 2 ^ 8 + e) * 2 ^ 31 + f)
    (he : e < 256) (hf : f < 2 ^ 31) : fltSign w = neg ∧ fltExp w = e ∧ fltFrac w = f := by
  simp only [fltSign_eq_msb, BitVec.msb_eq_decide, fltExp, fltFrac, BitVec.extractLsb'_toNat, Nat.shiftRight_eq_div_pow, h]
  refine ⟨?_, by omega, by omega⟩
  cases neg <;> simp <;> omega

/-- The value of a word that is not a zero. -/
theorem fltVal_of_fields {w : BitVec 40} {neg : Bool} {e f : Nat} (h : fltSign w = neg ∧ fltExp w = e ∧ fltFrac w = f)
    (he : 1 ≤ e) : fltVal w = (if neg then -1 else 1) * ((2 ^ 31 + f : Nat) : ℚ) * 2 ^ ((e : Int) - 158) := by
  obtain ⟨rfl, rfl, rfl⟩ := h
  have nonzero : fltZero w = false := by simpa [fltZero] using by omega
  rw [fltVal, fltMant_of_nonzero nonzero, fltPow]

/-! ### Conversion to an integer (R519, R520) -/

theorem FixesTo.self (mode : FixMode) (i : Int) : FixesTo mode (i : ℚ) i := by
  cases mode
  case floor => exact ⟨le_rfl, by linarith⟩
  case nearest => simp [FixesTo]
  case zero => exact ⟨le_rfl, by linarith, by exact_mod_cast mul_self_nonneg i⟩

/-- Nothing but an integer itself is to the nearest of it, or below it by less than 1. -/
theorem FixesTo.eq {mode : FixMode} {i j : Int} (h : FixesTo mode (i : ℚ) j) (notZero : mode ≠ .zero) : j = i := by
  cases mode
  case floor =>
    obtain ⟨le, lt⟩ := h
    norm_cast at le lt
    omega
  case nearest =>
    have close := h.1
    norm_cast at close
    have := abs_le.mp (show |i - j| ≤ 0 by omega)
    omega
  case zero => exact absurd rfl notZero

theorem cast_signed (neg : Bool) (m : Nat) : ((signed neg m : Int) : ℚ) = (if neg then -1 else 1) * (m : ℚ) := by
  cases neg <;> simp [signed]

/-- The roundings that treat both signs alike. -/
theorem FixesTo.signed {mode : FixMode} (notFloor : mode ≠ .floor) {v : ℚ} {q : Nat} (h : FixesTo mode v q) (neg : Bool) :
    FixesTo mode ((if neg then -1 else 1) * v) (signed neg q) := by
  cases neg
  · simpa [Machine.signed] using h
  simp only [Machine.signed, if_true, neg_one_mul]
  cases mode
  case floor => exact absurd rfl notFloor
  case nearest =>
    obtain ⟨near, even⟩ := h
    have dist : |-v - ((-q : Int) : ℚ)| = |v - ((q : Int) : ℚ)| := by rw [← abs_neg]; push_cast; ring_nf
    exact ⟨dist ▸ near, fun tie => by have := even (dist ▸ tie); omega⟩
  case zero =>
    obtain ⟨le, lt, sign⟩ := h
    refine ⟨?_, ?_, ?_⟩
    · simpa using le
    · simpa using lt
    · push_cast at sign ⊢; linarith

/-- A magnitude below one half. -/
theorem fixesTo_small {mode : FixMode} (neg : Bool) {v : ℚ} (pos : 0 < v) (small : v < 1 / 2) :
    FixesTo mode ((if neg then -1 else 1) * v) (match mode with | .floor => if neg then -1 else 0 | .nearest => 0 | .zero => 0) := by
  have low : |v| < 1 / 2 := by rwa [abs_of_pos pos]
  have zero : signed neg 0 = 0 := by cases neg <;> rfl
  cases mode
  case floor => cases neg <;> constructor <;> push_cast <;> simp <;> linarith
  case nearest =>
    have near : FixesTo .nearest v (0 : Nat) := ⟨by simp; linarith, fun tie => by simp at tie; linarith⟩
    simpa only [zero] using FixesTo.signed (mode := .nearest) nofun near neg
  case zero =>
    have toward : FixesTo .zero v (0 : Nat) := ⟨by simp, by simp; linarith, by simp⟩
    simpa only [zero] using FixesTo.signed (mode := .zero) nofun toward neg

/-- A magnitude divided by a power of two. -/
theorem fixesTo_quotient (mode : FixMode) (neg : Bool) (m k : Nat) :
    FixesTo mode ((signed neg m : ℚ) / 2 ^ k) (match mode with
      | .floor => signed neg m / 2 ^ k
      | .nearest => signed neg (shiftRound false m k)
      | .zero => signed neg (m / 2 ^ k)) := by
  have pos : (0 : ℚ) < 2 ^ k := by positivity
  have magnitude : ((signed neg m : Int) : ℚ) / 2 ^ k = (if neg then -1 else 1) * (m / 2 ^ k) := by
    rw [cast_signed, mul_div_assoc]
  cases mode
  case floor =>
    have pos' : (0 : Int) < 2 ^ k := by positivity
    have le := Int.ediv_mul_le (signed neg m) pos'.ne'
    have lt := Int.lt_ediv_add_one_mul_self (signed neg m) pos'
    constructor
    · rw [le_div_iff₀ pos]; exact_mod_cast le
    · rw [div_lt_iff₀ pos]; exact_mod_cast lt
  case nearest =>
    obtain ⟨near, even⟩ := shiftRound_roundsTo false m k
    have dist : |(m : ℚ) / 2 ^ k - ((shiftRound false m k : Int) : ℚ)| * 2 ^ k
        = |(m : ℚ) - shiftRound false m k * 2 ^ (k : Int)| := by
      conv_lhs => rw [← abs_of_pos pos]
      rw [← abs_mul, sub_mul, abs_of_pos pos, div_mul_cancel₀ _ pos.ne', zpow_natCast, Int.cast_natCast]
    rw [magnitude]
    refine FixesTo.signed (mode := .nearest) nofun ⟨?_, fun tie => ?_⟩ neg
    · rw [← dist, zpow_natCast, ← mul_assoc] at near
      exact le_of_mul_le_mul_right (by linarith) pos
    · have := even (by rw [← dist, ← mul_assoc, tie, zpow_natCast, one_mul])
      omega
  case zero =>
    have quotient : ((m / 2 ^ k : Nat) : ℚ) ≤ m / 2 ^ k ∧ (m : ℚ) / 2 ^ k < (m / 2 ^ k : Nat) + 1 := by
      rw [le_div_iff₀ pos, div_lt_iff₀ pos]
      exact ⟨by exact_mod_cast Nat.div_mul_le_self m (2 ^ k),
        by exact_mod_cast Nat.lt_mul_of_div_lt (Nat.lt_succ_self (m / 2 ^ k)) (by positivity)⟩
    have nonneg : (0 : ℚ) ≤ m / 2 ^ k := by positivity
    rw [magnitude]
    refine FixesTo.signed (mode := .zero) nofun ⟨?_, ?_, ?_⟩ neg
    · rw [abs_of_nonneg nonneg, Int.cast_natCast, Nat.abs_cast]; exact quotient.1
    · rw [abs_of_nonneg nonneg, Int.cast_natCast, Nat.abs_cast]; exact quotient.2
    · exact mul_nonneg (by positivity) nonneg

theorem fixValue_fixesTo (mode : FixMode) (neg : Bool) {m : Nat} (e : Int) (h0 : m ≠ 0) :
    FixesTo mode ((signed neg m : ℚ) * 2 ^ e) (fixValue mode neg m e) := by
  unfold fixValue
  by_cases whole : 0 ≤ e
  · rw [if_pos whole]
    have value : ((signed neg m : Int) : ℚ) * 2 ^ e = (signed neg (m * 2 ^ e.toNat) : Int) := by
      obtain ⟨n, rfl⟩ := Int.eq_ofNat_of_zero_le whole
      rw [cast_signed, cast_signed, Int.toNat_natCast, zpow_natCast]
      push_cast
      rw [mul_assoc]
    rw [value]
    exact FixesTo.self mode _
  rw [if_neg whole]
  by_cases small : (Nat.log2 m : Int) + e < -1
  · rw [if_pos small]
    obtain ⟨low, high⟩ := magnitude_binade h0 e
    have half : (2 : ℚ) ^ (e + m.log2 + 1) ≤ 2 ^ (-1 : Int) := zpow_le_zpow_right₀ one_le_two (by omega)
    rw [cast_signed, mul_assoc]
    exact fixesTo_small neg (lt_of_lt_of_le (by positivity) low) (high.trans_le (by simpa using half))
  · rw [if_neg small]
    have power : (2 : ℚ) ^ e = (2 ^ (-e).toNat)⁻¹ := by
      rw [← zpow_natCast, ← zpow_neg]
      congr 1
      omega
    rw [power, ← div_eq_mul_inv]
    exact fixesTo_quotient mode neg m (-e).toNat

theorem fixValue_of_nonneg {mode : FixMode} {neg : Bool} {m : Nat} {e : Int} (h : 0 ≤ e) :
    fixValue mode neg m e = signed neg (m * 2 ^ e.toNat) := if_pos h

theorem fixOverflow_fixOver (md : Modes) (neg : Bool) : FixOver md.sat neg (fixOverflow md neg) := by
  unfold FixOver fixOverflow
  cases md.sat <;> cases neg <;> exact ⟨rfl, rfl⟩

theorem fltExp_of_inf {x : BitVec 40} (h : fltInf x = true) : fltExp x = 255 := by simp_all [fltInf]

theorem fltFix_fixOf (md : Modes) (mode : FixMode) (x : BitVec 40) (k : Int) : FixOf md mode x k (fltFix md mode x k) := by
  unfold fltFix
  constructor
  case nan =>
    intro nan
    rw [if_pos nan]
    exact ⟨rfl, rfl⟩
  case inf =>
    intro inf
    rw [if_neg (by simp [fltNan_of_inf inf]), if_pos inf]
    exact fixOverflow_fixOver ..
  intro finite
  obtain ⟨notNan, notInf⟩ := fltNan_false_of_finite finite
  rw [if_neg (by simp [notNan]), if_neg (by simp [notInf])]
  cases zero : fltZero x
  case true =>
    have value : fltVal x * 2 ^ k = ((0 : Int) : ℚ) := by rw [fltVal_zero zero, zero_mul]; rfl
    refine ⟨0, value ▸ FixesTo.self mode 0, ?_⟩
    rw [if_neg (by decide), if_pos rfl, value]
    exact ⟨rfl, by simp [fixOut, logicFlags]⟩
  have nonzero : fltMant x ≠ 0 := by simp [fltMant_eq_zero, zero]
  have value : fltVal x * 2 ^ k = (signed (fltSign x) (fltMant x) : ℚ) * 2 ^ (fltPow x + k) := by
    rw [fltVal, cast_signed, zpow_add₀ two_ne_zero]
    ring
  have magnitude : |fltVal x * 2 ^ k| = (fltMant x : ℚ) * 2 ^ (fltPow x + k) := by
    rw [abs_mul, abs_fltVal, abs_of_pos (by positivity : (0 : ℚ) < 2 ^ k), mul_assoc, ← zpow_add₀ two_ne_zero]
  obtain ⟨low, high⟩ := magnitude_binade nonzero (fltPow x + k)
  have range := fixValue_fixesTo mode (fltSign x) (fltPow x + k) nonzero
  rw [← value] at range
  refine ⟨_, range, ?_⟩
  rw [if_neg Bool.false_ne_true]
  dsimp only
  by_cases far : 31 < (Nat.log2 (fltMant x) : Int) + (fltPow x + k)
  · rw [if_pos far, if_pos]
    · exact fixOverflow_fixOver ..
    · have big : 2 ^ 31 ≤ fltMant x := by rw [fltMant_of_nonzero zero]; omega
      rw [fltMant_log2 zero] at far
      rw [fixValue_of_nonneg (by omega)]
      have : 2 ^ 31 * 2 ^ 1 ≤ fltMant x * 2 ^ (fltPow x + k).toNat :=
        Nat.mul_le_mul big (Nat.pow_le_pow_right two_pos (by omega))
      unfold signed
      split <;> omega
  rw [if_neg far]
  split_ifs with outside
  · exact fixOverflow_fixOver ..
  · refine ⟨rfl, ?_⟩
    have below : (Nat.log2 (fltMant x) : Int) + (fltPow x + k) < 0 ↔ fltVal x * 2 ^ k ≠ 0 ∧ |fltVal x * 2 ^ k| < 1 := by
      have pos : 0 < |fltVal x * 2 ^ k| := magnitude ▸ lt_of_lt_of_le (by positivity) low
      rw [← abs_pos, and_iff_right pos, magnitude, ← zpow_zero (2 : ℚ)]
      constructor
      · intro h
        exact high.trans_le (zpow_le_zpow_right₀ one_le_two (by omega))
      · intro h
        have := (zpow_lt_zpow_iff_right₀ one_lt_two).mp (low.trans_lt h)
        omega
    rw [decide_eq_decide.mpr below]
    rfl

end Sys2Proof.Machine

open Sys2Proof Sys2Proof.Machine

/-- Settles O19: MANT and LOGB by the class of the operand; FIX and TRUNC are `fltFix`, which rounds as `FixOf` says. -/
theorem floatToFixed : Obligations.FloatToFixed := by
  intro s rn rx ry x k rounds fix
  have fixes {i : Instr} {op : FltOp} {mode : FixMode} {k : Int} (toRow : i.toCompute = some (.flt op rn rx ry))
      (notComp : op ≠ .comp) (result : s.fltResult op rx ry = fltFix s.modes mode x k) (mask : op.stkyMask = 0x23) :
      fix i mode k :=
    (completes_flt toRow notComp s).imp fun t ⟨frame, gives⟩ =>
      ⟨mask ▸ frame, _, fltFix_fixOf s.modes mode x k, result ▸ gives⟩
  refine ⟨?mant, ?logb, fixes (op := .fix) rfl nofun rfl rfl, fixes (op := .fixBy) rfl nofun rfl rfl,
    fixes (op := .trunc) rfl nofun rfl rfl, fixes (op := .truncBy) rfl nofun rfl rfl⟩
  case mant =>
    refine (completes_flt (i := .fltMant rn rx ry) (op := .mant) rfl nofun s).imp fun t ⟨frame, gives⟩ => ⟨frame, ?_⟩
    change AluGives s t rn (fltMantissa x) at gives
    unfold fltMantissa at gives
    split_ifs with top zero
    · rw [if_pos top] at gives
      obtain ⟨word, status, -, -, -, ais⟩ := aluGives_some.mp gives
      exact ⟨word, status, ais⟩
    · rw [if_neg top, fltMant, if_pos zero] at gives
      obtain ⟨word, status, -⟩ := aluGives_some.mp gives
      exact ⟨word, status⟩
    · have significand : BitVec.ofNat 32 (fltMant x) = 1#1 ++ x.extractLsb' 0 31 := by
        apply BitVec.eq_of_toNat_eq
        have := fltFrac_lt x
        rw [toNat_append_eq, fltMant, if_neg zero, BitVec.toNat_ofNat, ← fltFrac, BitVec.toNat_ofNat]
        omega
      rw [if_neg top, significand] at gives
      obtain ⟨word, ⟨az, status⟩, -⟩ := aluGives_some.mp gives
      have notZero : (1#1 ++ x.extractLsb' 0 31 : BitVec 32) ≠ 0 := by
        intro h
        have := congrArg BitVec.toNat h
        rw [toNat_append_eq] at this
        simp at this
      exact ⟨word, az.trans (decide_eq_false notZero), status⟩
  case logb =>
    refine (completes_flt (i := .fltLogb rn rx ry) (op := .logb) rfl nofun s).imp fun t ⟨frame, gives⟩ => ⟨frame, ?_⟩
    change AluGives s t rn (fltLogb s.modes x) at gives
    unfold fltLogb at gives
    dsimp only at gives
    by_cases nan : fltNan x = true
    · rw [if_pos nan] at gives ⊢
      obtain ⟨word, status, -, -, -, ais⟩ := aluGives_some.mp gives
      exact ⟨word, status, ais⟩
    rw [if_neg nan] at gives ⊢
    by_cases inf : fltInf x = true
    · rw [if_pos inf] at gives ⊢
      obtain ⟨word, status, -, avs, -⟩ := aluGives_some.mp gives
      rw [show s.aluSat = s.modes.sat from rfl]
      cases sat : s.modes.sat <;> rw [sat] at word status <;> exact ⟨word, status, avs⟩
    rw [if_neg inf] at gives ⊢
    by_cases zero : fltZero x = true
    · rw [if_pos zero] at gives ⊢
      obtain ⟨word, status, -, avs, -⟩ := aluGives_some.mp gives
      rw [show s.aluSat = s.modes.sat from rfl]
      cases sat : s.modes.sat <;> rw [sat] at word status <;> exact ⟨word, status, avs⟩
    · rw [if_neg zero] at gives ⊢
      obtain ⟨word, status, -⟩ := aluGives_some.mp gives
      exact ⟨word, status⟩
end

section
/-! FLOAT, which is exact, and the seeds of RECIPS and RSQRTS. -/

namespace Sys2Proof.Machine

/-! ### FLOAT (R521) -/

/-- A magnitude of at most 32 bits is packed to 32 significant bits as it is. -/
theorem fltPack_exact (trunc neg : Bool) {m : Nat} (h0 : m ≠ 0) (h : m < 2 ^ 32) :
    ∃ w, fltPack trunc 32 neg m 0 = ⟨w, false, false⟩ ∧ fltSign w = neg ∧ 1 ≤ fltExp w ∧ fltExp w < 255
      ∧ fltVal w = (if neg then -1 else 1) * (m : ℚ) := by
  have top : m.log2 < 32 := log2_lt_of_lt h0 h
  have low : 2 ^ m.log2 ≤ m := Nat.log2_self_le h0
  have high : m < 2 ^ (m.log2 + 1) := Nat.lt_log2_self
  have sig : roundedSig trunc 32 m = m * 2 ^ (31 - m.log2) := if_pos (by omega)
  have lower : 2 ^ 31 ≤ m * 2 ^ (31 - m.log2) := by
    calc 2 ^ 31 = 2 ^ m.log2 * 2 ^ (31 - m.log2) := by rw [← pow_add]; congr 1; omega
      _ ≤ _ := Nat.mul_le_mul_right _ low
  have upper : m * 2 ^ (31 - m.log2) < 2 ^ 32 := by
    calc m * 2 ^ (31 - m.log2) < 2 ^ (m.log2 + 1) * 2 ^ (31 - m.log2) := Nat.mul_lt_mul_of_pos_right high (by positivity)
      _ = 2 ^ 32 := by rw [← pow_add]; congr 1; omega
  have packed := fltPack_eq trunc neg 0 (by decide : 1 ≤ 32) le_rfl h0
  dsimp only at packed
  rw [sig, if_neg upper.ne, if_neg upper.ne, if_neg (by omega), if_neg (by omega), zero_add] at packed
  refine ⟨_, packed, ?_⟩
  have number : (BitVec.ofBool neg ++ BitVec.ofInt 8 ((m.log2 : Int) + 127)
      ++ BitVec.ofNat 31 (m * 2 ^ (31 - m.log2) * 2 ^ (32 - 32))).toNat
      = (neg.toNat * 2 ^ 8 + (m.log2 + 127)) * 2 ^ 31 + (m * 2 ^ (31 - m.log2) - 2 ^ 31) := by
    rw [toNat_append_eq, toNat_append_eq, BitVec.toNat_ofBool, BitVec.toNat_ofInt, BitVec.toNat_ofNat]
    omega
  have fields := flt_fields number (by omega) (by omega)
  refine ⟨fields.1, by omega, by omega, ?_⟩
  rw [fltVal_of_fields fields (by omega), mul_assoc]
  congr 1
  have whole : 2 ^ 31 + (m * 2 ^ (31 - m.log2) - 2 ^ 31) = m * 2 ^ (31 - m.log2) := by omega
  rw [whole]
  push_cast
  rw [mul_assoc, ← zpow_natCast, ← zpow_add₀ two_ne_zero, show ((31 - m.log2 : Nat) : Int) + ((m.log2 : Int) + 127 - 158) = 0 by omega,
    zpow_zero, mul_one]

/-- FLOAT without BY: a word without an exception whose value is the integer. -/
theorem fltFloat_exact (md : Modes) (x : BitVec 32) : ∃ w, fltFloat md x 0 = fltOut w ∧ fltVal w = x.toInt
    ∧ fltZero w = decide (x.toInt = 0) ∧ w.msb = decide (x.toInt < 0) ∧ fltIn false w = w ∧ fltFinite w := by
  have zeroInt : x.toInt = 0 ↔ x = 0 := by rw [← BitVec.toInt_inj]; rfl
  by_cases zero : x = 0
  · subst zero
    exact ⟨0, if_pos rfl, fltVal_zero rfl, rfl, rfl, rfl, (by decide : fltExp 0 ≠ 255)⟩
  · have range := BitVec.two_mul_toInt_lt (x := x)
    have range' := BitVec.le_two_mul_toInt (x := x)
    have nonzero : x.toInt ≠ 0 := mt zeroInt.mp zero
    obtain ⟨w, packed, sign, low, high, value⟩ :=
      fltPack_exact md.trunc (x.getLsbD 31) (m := x.toInt.natAbs) (by omega) (by omega)
    have negative : x.getLsbD 31 = decide (x.toInt < 0) := getLsbD_31_eq_neg x
    refine ⟨w, ?_, ?_, ?_, ?_, ?_, ?_⟩
    · rw [fltFloat, if_neg zero, packed]; rfl
    · rw [value, negative]
      by_cases neg : x.toInt < 0
      · rw [decide_eq_true neg, if_pos rfl, neg_one_mul, Nat.cast_natAbs, abs_of_neg neg]; push_cast; ring
      · rw [decide_eq_false neg, if_neg Bool.false_ne_true, one_mul, Nat.cast_natAbs, abs_of_nonneg (by omega)]
    · rw [decide_eq_false nonzero]; simpa [fltZero] using by omega
    · rw [← fltSign_eq_msb, sign, negative]
    · exact if_neg (by change fltExp w ≠ 0; omega)
    · change fltExp w ≠ 255; omega

/-! ### Seeds (R522, R523) -/

/-- Every entry of the RECIPS ROM has the stated accuracy: the constant has it, or the midpoint stands for it. -/
theorem recipsRom_accurate (m : BitVec 7) : Config.recipsAccurate m.toNat (Config.recipsRom m).toNat = true := by
  have midpoint : ∀ n < 128, Config.recipsAccurate n (BitVec.ofNat 23 (2 ^ 32 / (257 + 2 * n) - 2 ^ 23)).toNat = true := by
    decide
  unfold Config.recipsRom
  split_ifs with h
  · exact h
  · exact midpoint _ m.isLt

/-- The integer below the square root of the midpoint is accurate for the interval from `l` to `l + d`: the upper bound
from `q * q ≤ n`, the lower one from `n < (q + 1) * (q + 1)`. -/
theorem rsqrts_midpoint {l d : Nat} (hd : 1 ≤ d) (hl : 64 * d ≤ l) (hl' : l + d ≤ 256) :
    ∃ q, q = Nat.sqrt (2 ^ 55 / (l + (l + d))) ∧ 2 ^ 23 ≤ q ∧ q < 2 ^ 24
      ∧ 225 * 2 ^ 46 ≤ q ^ 2 * l ∧ q ^ 2 * (l + d) ≤ 289 * 2 ^ 46 := by
  set n := 2 ^ 55 / (l + (l + d)) with hn
  have below : n * (l + (l + d)) ≤ 2 ^ 55 := Nat.div_mul_le_self ..
  have above : 2 ^ 55 < (n + 1) * (l + (l + d)) := by
    rw [mul_comm]; exact Nat.lt_mul_div_succ _ (by omega)
  have le := Nat.sqrt_le' n
  have lt := Nat.lt_succ_sqrt' n
  refine ⟨n.sqrt, rfl, ?_⟩
  have wide : 2 ^ 46 ≤ n := (Nat.le_div_iff_mul_le (by omega)).mpr (by omega)
  have narrow : n < 2 ^ 48 := (Nat.div_lt_iff_lt_mul (by omega)).mpr (by omega)
  have low : 2 ^ 23 ≤ n.sqrt := Nat.le_sqrt'.mpr (by omega)
  have high : n.sqrt < 2 ^ 24 := Nat.sqrt_lt'.mpr (by omega)
  generalize n.sqrt = q at *
  refine ⟨low, high, ?_, ?_⟩
  · have step : (q + 1) ^ 2 * (2 ^ 21 - 1) ≤ q ^ 2 * 2 ^ 21 := by
      have square : q * 2 ^ 23 ≤ q * q := Nat.mul_le_mul_left q low
      norm_num at square ⊢
      linarith
    have first : 225 * 2 ^ 46 * 2 ^ 21 * (l + (l + d)) ≤ 2 ^ 55 * (2 ^ 21 - 1) * l := by omega
    have : 225 * 2 ^ 46 * (2 ^ 21 * (l + (l + d))) ≤ q ^ 2 * l * (2 ^ 21 * (l + (l + d))) := by
      calc 225 * 2 ^ 46 * (2 ^ 21 * (l + (l + d))) ≤ 2 ^ 55 * ((2 ^ 21 - 1) * l) := by omega
        _ ≤ (n + 1) * (l + (l + d)) * ((2 ^ 21 - 1) * l) := Nat.mul_le_mul_right _ above.le
        _ ≤ (q + 1) ^ 2 * (l + (l + d)) * ((2 ^ 21 - 1) * l) :=
          Nat.mul_le_mul_right _ (Nat.mul_le_mul_right _ lt)
        _ = (q + 1) ^ 2 * (2 ^ 21 - 1) * ((l + (l + d)) * l) := by ring
        _ ≤ q ^ 2 * 2 ^ 21 * ((l + (l + d)) * l) := Nat.mul_le_mul_right _ step
        _ = _ := by ring
    exact Nat.le_of_mul_le_mul_right this (by omega)
  · have : q ^ 2 * (l + d) * (l + (l + d)) ≤ 289 * 2 ^ 46 * (l + (l + d)) := by
      calc q ^ 2 * (l + d) * (l + (l + d)) ≤ n * (l + d) * (l + (l + d)) :=
            Nat.mul_le_mul_right _ (Nat.mul_le_mul_right _ le)
        _ = n * (l + (l + d)) * (l + d) := by ring
        _ ≤ 2 ^ 55 * (l + d) := Nat.mul_le_mul_right _ below
        _ ≤ _ := by omega
    exact Nat.le_of_mul_le_mul_right this (by omega)

/-- The lower end of the interval of an index, and its width. -/
theorem rsqrtsLow_bounds (k : BitVec 7) : ∃ d, 1 ≤ d ∧ Config.rsqrtsHigh k = Config.rsqrtsLow k + d
    ∧ 64 * d ≤ Config.rsqrtsLow k ∧ Config.rsqrtsLow k + d ≤ 256 := by
  have j := (k.extractLsb' 0 6).isLt
  unfold Config.rsqrtsHigh Config.rsqrtsLow
  cases k.getLsbD 6
  · exact ⟨2, by omega, rfl, by simp; omega, by simp; omega⟩
  · exact ⟨1, by omega, rfl, by simp, by simp; omega⟩

theorem rsqrtsRom_accurate (k : BitVec 7) : Config.rsqrtsAccurate k (Config.rsqrtsRom k).toNat = true := by
  unfold Config.rsqrtsRom
  split_ifs with h
  · exact h
  · obtain ⟨d, hd, high, hl, hl'⟩ := rsqrtsLow_bounds k
    obtain ⟨q, root, low, lt, lower, upper⟩ := rsqrts_midpoint hd hl hl'
    have entry : 2 ^ 23 + (BitVec.ofNat 23 (min (2 ^ 24 - 1) q - 2 ^ 23)).toNat = q := by
      rw [BitVec.toNat_ofNat]; omega
    rw [Config.rsqrtsAccurate, high, ← root, entry]
    simp only [Bool.and_eq_true, decide_eq_true_eq]
    exact ⟨lower, upper⟩
theorem seedWord_fields (neg : Bool) {e : Int} {n : Nat} (f : BitVec 23) (he : e + 127 = n) (hn : n < 256) :
    fltSign (seedWord neg e f) = neg ∧ fltExp (seedWord neg e f) = n
      ∧ fltFrac (seedWord neg e f) = f.toNat * 2 ^ 8 := by
  apply flt_fields _ hn (by omega)
  rw [seedWord, he, toNat_append_eq, toNat_append_eq, toNat_append_eq, BitVec.toNat_ofBool, BitVec.toNat_ofInt,
    BitVec.toNat_ofNat]
  omega

/-- The seed of RECIPS times the operand, from the accuracy of the ROM entry. -/
theorem recips_seed {x : BitVec 40} (nonzero : fltZero x = false) (range : fltExp x ≤ 252) :
    let w := seedWord (fltSign x) (-((fltExp x : Int) - 127) - 1) (Config.recipsRom (x.extractLsb' 24 7))
    w.msb = x.msb ∧ fltExp w = 253 - fltExp x ∧ |fltVal w * fltVal x - 1| ≤ 1 / 256 := by
  intro w
  have exponent := fltExp_pos nonzero
  have fields := seedWord_fields (fltSign x) (e := -((fltExp x : Int) - 127) - 1) (n := 253 - fltExp x)
    (Config.recipsRom (x.extractLsb' 24 7)) (by omega) (by omega)
  have accurate := recipsRom_accurate (x.extractLsb' 24 7)
  have index : (x.extractLsb' 24 7).toNat = fltFrac x / 2 ^ 24 := by
    simp only [fltFrac, BitVec.extractLsb'_toNat, Nat.shiftRight_eq_div_pow]; omega
  rw [index] at accurate
  simp only [Config.recipsAccurate, Bool.and_eq_true, decide_eq_true_eq] at accurate
  refine ⟨fields.1, fields.2.1, ?_⟩
  rw [fltVal_of_fields fields (by omega), fltVal_of_fields (w := x) ⟨rfl, rfl, rfl⟩ exponent]
  generalize (Config.recipsRom (x.extractLsb' 24 7)).toNat = f at accurate ⊢
  generalize fltFrac x = g at accurate ⊢
  have low : (128 + g / 2 ^ 24) * 2 ^ 24 ≤ 2 ^ 31 + g := by omega
  have high : 2 ^ 31 + g ≤ (129 + g / 2 ^ 24) * 2 ^ 24 := by omega
  have lower : 255 * 2 ^ 55 ≤ (2 ^ 31 + f * 2 ^ 8) * (2 ^ 31 + g) := by
    calc 255 * 2 ^ 55 = 255 * 2 ^ 23 * 2 ^ 32 := by norm_num
      _ ≤ (2 ^ 23 + f) * (128 + g / 2 ^ 24) * 2 ^ 32 := Nat.mul_le_mul_right _ accurate.1
      _ = (2 ^ 31 + f * 2 ^ 8) * ((128 + g / 2 ^ 24) * 2 ^ 24) := by ring
      _ ≤ _ := Nat.mul_le_mul_left _ low
  have upper : (2 ^ 31 + f * 2 ^ 8) * (2 ^ 31 + g) ≤ 257 * 2 ^ 55 := by
    calc (2 ^ 31 + f * 2 ^ 8) * (2 ^ 31 + g) ≤ (2 ^ 31 + f * 2 ^ 8) * ((129 + g / 2 ^ 24) * 2 ^ 24) :=
          Nat.mul_le_mul_left _ high
      _ = (2 ^ 23 + f) * (129 + g / 2 ^ 24) * 2 ^ 32 := by ring
      _ ≤ 257 * 2 ^ 23 * 2 ^ 32 := Nat.mul_le_mul_right _ accurate.2
      _ = 257 * 2 ^ 55 := by norm_num
  have power : (2 : ℚ) ^ (((253 - fltExp x : Nat) : Int) - 158) * 2 ^ ((fltExp x : Int) - 158) = 1 / 2 ^ 63 := by
    rw [← zpow_add₀ two_ne_zero, show ((253 - fltExp x : Nat) : Int) - 158 + ((fltExp x : Int) - 158) = -63 by omega]
    norm_num
  have product : (if fltSign x then -1 else 1) * ((2 ^ 31 + f * 2 ^ 8 : Nat) : ℚ) * 2 ^ (((253 - fltExp x : Nat) : Int) - 158)
      * ((if fltSign x then -1 else 1) * ((2 ^ 31 + g : Nat) : ℚ) * 2 ^ ((fltExp x : Int) - 158))
      = ((2 ^ 31 + f * 2 ^ 8) * (2 ^ 31 + g) : Nat) / 2 ^ 63 := by
    rw [Nat.cast_mul, div_eq_mul_one_div, ← power]
    cases fltSign x <;> simp only [if_true, if_false, Bool.false_eq_true] <;> ring
  rw [product]
  generalize (2 ^ 31 + f * 2 ^ 8) * (2 ^ 31 + g) = p at lower upper ⊢
  have lower : (255 * 2 ^ 55 : ℚ) ≤ p := by exact_mod_cast lower
  have upper : (p : ℚ) ≤ 257 * 2 ^ 55 := by exact_mod_cast upper
  rw [abs_le]
  constructor <;> linarith

/-- The square of the seed of RSQRTS times the operand. -/
theorem rsqrts_seed {x : BitVec 40} (nonzero : fltZero x = false) (positive : fltSign x = false) :
    let w := seedWord false (-(((fltExp x : Int) - 127) / 2) - 1) (Config.rsqrtsRom (x.extractLsb' 25 7))
    w.msb = false ∧ (fltExp w : Int) = -(((fltExp x : Int) - 127) / 2) - 1 + 127
      ∧ 225 / 256 ≤ fltVal w ^ 2 * fltVal x ∧ fltVal w ^ 2 * fltVal x ≤ 289 / 256 := by
  intro w
  have exponent := fltExp_pos nonzero
  have exponent' := fltExp_lt x
  obtain ⟨n, hn⟩ : ∃ n : Nat, -(((fltExp x : Int) - 127) / 2) - 1 + 127 = n := ⟨_, (Int.toNat_of_nonneg (by omega)).symm⟩
  have fields := seedWord_fields false (Config.rsqrtsRom (x.extractLsb' 25 7)) hn (by omega)
  have accurate := rsqrtsRom_accurate (x.extractLsb' 25 7)
  have index : ((x.extractLsb' 25 7).extractLsb' 0 6).toNat = fltFrac x / 2 ^ 25 := by
    simp only [fltFrac, BitVec.extractLsb'_toNat, Nat.shiftRight_eq_div_pow]; omega
  have parity : (x.extractLsb' 25 7).getLsbD 6 = decide (fltExp x % 2 = 1) := by
    simp only [fltExp, BitVec.extractLsb'_toNat, Nat.shiftRight_eq_div_pow, BitVec.getLsbD_extractLsb', BitVec.getLsbD,
      Nat.testBit_eq_decide_div_mod_eq]
    simp
    omega
  obtain ⟨d, hd, halves⟩ : ∃ d : Nat, d = (if fltExp x % 2 = 1 then 0 else 1) ∧ 2 * n + fltExp x = 379 + d := by
    refine ⟨_, rfl, ?_⟩
    split <;> omega
  have factor : (if (x.extractLsb' 25 7).getLsbD 6 then 1 else 2) = 2 ^ d := by
    rw [parity, hd]
    simp only [decide_eq_true_eq]
    split <;> rfl
  simp only [Config.rsqrtsAccurate, Config.rsqrtsHigh, Config.rsqrtsLow, index, factor, Bool.and_eq_true,
    decide_eq_true_eq] at accurate
  refine ⟨fields.1, by rw [fields.2.1, hn], ?_⟩
  rw [fltVal_of_fields fields (by omega), fltVal_of_fields (w := x) (f := fltFrac x) ⟨positive, rfl, rfl⟩ exponent]
  generalize (Config.rsqrtsRom (x.extractLsb' 25 7)).toNat = f at accurate ⊢
  generalize fltFrac x = g at accurate ⊢
  have low : (64 + g / 2 ^ 25) * 2 ^ 25 ≤ 2 ^ 31 + g := by omega
  have high : 2 ^ 31 + g ≤ (64 + g / 2 ^ 25 + 1) * 2 ^ 25 := by omega
  have lower : 225 * 2 ^ 71 ≤ (2 ^ 23 + f) ^ 2 * ((2 ^ 31 + g) * 2 ^ d) := by
    calc 225 * 2 ^ 71 = 225 * 2 ^ 46 * 2 ^ 25 := by norm_num
      _ ≤ (2 ^ 23 + f) ^ 2 * ((64 + g / 2 ^ 25) * 2 ^ d) * 2 ^ 25 := Nat.mul_le_mul_right _ accurate.1
      _ = (2 ^ 23 + f) ^ 2 * 2 ^ d * ((64 + g / 2 ^ 25) * 2 ^ 25) := by ring
      _ ≤ (2 ^ 23 + f) ^ 2 * 2 ^ d * (2 ^ 31 + g) := Nat.mul_le_mul_left _ low
      _ = _ := by ring
  have upper : (2 ^ 23 + f) ^ 2 * ((2 ^ 31 + g) * 2 ^ d) ≤ 289 * 2 ^ 71 := by
    calc (2 ^ 23 + f) ^ 2 * ((2 ^ 31 + g) * 2 ^ d) = (2 ^ 23 + f) ^ 2 * 2 ^ d * (2 ^ 31 + g) := by ring
      _ ≤ (2 ^ 23 + f) ^ 2 * 2 ^ d * ((64 + g / 2 ^ 25 + 1) * 2 ^ 25) := Nat.mul_le_mul_left _ high
      _ = (2 ^ 23 + f) ^ 2 * ((64 + g / 2 ^ 25) * 2 ^ d + 2 ^ d) * 2 ^ 25 := by ring
      _ ≤ 289 * 2 ^ 46 * 2 ^ 25 := Nat.mul_le_mul_right _ accurate.2
      _ = 289 * 2 ^ 71 := by norm_num
  have power : ((2 : ℚ) ^ ((n : Int) - 158)) ^ 2 * 2 ^ ((fltExp x : Int) - 158) = 2 ^ d / 2 ^ 95 := by
    rw [sq, ← zpow_add₀ two_ne_zero, ← zpow_add₀ two_ne_zero,
      show (n : Int) - 158 + (n - 158) + ((fltExp x : Int) - 158) = d + -95 by omega, zpow_add₀ two_ne_zero, zpow_natCast]
    norm_num
    ring
  have product : ((if false = true then -1 else 1) * ((2 ^ 31 + f * 2 ^ 8 : Nat) : ℚ) * 2 ^ ((n : Int) - 158)) ^ 2
      * ((if false = true then -1 else 1) * ((2 ^ 31 + g : Nat) : ℚ) * 2 ^ ((fltExp x : Int) - 158))
      = ((2 ^ 23 + f) ^ 2 * ((2 ^ 31 + g) * 2 ^ d) : Nat) / 2 ^ 79 := by
    calc _ = ((2 ^ 31 + f * 2 ^ 8 : Nat) : ℚ) ^ 2 * ((2 ^ 31 + g : Nat) : ℚ)
          * (((2 : ℚ) ^ ((n : Int) - 158)) ^ 2 * 2 ^ ((fltExp x : Int) - 158)) := by
            simp only [Bool.false_eq_true, if_false]; ring
      _ = _ := by rw [power]; push_cast; ring
  rw [product]
  generalize (2 ^ 23 + f) ^ 2 * ((2 ^ 31 + g) * 2 ^ d) = p at lower upper ⊢
  have lower : (225 * 2 ^ 71 : ℚ) ≤ p := by exact_mod_cast lower
  have upper : (p : ℚ) ≤ 289 * 2 ^ 71 := by exact_mod_cast upper
  constructor <;> linarith

theorem aluGives_pole {s t : State} {rn : BitVec 4} {neg : Bool} (h : AluGives s t rn (fltPole neg)) :
    t.rreg rn = infWord neg ∧ AluStatus t false true neg false false false true ∧ Sticks s t 1 true := by
  obtain ⟨word, status, -, avs, -⟩ := aluGives_some.mp h
  cases neg <;> exact ⟨word, status, avs⟩

end Sys2Proof.Machine

open Sys2Proof Sys2Proof.Machine

/-- Settles O20: FLOAT is exact (`fltFloat_exact`), so that FIX, which keeps integers, takes it back. -/
theorem fixedToFloat : Obligations.FixedToFloat := by
  intro s rn rx ry rk i k
  obtain ⟨w, exact', value, zero, sign, conditioned, finite⟩ := fltFloat_exact s.modes (s.rfix rx)
  have result : s.fltResult .float rx ry = fltOut w := exact'
  obtain ⟨t, runs, frame, word, status⟩ := completes_word (i := .fltFloat rn rx ry) (sm := 0) rfl nofun result rfl
  rw [zero, sign] at status
  refine ⟨⟨t, runs, frame, word.symm ▸ value, status⟩, ?scaled, fun rnd32 => ⟨t, ?_⟩⟩
  case scaled =>
    have valid : (fltFloat s.modes (s.rfix rx) k).flags.ai = false := by unfold fltFloat; split <;> rfl
    refine (completes_valid (i := .fltFloatBy rn rx ry) (op := .floatBy) (sm := 3) rfl nofun rfl valid rfl).imp
      fun t ⟨frame, gives⟩ => ⟨frame, _, gives, ?_⟩
    have zeroInt : i = 0 ↔ s.rfix rx = 0 := by rw [← BitVec.toInt_inj]; rfl
    split_ifs with h
    · exact if_pos (zeroInt.mp h)
    · refine ⟨i.natAbs, k, Int.natAbs_ne_zero.mpr h, by rw [Nat.cast_natAbs, Int.cast_abs], ?_⟩
      exact (if_neg (mt zeroInt.mpr h)).trans (by rw [getLsbD_31_eq_neg]; rfl)
  have modes : t.modes.rnd32 = false := by rw [frame.rest]; exact rnd32
  obtain ⟨u, back, -, gives⟩ := completes_flt (i := .fltFix rk rn ry) (op := .fix) rfl nofun t
  refine ⟨u, runs, back, ?_⟩
  change AluGives t u rk (fltFix t.modes (fixMode t.modes) (fltIn t.modes.rnd32 (t.rreg rn)) 0) at gives
  rw [modes, word, conditioned] at gives
  obtain ⟨j, rounds, out⟩ := (fltFix_fixOf t.modes (fixMode t.modes) w 0).finite finite
  rw [zpow_zero, mul_one, value] at rounds
  have same := rounds.eq (by unfold fixMode; split <;> decide)
  have range := BitVec.two_mul_toInt_lt (x := s.rfix rx)
  have range' := BitVec.le_two_mul_toInt (x := s.rfix rx)
  rw [same, if_neg (by omega), BitVec.ofInt_toInt] at out
  exact gives.1 _ out.1

/-- Settles O21: the cases of the two operations; the seeds are those of `recips_seed` and `rsqrts_seed`. -/
theorem floatSeeds : Obligations.FloatSeeds := by
  intro s rn rx ry x e notNan
  refine ⟨?recips, ?rsqrts⟩
  case recips =>
    have runs : fltRecips s.modes x = _ := if_neg (by simp [notNan])
    have valid : (fltRecips s.modes x).flags.ai = false := by rw [runs]; split_ifs <;> rfl
    refine (completes_valid (i := .fltRecips rn rx ry) (op := .recips) (sm := 2) rfl nofun rfl valid rfl).imp
      fun t ⟨frame, gives⟩ => ⟨frame, ?_⟩
    change AluGives s t rn (fltRecips s.modes x) at gives
    rw [runs] at gives
    by_cases zero : fltZero x = true
    · rw [if_pos zero] at gives ⊢
      exact aluGives_pole gives
    rw [if_neg zero] at gives ⊢
    by_cases large : 125 < e
    · rw [if_pos large] at gives ⊢
      obtain ⟨word, status⟩ := aluGives_word gives
      refine ⟨word, ?_⟩
      cases sign : x.msb <;> rw [fltSign_eq_msb, sign] at status <;> exact status
    · rw [if_neg large] at gives ⊢
      obtain ⟨word, status⟩ := aluGives_word gives
      obtain ⟨sign, exponent, accurate⟩ := recips_seed (x := x) (by simpa using zero) (by omega)
      rw [fltZero, exponent, sign, decide_eq_false (by omega)] at status
      rw [word]
      exact ⟨sign, by omega, accurate, status⟩
  case rsqrts =>
    refine (completes_flt (i := .fltRsqrts rn rx ry) (op := .rsqrts) rfl nofun s).imp fun t ⟨frame, gives⟩ => ⟨frame, ?_⟩
    change AluGives s t rn (fltRsqrts s.modes x) at gives
    unfold fltRsqrts at gives
    dsimp only at gives
    by_cases zero : fltZero x = true
    · rw [if_pos zero] at gives ⊢
      exact aluGives_pole gives
    rw [if_neg zero] at gives ⊢
    by_cases negative : x.msb = true
    · rw [if_pos (by simp [fltSign_eq_msb, negative])] at gives
      rw [if_pos negative]
      obtain ⟨word, status, -, -, -, ais⟩ := aluGives_some.mp gives
      exact ⟨word, status, ais⟩
    have positive : fltSign x = false := Bool.eq_false_iff.mpr negative
    rw [if_neg (by simp [notNan, positive])] at gives
    rw [if_neg negative]
    by_cases inf : fltInf x = true
    · rw [if_pos inf] at gives ⊢
      exact aluGives_word gives
    · rw [if_neg inf] at gives ⊢
      obtain ⟨word, status⟩ := aluGives_word gives
      obtain ⟨sign, exponent, low, high⟩ := rsqrts_seed (x := x) (by simpa using zero) positive
      have notZero : fltZero (seedWord false (-(((fltExp x : Int) - 127) / 2) - 1)
          (Config.rsqrtsRom (x.extractLsb' 25 7))) = false := by
        have := fltExp_lt x
        simp only [fltZero, decide_eq_false_iff_not]
        omega
      rw [notZero, sign] at status
      rw [word]
      exact ⟨sign, exponent, low, high, status⟩
end

section
/-! Multifunction operations: the multiplier and the ALU side by side, and the dual add and subtract. -/

namespace Sys2Proof.Machine

/-! ### Every ALU operation but a compare has a result -/

theorem aluFixed_val (md : Modes) {op : AluOp} (x y : BitVec 32) (h : op ≠ .comp) :
    ∃ v, (aluFixed md op x y).val = some v := by
  cases op
  case comp => exact absurd rfl h
  all_goals exact ⟨_, rfl⟩

theorem fltSum_val (md : Modes) (h : Int) (x y : BitVec 40) : ∃ v, (fltSum md h x y).val = some v := by
  unfold fltSum
  dsimp only
  split_ifs <;> exact ⟨_, rfl⟩

theorem fltBinary_val (md : Modes) (x y r : BitVec 40) : ∃ v, (fltBinary md x y r).val = some v := by
  unfold fltBinary
  split_ifs <;> exact ⟨_, rfl⟩

theorem fixOverflow_val (md : Modes) (neg : Bool) : ∃ v, (fixOverflow md neg).val = some v := by
  unfold fixOverflow
  split_ifs <;> exact ⟨_, rfl⟩

theorem fltFix_val (md : Modes) (mode : FixMode) (x : BitVec 40) (k : Int) : ∃ v, (fltFix md mode x k).val = some v := by
  unfold fltFix
  dsimp only
  split_ifs <;> first | exact fixOverflow_val .. | exact ⟨_, rfl⟩

/-- The operations that a multifunction row can do beside a multiply. -/
theorem parFlt_val (md : Modes) (op : ParFlt) (wx wy : BitVec 40) : ∃ v, (aluFloat md (parFltOp op) wx wy).val = some v := by
  cases op
  case add => exact fltSum_val ..
  case sub => exact fltSum_val ..
  case floatBy =>
    change ∃ v, (fltFloat md _ _).val = some v
    unfold fltFloat
    split_ifs <;> exact ⟨_, rfl⟩
  case fixBy => exact fltFix_val ..
  case avg => exact fltSum_val ..
  case abs =>
    change ∃ v, (fltUnary md _ _).val = some v
    unfold fltUnary
    split_ifs <;> exact ⟨_, rfl⟩
  case max => exact fltBinary_val ..
  case min => exact fltBinary_val ..

/-! ### The status of the ALU after another unit -/

/-- The ALU bits of ASTAT are those of the operation, whatever stood there. -/
theorem AluFlags.astat_and (f : AluFlags) (hg : f.gt = none) (v : BitVec 32) :
    f.astat v &&& 0x43F = f.astat 0 &&& 0x43F := by
  unfold AluFlags.astat
  rw [hg]
  simp only [BitVec.and_or_distrib_right, BitVec.and_assoc]
  simp

/-- The ALU sets sticky bits beside those that stand there. -/
theorem AluFlags.stky_eq (f : AluFlags) (v : BitVec 32) : f.stky v = v ||| f.stky 0 := by
  simp [AluFlags.stky, BitVec.or_assoc]

theorem bitAt_or (a b : Bool) (k : Nat) : bitAt (a || b) k = bitAt a k ||| bitAt b k := by
  cases a <;> cases b <;> simp [bitAt]

theorem AluFlags.or_astat (f g : AluFlags) (hf : f.gt = none) (hg : g.gt = none) (v : BitVec 32) :
    (f.or g).astat v &&& 0x43F = (f.astat v ||| g.astat v) &&& 0x43F := by
  rw [BitVec.and_or_distrib_right, astat_and _ rfl, astat_and f hf, astat_and g hg]
  rw [← BitVec.and_or_distrib_right]
  simp only [AluFlags.astat, hf, hg, AluFlags.or, bitAt_or, BitVec.zero_and, BitVec.zero_or]
  congr 1
  ac_rfl

theorem AluFlags.or_stky (f g : AluFlags) (v : BitVec 32) : (f.or g).stky v = f.stky v ||| g.stky v := by
  have twice : v = v ||| v := (BitVec.or_self).symm
  conv_lhs => rw [AluFlags.stky, twice]
  simp only [AluFlags.stky, AluFlags.or, bitAt_or]
  ac_rfl

/-! ### Dual results (R620, U8) -/

theorem applyDual_eq (s : State) (ra rs : BitVec 4) {sum diff : AluOut} {a d : BitVec 40} (ha : sum.val = some a)
    (hd : diff.val = some d) : s.applyDual ra rs sum diff =
      if ra = rs then (s.aluStatus (sum.flags.or diff.flags)).setRreg ra (if choiceAt s 3 then a else d)
      else ((s.aluStatus (sum.flags.or diff.flags)).setRreg rs d).setRreg ra a := by
  unfold State.applyDual
  dsimp only
  rw [ha, hd]
  cases choiceAt s 3 <;> simp [ha, hd]

/-! ### Two units on one state (R620, R622) -/

/-- An ALU half beside a multiplier half: it leaves the status `f` and writes the registers `rs`, from results that do not
depend on the state it writes them to. -/
structure AluPart (s : State) (f : AluFlags) (rs : List (BitVec 4)) (sm : BitVec 32) (part : State → State) : Prop where
  gt : f.gt = none
  status : ∀ u, (part u).sys = (u.aluStatus f).sys
  frame : ∀ u, ComputeFrame u (part u) rs [] 0x43F sm
  regs : ∀ u, u.free = s.free → ∀ n ∈ rs, (part u).rreg n = (part s).rreg n

/-- A bit mask inside another leaves equal words equal. -/
theorem and_eq_of_and_eq {v w m n : BitVec 32} (h : v &&& m = w &&& m) (sub : n = m &&& n) : v &&& n = w &&& n := by
  rw [sub, ← BitVec.and_assoc, h, BitVec.and_assoc]

/-- OR takes in bits that stand there already. -/
theorem or_eq_of_sub {v w : BitVec 32} (h : v &&& ~~~w = 0) : w ||| v = w := by
  ext i hi
  have bit := congrArg (·.getLsbD i) h
  simp only [BitVec.getLsbD_and, BitVec.getLsbD_not, hi, decide_true, Bool.true_and, BitVec.ofNat_eq_ofNat,
    BitVec.getLsbD_zero] at bit
  rw [← BitVec.getLsbD_eq_getElem, ← BitVec.getLsbD_eq_getElem, BitVec.getLsbD_or]
  cases hv : v.getLsbD i <;> cases hw : w.getLsbD i <;> simp_all

theorem parallel_of_part {s : State} {i im ia : Instr} {mop : MulOp} {rm rx ry : BitVec 4} {f : AluFlags}
    {regs : List (BitVec 4)} {sa sm : BitVec 32} {part : State → State} (alu : AluPart s f regs sa part)
    (runs : exec i s = .next (part (s.compute (.mul mop rm rx ry))))
    (runsMul : exec im s = .next (s.compute (.mul mop rm rx ry))) (runsAlu : exec ia s = .next (part s))
    (mask : sm = mop.stkyMask ||| sa) :
    Parallel s i im ia (Compute.mul mop rm rx ry).dests regs (Compute.mul mop rm rx ry).accs sm := by
  have mul := compute_frame s (.mul mop rm rx ry)
  change ComputeFrame _ _ _ _ 0x3C0 mop.stkyMask at mul
  have after := alu.frame (s.compute (.mul mop rm rx ry))
  have free : (s.compute (.mul mop rm rx ry)).free = s.free := by rw [mul.rest]
  refine ⟨_, _, runsMul, runsAlu, _, runs, ?_, alu.regs _ free, fun n _ => after.regs n, fun b => after.accs b (by simp),
    and_eq_of_and_eq after.astat (by decide), ?_, ?_⟩
  · rw [mask, show (0x7FF : BitVec 32) = 0x3C0 ||| 0x43F from rfl]
    exact (mul.trans after).mono (fun _ h => h) (by simp) (by decide) (by simp)
  · rw [alu.status, alu.status]
    exact (AluFlags.astat_and f alu.gt _).trans (AluFlags.astat_and f alu.gt _).symm
  · rw [alu.status, alu.status]
    change f.stky _ = _ ||| f.stky _
    rw [f.stky_eq, f.stky_eq s.sys.stky, ← BitVec.or_assoc, or_eq_of_sub mul.sticky]

theorem applyAlu_part (s : State) (ra : BitVec 4) {o : AluOut} {sm : BitVec 32} (hg : o.flags.gt = none)
    (hv : ∃ v, o.val = some v) (hs : o.sticks sm) : AluPart s o.flags [ra] sm (·.applyAlu ra o) := by
  obtain ⟨v, hv⟩ := hv
  have out (u : State) : u.applyAlu ra o = (u.aluStatus o.flags).setRreg ra v := by rw [State.applyAlu, hv]
  refine ⟨hg, fun u => ?_, fun u => applyAlu_frame u ra o sm hg hs, fun u _ n hn => ?_⟩
  · rw [out]; simp
  · obtain rfl := List.mem_singleton.mp hn
    rw [out, out, setRreg_rreg_same, setRreg_rreg_same]

theorem applyDual_part (s : State) (ra rs : BitVec 4) {sum diff : AluOut} {sm : BitVec 32}
    (ha : ∃ v, sum.val = some v) (hd : ∃ v, diff.val = some v) (sa : sum.sticks sm) (sd : diff.sticks sm) :
    AluPart s (sum.flags.or diff.flags) [rs, ra] sm (·.applyDual ra rs sum diff) := by
  obtain ⟨a, ha⟩ := ha
  obtain ⟨d, hd⟩ := hd
  refine ⟨rfl, fun u => ?_, fun u => applyDual_frame u ra rs sum diff sm sa sd, fun u free n hn => ?_⟩
  · rw [applyDual_eq u ra rs ha hd]
    split <;> simp
  · have choice : choiceAt u 3 = choiceAt s 3 := by rw [choiceAt, choiceAt, free]
    rw [applyDual_eq u ra rs ha hd, applyDual_eq s ra rs ha hd, choice]
    have member : n = ra ∨ n = rs := by simpa [or_comm] using hn
    by_cases same : ra = rs
    · have : n = ra := member.elim id fun h => h.trans same.symm
      rw [if_pos same, if_pos same, this, setRreg_rreg_same, setRreg_rreg_same]
    · rw [if_neg same, if_neg same]
      rcases member with rfl | rfl
      · rw [setRreg_rreg_same, setRreg_rreg_same]
      · simp [setRreg_rreg]

theorem aluPart_alu (s : State) {op : AluOp} (ra rx ry : BitVec 4) (h : op ≠ .comp) :
    AluPart s (s.aluResult op rx ry).flags [ra] op.stkyMask (·.applyAlu ra (s.aluResult op rx ry)) :=
  applyAlu_part s ra (aluFixed_gt s.modes _ _ h) (aluFixed_val s.modes _ _ h) (aluFixed_sticks ..)

theorem aluPart_flt (s : State) (op : ParFlt) (ra rx ry : BitVec 4) :
    AluPart s (s.fltResult (parFltOp op) rx ry).flags [ra] (parFltOp op).stkyMask
      (·.applyAlu ra (s.fltResult (parFltOp op) rx ry)) :=
  applyAlu_part s ra (aluFloat_gt s.modes _ _ (by cases op <;> decide)) (parFlt_val ..) (aluFloat_sticks ..)

theorem aluPart_dualAlu (s : State) (ra rs rx ry : BitVec 4) :
    AluPart s ((s.aluResult .add rx ry).flags.or (s.aluResult .sub rx ry).flags) [rs, ra] 0x4
      (·.applyDual ra rs (s.aluResult .add rx ry) (s.aluResult .sub rx ry)) :=
  applyDual_part s ra rs (aluFixed_val s.modes _ _ nofun) (aluFixed_val s.modes _ _ nofun)
    (aluFixed_sticks s.modes .add _ _) (aluFixed_sticks s.modes .sub _ _)

theorem aluPart_dualFlt (s : State) (ra rs rx ry : BitVec 4) :
    AluPart s ((s.fltResult .add rx ry).flags.or (s.fltResult .sub rx ry).flags) [rs, ra] 0x23
      (·.applyDual ra rs (s.fltResult .add rx ry) (s.fltResult .sub rx ry)) :=
  applyDual_part s ra rs (fltSum_val ..) (fltSum_val ..) (aluFloat_sticks s.modes .add _ _)
    (aluFloat_sticks s.modes .sub _ _)

/-! ### A dual row alone -/

/-- What a sum and a difference leave together is what they leave alone, put together. -/
theorem applyDual_alone {s : State} {ra rs : BitVec 4} {sum diff : AluOut} {sm : BitVec 32}
    (ha : ∃ v, sum.val = some v) (hd : ∃ v, diff.val = some v) (ga : sum.flags.gt = none) (gd : diff.flags.gt = none)
    (sa : sum.sticks sm) (sd : diff.sticks sm) :
    let t := s.applyDual ra rs sum diff
    let t1 := s.applyAlu ra sum
    let t2 := s.applyAlu rs diff
    ComputeFrame s t [rs, ra] [] 0x43F sm
      ∧ (ra ≠ rs → t.rreg ra = t1.rreg ra ∧ t.rreg rs = t2.rreg rs)
      ∧ (ra = rs → t.rreg ra = t1.rreg ra ∨ t.rreg ra = t2.rreg rs)
      ∧ t.sys.astat &&& 0x43F = (t1.sys.astat ||| t2.sys.astat) &&& 0x43F
      ∧ t.sys.stky = t1.sys.stky ||| t2.sys.stky := by
  have dual := applyDual_part s ra rs ha hd sa sd
  have left := applyAlu_part s ra ga ha sa
  have right := applyAlu_part s rs gd hd sd
  obtain ⟨a, va⟩ := ha
  obtain ⟨d, vd⟩ := hd
  have sumReg : (s.applyAlu ra sum).rreg ra = a := (applyAlu_gives s ra sum).1 a va
  have diffReg : (s.applyAlu rs diff).rreg rs = d := (applyAlu_gives s rs diff).1 d vd
  dsimp only
  rw [sumReg, diffReg]
  refine ⟨dual.frame s, fun h => ?_, fun h => ?_, ?_, ?_⟩
  · rw [applyDual_eq s ra rs va vd, if_neg h]
    exact ⟨setRreg_rreg_same .., by rw [setRreg_rreg, if_neg (Ne.symm h), setRreg_rreg_same]⟩
  · rw [applyDual_eq s ra rs va vd, if_pos h, setRreg_rreg_same]
    cases choiceAt s 3
    · exact .inr rfl
    · exact .inl rfl
  · rw [dual.status, left.status, right.status]
    exact AluFlags.or_astat _ _ ga gd _
  · rw [dual.status, left.status, right.status]
    exact AluFlags.or_stky ..

end Sys2Proof.Machine

open Sys2Proof Sys2Proof.Machine

/-- Settles O34: every row is an ALU part on what the multiply leaves (`parallel_of_part`); the parts read the state
before both. -/
theorem multifunctionRows : Obligations.MultifunctionRows := by
  intro s rs rm ra rx ry xm ym xa ya mx my ax ay ssfr ssf add sub avg three float dual
  have fixed {i1 i2 i3 im : Instr} {mop : ParMul}
      (r1 : i1.toCompute = some (.mulAlu mop .add rm ra xm ym xa ya))
      (r2 : i2.toCompute = some (.mulAlu mop .sub rm ra xm ym xa ya))
      (r3 : i3.toCompute = some (.mulAlu mop .avg rm ra xm ym xa ya))
      (rMul : im.toCompute = some (.mul (parMulOp mop) rm mx my)) :
      three i1 i2 i3 im (Compute.mul (parMulOp mop) rm mx my).dests (Compute.mul (parMulOp mop) rm mx my).accs := by
    have mask : (parMulOp mop).stkyMask = 0x40 := by cases mop <;> rfl
    exact ⟨parallel_of_part (aluPart_alu s (op := .add) ra ax ay nofun) (exec_of_toCompute r1 s) (exec_of_toCompute rMul s) rfl
        (by rw [mask]; rfl),
      parallel_of_part (aluPart_alu s (op := .sub) ra ax ay nofun) (exec_of_toCompute r2 s) (exec_of_toCompute rMul s) rfl
        (by rw [mask]; rfl),
      parallel_of_part (aluPart_alu s (op := .avg) ra ax ay nofun) (exec_of_toCompute r3 s) (exec_of_toCompute rMul s) rfl
        (by rw [mask]; rfl)⟩
  have floating {i ia : Instr} {op : ParFlt} (row : i.toCompute = some (.mulFlt op rm ra xm ym xa ya))
      (rowAlu : ia.toCompute = some (.flt (parFltOp op) ra ax ay)) : float i ia (parFltOp op).stkyMask :=
    parallel_of_part (aluPart_flt s op ra ax ay) (exec_of_toCompute row s) rfl (exec_of_toCompute rowAlu s) rfl
  refine ⟨fixed (mop := .rm) rfl rfl rfl rfl, fixed (mop := .mrfAdd) rfl rfl rfl rfl,
    fixed (mop := .rmMrfAdd) rfl rfl rfl rfl, fixed (mop := .mrfSub) rfl rfl rfl rfl,
    fixed (mop := .rmMrfSub) rfl rfl rfl rfl, floating (op := .add) rfl rfl, floating (op := .sub) rfl rfl,
    floating (op := .floatBy) rfl rfl, floating (op := .fixBy) rfl rfl, floating (op := .avg) rfl rfl,
    floating (op := .abs) rfl rfl, floating (op := .max) rfl rfl, floating (op := .min) rfl rfl, ?_, ?_, ?_, ?_⟩
  · exact parallel_of_part (mop := .rn ssfr) (aluPart_dualAlu s ra rs ax ay)
      (exec_of_toCompute (c := .mulDualAlu rs rm ra xm ym xa ya) rfl s)
      (exec_of_toCompute rfl s) (exec_of_toCompute (c := .dualAlu rs ra ax ay) rfl s)
      (show (0x44 : BitVec 32) = 0x40 ||| 0x4 from rfl)
  · exact parallel_of_part (mop := .fmul) (aluPart_dualFlt s ra rs ax ay)
      (exec_of_toCompute (c := .mulDualFlt rs rm ra xm ym xa ya) rfl s)
      (exec_of_toCompute rfl s) (exec_of_toCompute (c := .dualFlt rs ra ax ay) rfl s)
      (show (0x3A3 : BitVec 32) = 0x380 ||| 0x23 from rfl)
  · exact ⟨_, _, rfl, rfl, _, rfl, applyDual_alone (sum := s.aluResult .add rx ry) (diff := s.aluResult .sub rx ry)
      (aluFixed_val s.modes _ _ nofun) (aluFixed_val s.modes _ _ nofun) rfl rfl (aluFixed_sticks s.modes .add _ _)
      (aluFixed_sticks s.modes .sub _ _)⟩
  · exact ⟨_, _, rfl, rfl, _, rfl, applyDual_alone (sum := s.fltResult .add rx ry) (diff := s.fltResult .sub rx ry)
      (fltSum_val ..) (fltSum_val ..) (aluFloat_gt s.modes _ _ nofun) (aluFloat_gt s.modes _ _ nofun)
      (aluFloat_sticks s.modes .add _ _) (aluFloat_sticks s.modes .sub _ _)⟩
end

section
/-! Moves between registers and memory: loads, the dual move, an immediate shift with a transfer, and moves between
registers (40_compute_move.md; 42_immediate_move.md). -/

namespace Sys2Proof.Machine

/-! ### The memory invariant through an access -/

theorem MemInv.of_eq {s t : State} (h : MemInv s) (mem : t.mem = s.mem) (shadow : t.shadow = s.shadow) : MemInv t :=
  ⟨mem ▸ h.canonical, shadow ▸ h.queued, shadow ▸ h.short⟩

theorem MemInv.storeNormal {s : State} (h : MemInv s) (g px b : Bool) {off : Nat} (ho : off < 0x2000) (w : BitVec 48) :
    MemInv (s.storeNormal g px b off w) := by
  unfold State.storeNormal
  split
  · split
    · next wide =>
        refine h.queueWrite _ _ fun c hc => ?_
        simp only [wideWrites, List.mem_cons, List.not_mem_nil, or_false] at hc
        rcases hc with rfl | rfl | rfl <;> exact wideCell_lt wide (by decide)
    · exact h
  · refine h.queueWrite _ _ fun c hc => ?_
    simp only [narrowWrites, List.mem_cons, List.not_mem_nil, or_false] at hc
    rcases hc with rfl | rfl <;> exact narrowCell_lt ho (by decide)

theorem MemInv.storeExt {s : State} (h : MemInv s) (a : Nat) (v : BitVec 32) : MemInv (s.storeExt a v) := by
  unfold State.storeExt
  split
  · exact ⟨wf_writeExt h.canonical a v, h.queued, h.short⟩
  · exact h

theorem MemInv.storeExtWide {s : State} (h : MemInv s) (a : Nat) (w : BitVec 48) : MemInv (s.storeExtWide a w) := by
  unfold State.storeExtWide
  split
  · exact ⟨wf_writeExtWide h.canonical a w, h.queued, h.short⟩
  · exact h

theorem MemInv.store {s t : State} (h : MemInv s) {g px : Bool} {a : BitVec 32} {w : BitVec 48}
    (ht : s.store g px a w = .ok t) : MemInv t := by
  unfold State.store at ht
  cases hp : place s.env.id a with
  | iop r =>
    simp only [hp] at ht
    rw [writeReg_rest ht]
    exact h.of_eq rfl rfl
  | remote =>
    simp only [hp] at ht
    split at ht
    · obtain rfl := Except.ok.inj ht
      exact h.of_eq rfl rfl
    · cases ht
  | reserved =>
    simp only [hp] at ht
    exact Except.ok.inj ht ▸ h
  | normal b off =>
    simp only [hp] at ht
    exact Except.ok.inj ht ▸ h.storeNormal g px b (place_normal_lt hp) w
  | short c =>
    simp only [hp] at ht
    refine Except.ok.inj ht ▸ h.queueWrite _ _ fun d hd => ?_
    obtain rfl := List.mem_singleton.mp hd
    exact place_short_lt hp
  | ext n =>
    simp only [hp] at ht
    split at ht
    · obtain rfl := Except.ok.inj ht
      refine MemInv.of_eq (s := if px then s.storeExtWide n w else s.storeExt n (w.extractLsb' 16 32)) ?_ rfl rfl
      split
      · exact h.storeExtWide n w
      · exact h.storeExt n _
    · cases ht

/-! ### Transfers that load, with any operation beside them -/

/-- An operation beside a transfer leaves what the settable registers depend on. -/
def KeepsCore (c : State → State) : Prop := ∀ x, (c x).stk = x.stk ∧ (c x).pipe = x.pipe ∧ (c x).lat = x.lat

theorem transfer_loadDone {s : State} {g : Bool} {u : Ureg} {a : BitVec 32} {c : State → State} {par : State → State → Prop}
    (keeps : KeepsCore c) (hc : ∀ x, par x (c x)) (ok : LoadOk s u (place s.env.id a))
    (hs : LoadSettable s g u (place s.env.id a)) (i : BitVec 3) (mv : BitVec 32) :
    ∃ t, s.transfer g false u a c id = .ok t ∧ LoadDone s t g u (place s.env.id a) par false i mv := by
  obtain ⟨w, x, z, ht, loaded, written⟩ := transfer_load id keeps ok hs
  exact ⟨_, ht, w, x, _, z, loaded, hc x, written, rfl⟩

theorem indexed_loadDone_of {s : State} {up g : Bool} {u : Ureg} {i : BitVec 3} {mv : BitVec 32} {c : State → State}
    {par : State → State → Prop} (keeps : KeepsCore c) (hc : ∀ x, par x (c x))
    (ok : LoadOk s u (place s.env.id (s.indexAddr up g i mv)))
    (hs : LoadSettable s g u (place s.env.id (s.indexAddr up g i mv))) :
    ∃ t, s.indexed up g false u i mv c = .ok t
      ∧ LoadDone s t g u (place s.env.id (s.indexAddr up g i mv)) par up i mv := by
  cases up with
  | false => exact transfer_loadDone keeps hc ok hs i mv
  | true =>
    obtain ⟨w, x, z, ht, loaded, written⟩ := transfer_load (·.postmodify g i mv) keeps ok hs
    exact ⟨_, ht, w, x, _, z, loaded, hc x, written, postmodify_updated z g i mv⟩

/-- The same under a condition that holds, at the address before its note. -/
theorem noteCond_indexed_loadDone {s : State} (cond : BitVec 5) {up g : Bool} {u : Ureg} {i : BitVec 3} {mv : BitVec 32}
    {c : State → State} {par : State → State → Prop} (keeps : KeepsCore c) (hc : ∀ x, par x (c x))
    (ok : LoadOk (s.noteCond cond) u (place s.env.id (s.indexAddr up g i mv)))
    (hs : LoadSettable (s.noteCond cond) g u (place s.env.id (s.indexAddr up g i mv))) :
    ∃ t, (s.noteCond cond).indexed up g false u i mv c = .ok t
      ∧ LoadDone (s.noteCond cond) t g u (place s.env.id (s.indexAddr up g i mv)) par up i mv := by
  rw [← noteCond_env s cond, ← noteCond_indexAddr s cond] at ok hs ⊢
  exact indexed_loadDone_of keeps hc ok hs

theorem noteCond_indexed_storeDone_of {s : State} (h : MemInv s) (cond : BitVec 5) {up g : Bool} {r : Ureg} {i : BitVec 3}
    {mv : BitVec 32} {w : BitVec 48} {c : State → State} {par : State → State → Prop} (hc : ∀ x, par x (c x))
    (hw : s.storeImage r = .ok w)
    (ok : StoreOk (s.noteCond cond) g (decide (r = .px)) (place s.env.id (s.indexAddr up g i mv)) w) :
    ∃ t, (s.noteCond cond).indexed up g true r i mv c = .ok t
      ∧ StoreDone (s.noteCond cond) t g (decide (r = .px)) (place s.env.id (s.indexAddr up g i mv)) w par up i mv := by
  rw [← noteCond_env s cond, ← noteCond_indexAddr s cond] at ok ⊢
  exact indexed_storeDone (h.noteCond cond) hc ((noteCond_storeImage s cond r).trans hw) ok

/-! ### Type 6 with a transfer -/

theorem shiftImm_keeps (op : ShiftImmOp) (dx : BitVec 4) (data : BitVec 8) (rn rx : BitVec 4) :
    KeepsCore (·.shiftImm op dx data rn rx) := by
  intro x
  dsimp only
  unfold State.shiftImm
  rw [(shiftImm_frame x op rn rx (shiftImmediate op dx data)).rest]
  exact ⟨rfl, rfl, rfl⟩

theorem shiftImmMove_true {s : State} {cond : BitVec 5} (hc : s.cond cond = true) (op : ShiftImmOp) (i m : BitVec 3)
    (g d : Bool) (dx r : BitVec 4) (data : BitVec 8) (rn rx : BitVec 4) :
    exec (Instr.ofShiftImmMove op i m cond g d dx r data rn rx) s =
      finish s ((s.noteCond cond).indexed true g d (.r r) i (s.dagReg .m g m) (·.shiftImm op dx data rn rx)) := by
  rw [exec_ofShiftImmMove, State.shiftImmMove, givenAccess_true hc, noteCond_dagReg]

/-! ### Type 1 -/

theorem Stored.rest {s x : State} {g px : Bool} {p : Place} {w : BitVec 48} (h : Stored s x g px p w) :
    x.env = s.env ∧ x.data = s.data ∧ x.lat = s.lat := by
  cases p
  case iop => exact ⟨congrArg (·.env) h.2, congrArg (·.data) h.2, congrArg (·.lat) h.2⟩
  all_goals
    have rest := StoreAt.rest h
    exact ⟨congrArg (·.env) rest, congrArg (·.data) rest, congrArg (·.lat) rest⟩

/-- One access of the dual move: a store leaves the image of its register, a load brings the word that goes to it later. -/
theorem access_done {s : State} (mem : MemInv s) {g d : Bool} {r : BitVec 4} {a : BitVec 32}
    (ok : if d then StoreOk s g false (place s.env.id a) (s.rreg r ++ 0#8) else LoadOk s (.r r) (place s.env.id a))
    (site : Nat) :
    ∃ x w, s.access g d (.r r) a site = .ok (if d then none else some w, x)
      ∧ (if d then Stored s x g false (place s.env.id a) (s.rreg r ++ 0#8) else Loaded s x g (.r r) (place s.env.id a) w)
      ∧ MemInv x ∧ x.env = s.env ∧ x.data = s.data ∧ x.lat = s.lat := by
  cases d
  case false =>
    obtain ⟨w, x, hx, loaded⟩ := load_loaded (g := g) (u := .r r) (site := site) ok
    have rest := loaded.rest
    exact ⟨x, w, by simp [State.access, hx], loaded, mem.of_eq (congrArg (·.mem) rest) (congrArg (·.shadow) rest),
      congrArg (·.env) rest, congrArg (·.data) rest, congrArg (·.lat) rest⟩
  case true =>
    obtain ⟨x, hx, stored⟩ := store_stored mem ok
    exact ⟨x, 0, by simp [State.access, storeImage_r, hx], stored, mem.store hx, stored.rest⟩

/-- What an access still has to bring goes to its data register. -/
theorem settle_r (s : State) (d : Bool) (r : BitVec 4) (w : BitVec 48) :
    ∃ t, s.settle (.r r) (if d then none else some w) = .ok t ∧ if d then t = s else LoadWritten s t (.r r) w := by
  cases d
  case false => exact loadWrite_written rfl
  case true => exact ⟨s, rfl, rfl⟩

theorem exec_dmPmDualMove (dmd : Bool) (dmi dmm : BitVec 3) (pmd : Bool) (r1 : BitVec 4) (pmi pmm : BitVec 3)
    (r2 : BitVec 4) (c : Compute) (s : State) :
    exec (.dmPmDualMove dmd dmi dmm pmd r1 pmi pmm r2 c) s = finish s (s.dualMove dmd dmi dmm pmd r1 pmi pmm r2 c) := rfl

/-! ### Moves between registers (R359, R424) -/

theorem uregWrite_irptl {s : State} {fromMem : Bool} {d : BitVec 40} (h : d.getLsbD 9 = true) :
    s.uregWrite fromMem .irptl d = .error (.fault .irptlResetBit) := by
  have bit : (d.extractLsb' 8 32).getLsbD 1 = true := by simpa [-BitVec.getLsbD_eq_getElem] using h
  exact if_pos bit

theorem settable_compute (s : State) (c : Compute) (fromMem : Bool) (u : Ureg) (v : BitVec 32) :
    (s.compute c).settable fromMem u v = s.settable fromMem u v := by
  obtain ⟨stk, pipe, lat⟩ := compute_keeps c s
  exact settable_congr stk pipe lat fromMem u v

theorem uregUregMove_true {s : State} {src : Ureg} {cond : BitVec 5} {v : BitVec 40} (hc : s.cond cond = true)
    (hv : s.uregRead src = .ok v) (dst : Ureg) (c : Compute) :
    exec (.uregUregMove src cond dst c) s = finish s (((s.noteCond cond).compute c).uregWrite false dst v) := by
  rw [exec_uregUregMove, execUregUregMove, given_true hc, noteCond_uregRead, hv]

end Sys2Proof.Machine

open Sys2Proof Sys2Proof.Machine

/-- Settles O37: the shift beside the access is the shift of the form without one. -/
theorem shiftWithMove : Obligations.ShiftWithMove := by
  intro op s i m cond g dx r data rn rx mem hc u p mv par
  have alone (x : State) : par x (x.shiftImm op dx data rn rx) :=
    ⟨exec_ofShiftImm_true (cond := 31) rfl op dx data rn rx, shiftImm_frame ..⟩
  refine ⟨fun ok => ?_, fun ok => ?_⟩
  · exact completes_of_finish (shiftImmMove_true hc op i m g true dx r data rn rx)
      (noteCond_indexed_storeDone_of (up := true) mem cond alone (storeImage_r s r) ok)
  · exact completes_of_finish (shiftImmMove_true hc op i m g false dx r data rn rx)
      (noteCond_indexed_loadDone (up := true) cond (shiftImm_keeps op dx data rn rx) alone ok (loadSettable_r _ _ r _))

/-- Settles O40: every form is a transfer that loads (`transfer_load`); a register of the DAG that forms the address is
refused. -/
theorem loads : Obligations.Loads := by
  intro s
  refine ⟨fun cond g up i m r c hs => ⟨fun hr hup => ?_, fun hr ok settable => ?_⟩, fun cond g up i data n c hs => ?_,
    fun g r a => ?_, fun g i r data => ⟨fun hr => ?_, fun hr => ?_⟩⟩
  · rw [exec_uregMemMoveM, execUregMemMoveM, givenAccess_true hs, hr, hup]
    rfl
  · have runs : exec (.uregMemMoveM up i m cond g false r c) s =
        finish s ((s.noteCond cond).indexed up g false r i (s.dagReg .m g m) (·.compute c)) := by
      rw [exec_uregMemMoveM, execUregMemMoveM, givenAccess_true hs, noteCond_dagReg, if_neg]
      cases dag : uregInDag r g <;> simp_all
    exact completes_of_finish runs (noteCond_indexed_loadDone cond (compute_keeps c) (compute_computed · c) ok settable)
  · intro _ _ _ ok
    exact completes_of_finish (dregMemMoveImm6_given hs i g false up data n c)
      (noteCond_indexed_loadDone cond (compute_keeps c) (compute_computed · c) ok (loadSettable_r _ _ n _))
  · intro _ ok settable
    exact completes_of_finish (exec_uregMemDirect g false r a s)
      (transfer_loadDone (fun _ => ⟨rfl, rfl, rfl⟩) (fun _ => rfl) ok settable 0 0)
  · exact (exec_uregMemImm32 g i false r data s).trans (if_pos hr)
  · intro _ ok settable
    have runs : exec (.uregMemImm32 g i false r data) s = finish s (s.transfer g false r (s.premodify g i data) id id) :=
      (exec_uregMemImm32 g i false r data s).trans (if_neg (by rw [hr]; exact Bool.false_ne_true))
    exact completes_of_finish runs (transfer_loadDone (fun _ => ⟨rfl, rfl, rfl⟩) (fun _ => rfl) ok settable i data)

/-- Settles O38: the two accesses, then the operation, then the two loads, as `State.dualMove` orders them. -/
theorem dualMove : Obligations.DualMove := by
  intro s dmd pmd dmi dmm pmi pmm r1 r2 c mem p1 p2 first second ok1 ok2
  obtain ⟨x, w1, access1, done1, memx, envx, datax, latx⟩ := access_done (g := false) (r := r1) mem ok1 1
  have ok2 := ok2 x w1 done1
  rw [← rreg_congr datax latx r2, show p2 = place x.env.id (s.postAddr true pmi) by rw [envx]] at ok2
  obtain ⟨y, w2, access2, done2, -⟩ := access_done (g := true) (r := r2) memx ok2 2
  rw [rreg_congr datax latx r2, show place x.env.id (s.postAddr true pmi) = p2 by rw [envx]] at done2
  obtain ⟨a, settle2, written2⟩ := settle_r (y.compute c) pmd r2 w2
  obtain ⟨b, settle1, written1⟩ := settle_r a dmd r1 w1
  have runs : s.dualMove dmd dmi dmm pmd r1 pmi pmm r2 c
      = .ok ((b.postmodify false dmi (s.dagReg .m false dmm)).postmodify true pmi (s.dagReg .m true pmm)) := by
    simp [State.dualMove, access1, access2, settle2, settle1, bind, Except.bind]
  refine completes_of_finish (exec_dmPmDualMove ..) ⟨_, runs, x, y, y.compute c, a, b, _, w1, w2, done1, done2,
    compute_computed y c, written2, written1, postmodify_updated .., postmodify_updated ..⟩

/-- Settles O41: a move is a register write of what was read (`uregWrite_written`). -/
theorem registerMoves : Obligations.RegisterMoves := by
  intro s
  refine ⟨fun src dst cond c v hc hv => ⟨fun settable => ?_, fun hd bit => ?_⟩, fun dst data => ⟨fun settable => ?_,
    fun hd bit => ?_⟩⟩
  · have settable' : ((s.noteCond cond).compute c).settable false dst (v.extractLsb' 8 32) = true := by
      rwa [settable_compute, noteCond_settable]
    obtain ⟨t, written, post⟩ := uregWrite_written settable'
    exact completes_of_finish (uregUregMove_true hc hv dst c) ⟨t, written, _, compute_computed _ c, post⟩
  · rw [uregUregMove_true hc hv, hd, uregWrite_irptl bit]
    rfl
  · have low : (data ++ 0#8).extractLsb' 8 32 = data := by rw [extract_append_high] <;> simp
    obtain ⟨t, written, post⟩ := uregWrite_written (d := data ++ 0#8) (low.symm ▸ settable)
    exact completes_of_finish (exec_uregImm32 dst data s) ⟨t, written, post⟩
  · have bit' : (data ++ 0#8).getLsbD 9 = true := by rw [bit_append_high] <;> simp [bit]
    rw [exec_uregImm32, execUregImm32, hd, bus32, uregWrite_irptl bit']
    rfl
end

section
/-! Branches that are taken: jumps, calls and returns, each on what the note of its condition and the operation beside it
leave (41_program_flow.md R386 to R390). -/

namespace Sys2Proof.Machine

/-! ### What a branch acts on -/

/-- The state a taken branch acts on: without ELSE the compute operation goes before it. -/
def State.withCompute (s : State) (e : Bool) (c : Compute) : State := if e then s else s.compute c

theorem withCompute_computed (s : State) (e : Bool) (c : Compute) :
    if e then s.withCompute e c = s else Computed c s (s.withCompute e c) := by
  cases e
  · exact compute_computed s c
  · rfl

theorem noteCond_keeps (s : State) (cond : BitVec 5) :
    (s.noteCond cond).stk = s.stk ∧ (s.noteCond cond).pipe = s.pipe ∧ (s.noteCond cond).lat = s.lat := by
  unfold State.noteCond
  split <;> exact ⟨rfl, rfl, rfl⟩

/-- The stacks, the pipeline and the registers in effect are those before the instruction. -/
theorem withCompute_keeps (s : State) (cond : BitVec 5) (e : Bool) (c : Compute) :
    ((s.noteCond cond).withCompute e c).stk = s.stk ∧ ((s.noteCond cond).withCompute e c).pipe = s.pipe
      ∧ ((s.noteCond cond).withCompute e c).lat = s.lat := by
  cases e
  · obtain ⟨stk, pipe, lat⟩ := compute_keeps c (s.noteCond cond)
    obtain ⟨stk', pipe', lat'⟩ := noteCond_keeps s cond
    exact ⟨stk.trans stk', pipe.trans pipe', lat.trans lat'⟩
  · exact noteCond_keeps s cond

theorem looping_congr {s t : State} (h : t.stk = s.stk) : t.looping = s.looping := by rw [State.looping, h]; rfl

theorem pcEmpty_congr {s t : State} (h : t.stk = s.stk) : t.pcEmpty = s.pcEmpty := by rw [State.pcEmpty, h]; rfl

theorem pcTop_congr {s t : State} (h : t.stk = s.stk) : t.pcTop = s.pcTop := by rw [State.pcTop, h]; rfl

theorem canEnd_congr {s t : State} (hs : t.stk.status = s.stk.status) (hl : t.lat = s.lat) (h : s.canEnd) : t.canEnd := by
  intro k hk
  rw [State.inService, hl] at hk
  rw [hs]
  exact h k hk

theorem branchElse_true {s : State} {cond : BitVec 5} (hc : s.cond cond = true) (e : Bool) (c : Compute)
    (f : State → Act State) : s.branchElse cond e c f = f ((s.noteCond cond).withCompute e c) := if_pos hc

/-! ### Returns (R389, R390) -/

theorem popPc_empty {s : State} (h : s.pcEmpty = true) : s.popPc = .error (.refuse .emptyPcStack) := if_pos h

theorem returnFromSub_popped {s : State} (h : s.pcEmpty = false) (j lr : Bool) :
    ∃ x y t, s.returnFromSub j lr = .ok t ∧ x = { s with stk.pcstkp := s.stk.pcstkp - 1 }
      ∧ (if lr then ReentrySet x y s.pcTop else y = x) ∧ BranchTaken y t j s.pcTop := by
  have runs := popPc_popped h
  generalize ({ s with stk.pcstkp := s.stk.pcstkp - 1 } : State) = x at runs ⊢
  refine ⟨x, if lr then x.setLrf s.pcTop else x, _, ?_, rfl, ?_, branchTo_taken ..⟩
  · rw [State.returnFromSub, runs]; rfl
  · cases lr
    · rfl
    · exact setLrf_set ..

theorem returnFromInterrupt_popped {s : State} (h : s.pcEmpty = false) (ends : s.canEnd) (j : Bool) :
    ∃ x y z t, s.returnFromInterrupt j = .ok t ∧ x = { s with stk.pcstkp := s.stk.pcstkp - 1 }
      ∧ ServiceOver x y ∧ ReentrySet y z s.pcTop ∧ BranchTaken z t j s.pcTop := by
  have runs := popPc_popped h
  have ends' : ({ s with stk.pcstkp := s.stk.pcstkp - 1 } : State).canEnd := canEnd_congr rfl rfl ends
  generalize ({ s with stk.pcstkp := s.stk.pcstkp - 1 } : State) = x at runs ends' ⊢
  obtain ⟨y, cleared, service⟩ := clearInterrupt_over ends'
  refine ⟨x, y, _, _, ?_, rfl, service, setLrf_set .., branchTo_taken ..⟩
  rw [State.returnFromInterrupt, runs]
  simp [bind, Except.bind, cleared]

end Sys2Proof.Machine

open Sys2Proof Sys2Proof.Machine

/-- Settles O46: every row is `jumpTo` or `callTo` on what the condition and the operation beside it leave. -/
theorem jumpsAndCalls : Obligations.JumpsAndCalls := by
  intro s cond a j ci hc u beside jump call
  have jumps {i : Instr} {e : Bool} {c : Compute} {target : BitVec 24}
      (runs : exec i s = finish s ((u.withCompute e c).jumpTo a ci j target)) : jump i e c target := by
    obtain ⟨stk, pipe, lat⟩ := withCompute_keeps s cond e c
    refine ⟨fun aborts ends => ?_, fun ha loop => ?_⟩
    · obtain ⟨t, jumped, taken⟩ := jumpTo_taken (s := u.withCompute e c) (j := j) (t := target)
        (by rw [looping_congr stk, pcEmpty_congr stk]; exact aborts)
        fun h => canEnd_congr (congrArg (·.status) stk) lat (ends h)
      exact completes_of_finish runs ⟨t, jumped, _, withCompute_computed u e c, taken⟩
    · have refused : (u.withCompute e c).popLoop = .error (.refuse .emptyLoopStack) :=
        if_neg (by rw [looping_congr stk, loop]; exact Bool.false_ne_true)
      rw [runs, State.jumpTo, ha, if_pos rfl, State.loopAbort, refused]
      rfl
  have calls {i : Instr} {e : Bool} {c : Compute} {target : BitVec 24}
      (runs : exec i s = finish s ((u.withCompute e c).callTo j target)) : call i e c target := by
    obtain ⟨t, called, taken⟩ := callTo_taken (u.withCompute e c) j target
    exact completes_of_finish runs ⟨t, called, _, withCompute_computed u e c, taken⟩
  have given (f : State → Act State) : finish s (s.given cond f) = finish s (f (u.withCompute true .none)) :=
    congrArg (finish s) (given_true hc f)
  have either (e : Bool) (c : Compute) (f : State → Act State) :
      finish s (s.branchElse cond e c f) = finish s (f (u.withCompute e c)) := congrArg (finish s) (branchElse_true hc e c f)
  exact ⟨fun target => ⟨jumps (given _), calls (given _)⟩, fun rel => ⟨jumps (given _), calls (given _)⟩,
    fun e c => ⟨fun pmi pmm => ⟨jumps (either e c _), calls (either e c _)⟩,
      fun rel => ⟨jumps (either e c _), calls (either e c _)⟩⟩⟩

/-- Settles O48: both returns pop the PC stack first, on what the condition and the operation beside them leave. -/
theorem returns : Obligations.Returns := by
  intro s cond j e lr c hc u popped
  obtain ⟨stk, pipe, lat⟩ := withCompute_keeps s cond e c
  have top : (u.withCompute e c).pcTop = s.pcTop := pcTop_congr stk
  have rts : exec (.rts cond j e lr c) s = finish s ((u.withCompute e c).returnFromSub j lr) :=
    congrArg (finish s) (branchElse_true hc e c _)
  have rti : exec (.rti cond j e c) s = finish s ((u.withCompute e c).returnFromInterrupt j) :=
    congrArg (finish s) (branchElse_true hc e c _)
  refine ⟨fun empty => ?_, fun filled => ?_, fun filled ends => ?_⟩
  · have refused := popPc_empty ((pcEmpty_congr stk).trans empty)
    rw [rts, rti, State.returnFromSub, State.returnFromInterrupt, refused]
    exact ⟨rfl, rfl⟩
  · obtain ⟨x, y, t, runs, pop, reentry, taken⟩ := returnFromSub_popped ((pcEmpty_congr stk).trans filled) j lr
    rw [top] at reentry taken
    exact completes_of_finish rts ⟨t, runs, _, x, y, ⟨withCompute_computed u e c, pop⟩, reentry, taken⟩
  · obtain ⟨x, y, z, t, runs, pop, service, reentry, taken⟩ := returnFromInterrupt_popped
      ((pcEmpty_congr stk).trans filled) (canEnd_congr (congrArg (·.status) stk) lat ends) j
    rw [top] at reentry taken
    exact completes_of_finish rti ⟨t, runs, _, x, y, z, ⟨withCompute_computed u e c, pop⟩, service, reentry, taken⟩
end

section
/-! Types 18 to 24, and which interrupt a step selects (43_misc.md; 60_exceptions.md R657). -/

namespace Sys2Proof.Machine

/-! ### Writes of a register of 32 bits -/

theorem extract_bus32 (v : BitVec 32) : (v ++ 0#8).extractLsb' 8 32 = v := extractLsb'_bus32 v

/-- A write that is known to complete, as the statements say it. -/
theorem uregWritten_of_write {s t : State} {u : Ureg} {d : BitVec 40} (written : s.uregWrite false u d = .ok t)
    (h : s.settable false u (d.extractLsb' 8 32) = true) : UregWritten s t false u d := by
  obtain ⟨t', written', post⟩ := uregWrite_written h
  exact Except.ok.inj (written.symm.trans written') ▸ post

theorem sregWrite_eq (s : State) (r : Sreg) (w : BitVec 32) : s.sregWrite r w = s.uregWrite false r.ureg (w ++ 0#8) := by
  cases r <;> exact congrArg (s.sregWrite _) (extract_bus32 w).symm

/-! ### Type 20 -/

theorem exec_stackInstr (lpu lpo spu spo ppu ppo fc : Bool) (s : State) :
    exec (stackInstr lpu lpo spu spo ppu ppo fc) s = finish s (s.stackOps lpu lpo spu spo ppu ppo fc) := by
  unfold stackInstr
  cases lpu
  · cases lpo
    · cases spu
      · cases spo
        · cases ppu
          · cases ppo <;> rfl
          · rfl
        · rfl
      · rfl
    · rfl
  · rfl

theorem ok_bind {α β : Type} (a : α) (f : α → Act β) : ((Except.ok a : Act α) >>= f) = f a := rfl

/-- The three parts of a Type 20 word, one for each stack. -/
def State.loopOp (s : State) (push pop : Bool) : Act State :=
  let t := if push then s.pushLoop ((freeAt s 4).setWidth 32) (sixth s.stk.count s.stk.depth.toNat) none else s
  if pop then t.popLoop else .ok t

def State.statusOp (s : State) (push pop : Bool) : Act State :=
  let t := if push then s.pushStatus else s
  if pop then t.popStatus else .ok t

def State.pcOp (s : State) (a : BitVec 24) (push pop : Bool) : Act State :=
  let t := if push then s.pushPc a else s
  if pop then t.popPc else .ok t

theorem stackOps_eq (s : State) {lpu lpo spu spo ppu ppo : Bool} (fc : Bool)
    (h : ¬((lpu && lpo) || (spu && spo) || (ppu && ppo)) = true) : s.stackOps lpu lpo spu spo ppu ppo fc = (do
      let x ← s.loopOp lpu lpo
      let y ← x.statusOp spu spo
      let z ← y.pcOp (s.pipe.pc + 1) ppu ppo
      .ok (if fc then z.flush else z)) := by
  rw [State.stackOps, if_neg h]
  cases lpo
  · cases spo
    · cases ppo <;> rfl
    · cases ppo <;> rfl
  · cases spo
    · cases ppo <;> rfl
    · cases ppo <;> rfl

theorem pushLoop_keeps (s : State) (e c : BitVec 32) (b : Option (BitVec 24)) :
    (s.pushLoop e c b).stk.status = s.stk.status ∧ (s.pushLoop e c b).stk.pcstkp = s.stk.pcstkp := by
  unfold State.pushLoop
  dsimp only
  split <;> exact ⟨rfl, rfl⟩

theorem pushStatus_pcstkp (s : State) : s.pushStatus.stk.pcstkp = s.stk.pcstkp := by
  unfold State.pushStatus
  split <;> rfl

theorem loopOp_done {s : State} {push pop : Bool} (one : (push && pop) = false) (filled : pop = true → s.looping = true) :
    ∃ x entry, s.loopOp push pop = .ok x
      ∧ (if push then LoopPushed s x entry (s.stk.count.toList.getD s.stk.depth.toNat 0) none
        else if pop then x = { s with stk.depth := s.stk.depth - 1 } else x = s)
      ∧ x.stk.status = s.stk.status ∧ x.stk.pcstkp = s.stk.pcstkp := by
  cases push
  case true =>
    obtain rfl : pop = false := by simpa using one
    exact ⟨_, (freeAt s 4).setWidth 32, rfl, pushLoop_pushed .., pushLoop_keeps ..⟩
  case false =>
    cases pop
    case false => exact ⟨s, 0, rfl, rfl, rfl, rfl⟩
    case true => exact ⟨_, 0, if_pos (filled rfl), rfl, rfl, rfl⟩

theorem statusOp_done {s : State} {push pop : Bool} (one : (push && pop) = false) (filled : pop = true → s.stk.status ≠ []) :
    ∃ x, s.statusOp push pop = .ok x ∧ (if push then StatusPushed s x else if pop then StatusPopped s x else x = s)
      ∧ x.stk.pcstkp = s.stk.pcstkp := by
  cases push
  case true =>
    obtain rfl : pop = false := by simpa using one
    exact ⟨_, rfl, pushStatus_pushed s, pushStatus_pcstkp s⟩
  case false =>
    cases pop
    case false => exact ⟨s, rfl, rfl, rfl⟩
    case true =>
      obtain ⟨x, runs, popped⟩ := popStatus_popped (filled rfl)
      obtain ⟨_, _, _, _, rest, _⟩ := id popped
      exact ⟨x, runs, popped, by rw [rest]⟩

theorem pcOp_done {s : State} (a : BitVec 24) {push pop : Bool} (one : (push && pop) = false)
    (filled : pop = true → s.pcEmpty = false) : ∃ x, s.pcOp a push pop = .ok x
      ∧ if push then PcPushed s x a else if pop then x = { s with stk.pcstkp := s.stk.pcstkp - 1 } else x = s := by
  cases push
  case true =>
    obtain rfl : pop = false := by simpa using one
    exact ⟨_, rfl, pushPc_pushed s a⟩
  case false =>
    cases pop
    case false => exact ⟨s, rfl, rfl⟩
    case true => exact ⟨_, popPc_popped (filled rfl), rfl⟩

theorem flush_invalid (s : State) (k : Fin 16) :
    (s.flush.cache.get k).first.valid = false ∧ (s.flush.cache.get k).second.valid = false := by
  simp [State.flush, Vector.get]

end Sys2Proof.Machine

open Sys2Proof Sys2Proof.Machine

/-- Settles O56: SET, CLR and TGL are register writes; TST and XOR write bit 18 of ASTAT. -/
theorem bitOperations : Obligations.BitOperations := by
  intro s r data v writes tests
  have written {i : Instr} {w : BitVec 32} (runs : exec i s = finish s (s.sregWrite r w)) : writes i w := by
    rw [sregWrite_eq] at runs
    refine ⟨fun settable => ?_, fun hr bit => ?_⟩
    · obtain ⟨t, done, post⟩ := uregWrite_written (d := w ++ 0#8) ((extract_bus32 w).symm ▸ settable)
      exact completes_of_finish runs ⟨t, done, post⟩
    · have bit' : (w ++ 0#8).getLsbD 9 = true := by rw [bit_append_high] <;> simp [bit]
      rw [runs, hr]
      exact congrArg (finish s) (uregWrite_irptl bit')
  have tested {i : Instr} {b : Bool} (runs : exec i s = .next (s.setBtf b)) : tests i b := by
    refine ⟨_, runs, rfl, fun j hj => ?_⟩
    have mask : (0x00040000#32).getLsbD j = decide (j = 18) := by revert hj j; decide
    simp only [State.setBtf, BitVec.getLsbD_or, BitVec.getLsbD_and, BitVec.getLsbD_not, getLsbD_bitAt b 18 j (by decide),
      mask, hj, decide_true, Bool.true_and]
    by_cases h : j = 18 <;> simp [h]
  exact ⟨written rfl, written rfl, written rfl, tested rfl, tested rfl⟩

/-- Settles O58: each of the instructions is the writes that its rule names, in that order. -/
theorem nopIdleAndFrames : Obligations.NopIdleAndFrames := by
  intro s
  refine ⟨rfl, ?halts, ?jumps, ?frame⟩
  case halts =>
    simp only [List.forall_mem_cons, List.not_mem_nil, false_implies, implies_true, and_true]
    exact ⟨⟨fun h => congrArg (finish s) (if_neg (not_not.mpr h)), fun h => congrArg (finish s) (if_pos h)⟩,
      ⟨fun h => congrArg (finish s) (if_neg (not_not.mpr h)), fun h => congrArg (finish s) (if_pos h)⟩⟩
  case jumps =>
    intro a rel
    have taken (target : BitVec 24) : ∃ x y, UregWritten s x false (.r 2) (s.dagReg .i false 6 ++ 0#8)
        ∧ UregWritten x y false (.i 6) (s.dagReg .i false 7 ++ 0#8) ∧ BranchTaken y (s.cjump target) true target :=
      ⟨_, _, uregWritten_of_write rfl rfl, uregWritten_of_write (congrArg (fun v => Except.ok (State.setDagReg _ _ _ _ v))
        (extract_bus32 _)) rfl, branchTo_taken ..⟩
    simp only [List.forall_mem_cons, List.not_mem_nil, false_implies, implies_true, and_true]
    exact ⟨⟨_, rfl, taken a⟩, ⟨_, rfl, taken (s.pipe.pc + rel)⟩⟩
  case frame =>
    intro p ok
    obtain ⟨w, x, z, runs, loaded, written⟩ := transfer_load (s := s) (g := false) (u := .i 6) (c := id)
      (fun t => t.setDagReg .i false 7 (s.dagReg .i false 6)) (fun _ => ⟨rfl, rfl, rfl⟩) ok fun _ _ _ => rfl
    exact completes_of_finish rfl ⟨_, runs, w, x, z, loaded, written, uregWritten_of_write
      (congrArg (fun v => Except.ok (State.setDagReg _ _ _ _ v)) (extract_bus32 _)) rfl⟩

/-- Settles O57: the operations of the word are done stack by stack, and refused where R447 to R449 say so. -/
theorem stackOperations : Obligations.StackOperations := by
  intro s lpu lpo spu spo ppu ppo fc i both
  have runs : exec i s = finish s (s.stackOps lpu lpo spu spo ppu ppo fc) := exec_stackInstr lpu lpo spu spo ppu ppo fc s
  refine ⟨fun h => ?_, fun h => ?_⟩
  · rw [runs, State.stackOps, if_pos h]
    rfl
  rw [stackOps_eq s fc (by simpa [both] using h)] at runs
  simp only [both, Bool.or_eq_false_iff] at h
  obtain ⟨⟨oneLoop, oneStatus⟩, onePc⟩ := h
  refine ⟨fun pop empty => ?_, fun filledLoop => ?_⟩
  · obtain rfl : lpu = false := by simpa [pop] using oneLoop
    have refused : s.loopOp false lpo = .error (.refuse .emptyLoopStack) := by
      rw [pop]; exact if_neg (show ¬s.looping = true by rw [empty]; exact Bool.false_ne_true)
    rw [runs, refused]
    rfl
  obtain ⟨x, entry, loopRuns, loopPost, status, pcstkp⟩ := loopOp_done oneLoop filledLoop
  rw [loopRuns] at runs
  refine ⟨fun pop empty => ?_, fun filledStatus => ?_⟩
  · obtain rfl : spu = false := by simpa [pop] using oneStatus
    have refused : x.statusOp false spo = .error (.refuse .emptyStatusStack) := by
      rw [pop]
      change x.popStatus = _
      rw [State.popStatus, status, empty]
      rfl
    rw [runs, ok_bind, refused]
    rfl
  obtain ⟨y, statusRuns, statusPost, pcstkp'⟩ := statusOp_done oneStatus (status ▸ filledStatus)
  have sameEmpty : y.pcEmpty = s.pcEmpty := by rw [State.pcEmpty, pcstkp', pcstkp]; rfl
  refine ⟨fun pop empty => ?_, fun filledPc => ?_⟩
  · obtain rfl : ppu = false := by simpa [pop] using onePc
    have refused : y.pcOp (s.pipe.pc + 1) false ppo = .error (.refuse .emptyPcStack) := by
      rw [pop]; exact popPc_empty (sameEmpty.trans empty)
    rw [runs, ok_bind, statusRuns, ok_bind, refused]
    rfl
  obtain ⟨z, pcRuns, pcPost⟩ := pcOp_done (s.pipe.pc + 1) onePc (sameEmpty ▸ filledPc)
  refine completes_of_finish runs ⟨_, by rw [ok_bind, statusRuns, ok_bind, pcRuns]; rfl, x, y, z, entry, loopPost,
    statusPost, pcPost, ?_⟩
  cases fc
  · rfl
  · exact ⟨rfl, flush_invalid z⟩
end

section
/-! Which interrupt a step selects, and its entry (60_exceptions.md R657, R670 to R677). -/

namespace Sys2Proof.Machine

/-! ### The interrupt selected -/

theorem getLsbD_bitOf_sub_one : ∀ k < 32, ∀ n < 32, (bitOf k - 1).getLsbD n = decide (n < k) := by decide

theorem getLsbD_not_three : ∀ n < 32, (~~~3#32).getLsbD n = decide (2 ≤ n) := by decide

/-- Bits of a mask pointer up to one, all clear: none stands there or below. -/
theorem low_clear_iff {v : BitVec 32} {k n : Nat} (hk : v.getLsbD k = true) (low : ∀ j, j < k → v.getLsbD j = false) :
    (∀ j, j ≤ n → v.getLsbD j = false) ↔ n < k := by
  refine ⟨fun h => ?_, fun h j hj => low j (by omega)⟩
  by_contra hle
  exact Bool.noConfusion (hk.symm.trans (h k (by omega)))

/-- The masks of an interrupt: its bit of IMASK, and nesting. -/
theorem getLsbD_tmask (s : State) {n : Nat} (hn : n < 32) : s.tmask.getLsbD n = true ↔
    s.sys.imask.getLsbD n = true
      ∧ (s.sys.imaskp = 0 ∨ s.sys.mode1.getLsbD 11 = true ∧ ∀ j, j ≤ n → s.sys.imaskp.getLsbD j = false) := by
  unfold State.tmask
  cases hl : lowestBit s.sys.imaskp with
  | none => simp [lowestBit_none hl]
  | some k =>
    obtain ⟨hk, hb, low⟩ := lowestBit_some.mp hl
    have served : s.sys.imaskp ≠ 0 := by rintro h0; simp [h0] at hb
    simp only [low_clear_iff hb low, served, false_or]
    split
    · next hm => rw [BitVec.getLsbD_and, getLsbD_bitOf_sub_one k hk n hn, hm]; simp
    · next hm => rw [Bool.not_eq_true] at hm; rw [hm]; simp

/-- Outside IDLE16 and a boot, what is selected is looked for only with IRPTEN. -/
theorem selected_running {s : State} (hm : s.pipe.mode ≠ .idle16) (hb : s.iop.hid.booting = false) :
    s.selected = if s.sys.mode1.getLsbD 12 then lowestBit (s.sys.irptl &&& s.tmask &&& ~~~3#32) else none := by
  simp only [State.selected, hm, if_false, hb, Bool.false_eq_true]
  split
  · rfl
  · decide

/-! ### The entry of an interrupt -/

theorem pushesStatus_iff (k : Nat) : pushesStatus k = true ↔ 4 ≤ k ∧ k ≤ 8 := by simp [pushesStatus]

/-- What an interrupt entry leaves, from the state with both pushes done. -/
theorem takeInterrupt_frame (u : State) (k : Nat) (v : BitVec 24) :
    ∃ x y, PcPushed u x u.pipe.daddr ∧ (if 4 ≤ k ∧ k ≤ 8 then StatusPushed x y else y = x)
      ∧ y.sys.irptl = u.sys.irptl ∧ y.sys.imaskp = u.sys.imaskp ∧ y.pipe = u.pipe
      ∧ u.takeInterrupt k v = { y with
          sys.irptl := y.sys.irptl &&& ~~~bitOf k, sys.imaskp := y.sys.imaskp ||| bitOf k
          pipe := { u.pipe with
            pc := u.pipe.daddr, daddr := u.pipe.faddr
            faddr := v
            killP := true, killD := true, irP := none, irD := none, mode := .running, slots := 0, holdoff := 2 }
          iop.hid.booting := false, iop.hid.bootRom := false } := by
  refine ⟨u.pushPc u.pipe.daddr, if pushesStatus k then (u.pushPc u.pipe.daddr).pushStatus else u.pushPc u.pipe.daddr,
    pushPc_pushed .., ?_, ?_⟩
  · simp only [pushesStatus_iff]
    split
    · exact pushStatus_pushed _
    · rfl
  · have entry (y : State) (h : y.pipe = u.pipe) : { y with
        pipe.pc := u.pipe.daddr, pipe.daddr := u.pipe.faddr, pipe.faddr := v, pipe.killP := true, pipe.killD := true
        pipe.irP := none, pipe.irD := none, pipe.mode := .running, pipe.slots := 0, pipe.holdoff := 2 } = { y with
        pipe := { u.pipe with
          pc := u.pipe.daddr, daddr := u.pipe.faddr, faddr := v, killP := true, killD := true
          irP := none, irD := none, mode := .running, slots := 0, holdoff := 2 } } := by rw [h]
    have frame (y : State) (h : y.pipe = u.pipe) := congrArg (fun x : State => { x with
      sys.irptl := y.sys.irptl &&& ~~~bitOf k, sys.imaskp := y.sys.imaskp ||| bitOf k
      iop.hid.booting := false, iop.hid.bootRom := false }) (entry y h)
    unfold State.takeInterrupt
    split <;> exact ⟨by simp, by simp, by simp, frame _ (by simp)⟩

/-! ### Steps that take none -/

theorem redecode_frame (u s : State) (d f : BitVec 24) : u.redecode s d f = { u with pipe := (u.redecode s d f).pipe } := by
  unfold State.redecode; split <;> rfl

theorem enterLoop_frame (u s : State) : u.enterLoop s = { u with pipe := (u.enterLoop s).pipe } := by
  unfold State.enterLoop
  split
  · rfl
  · split_ifs
    exacts [rfl, redecode_frame .., rfl, rfl]

theorem settleShort_frame (u s : State) : u.settleShort s = { u with pipe := (u.settleShort s).pipe } := by
  simp only [State.settleShort]
  split_ifs
  all_goals first | rfl | exact redecode_frame ..

/-- The stacks of a loop decision, but not the status stack. -/
theorem loopCount_status (u s : State) (l : LoopStep) : (u.loopCount s l).stk.status = u.stk.status := by
  cases l <;> simp only [State.loopCount, State.dropPc, State.dropLoop] <;> split_ifs <;> rfl

/-- The state after the bookkeeping of the loop. -/
def State.counted (s u : State) : State :=
  if s.startsHere u then { u with pipe.lrf := s.pipe.lrf } else u.loopCount s (s.loopDecision u)

theorem counted_frame (s u : State) :
    s.counted u = { u with stk := (s.counted u).stk, pipe.lrf := (s.counted u).pipe.lrf } := by
  unfold State.counted
  split
  · rfl
  · rw [loopCount_frame]

theorem counted_status (s u : State) : (s.counted u).stk.status = u.stk.status := by
  unfold State.counted
  split
  · rfl
  · exact loopCount_status ..

theorem counted_branch (s u : State) : (s.counted u).tr.branch = u.tr.branch := by rw [counted_frame]

/-- The branch of a step: the instruction's, or the one behind a short loop that ran too few times (R399). -/
def State.branchAfter (s u : State) : Branch :=
  match (s.counted u).tr.branch with
  | .none => if s.shortOverhead (s.counted u) (s.loopDecision u) then .nondelayed (s.loopEnd + 1) else .none
  | b => b

theorem branchAfter_of_branch {s u : State} (h : u.tr.branch ≠ .none) : s.branchAfter u = u.tr.branch := by
  rw [← counted_branch s u] at h ⊢
  unfold State.branchAfter
  split
  · next hb => exact absurd hb h
  · rfl

/-- The pipeline where no interrupt is taken: `x` is the state after the bookkeeping of the loop, `b` the branch. -/
def State.movedOn (x s : State) (f : Fetched) (l : LoopStep) (b : Branch) : State :=
  let y := { x with pipe.holdoff := if s.pipe.holdoff = 0 then 0 else s.pipe.holdoff - 1 }
  if y.pipe.mode ≠ .running then y
  else
    match b with
    | .none =>
      let y := { y with pipe.slots := if s.pipe.slots = 0 then 0 else s.pipe.slots - 1 }
      ((y.shift3 s f (s.nextFetch l) false).enterLoop s).settleShort s
    | .nondelayed t => { y.shift3 s f t true with pipe.slots := 0, pipe.holdoff := 1 }
    | .delayed t => { y.shift3 s f t false with pipe.slots := 2, pipe.holdoff := 1 }

theorem sequence_eq (s u : State) (f : Fetched) : s.sequence u f =
    match if s.heldOff (decide (s.branchAfter u ≠ .none)) then none else s.selected with
    | some k => (s.counted u).takeInterrupt k (s.vector k)
    | none => (s.counted u).movedOn s f (s.loopDecision u) (s.branchAfter u) := rfl

theorem movedOn_frame (x s : State) (f : Fetched) (l : LoopStep) (b : Branch) :
    x.movedOn s f l b = { x with pipe := (x.movedOn s f l b).pipe } := by
  unfold State.movedOn
  dsimp only
  split
  · rfl
  · split
    · rw [settleShort_frame, enterLoop_frame]; rfl
    · rfl
    · rfl

/-- A step that is held off, and one that selects no interrupt, takes none. -/
theorem sequence_moves {s u : State} {f : Fetched}
    (h : s.heldOff (decide (s.branchAfter u ≠ .none)) = true ∨ s.selected = none) :
    s.sequence u f = (s.counted u).movedOn s f (s.loopDecision u) (s.branchAfter u) := by
  rw [sequence_eq]
  rcases h with h | h
  · rw [if_pos h]
  · rw [h, ite_self]

/-- Any other enters the interrupt it selects. -/
theorem sequence_taken {s u : State} {f : Fetched} {k : Nat} (hk : s.selected = some k)
    (h : s.heldOff (decide (s.branchAfter u ≠ .none)) = false) :
    s.sequence u f = (s.counted u).takeInterrupt k (s.vector k) := by
  rw [sequence_eq, h, hk]
  rfl

/-- Without a DO UNTIL in this step, outside short loops, the only branch is that of the instruction. -/
theorem branchAfter_long {s u : State} (started : u.tr.loopStarted = none) (hs : s.shortLoop = false)
    (hb : u.tr.branch = .none) : s.branchAfter u = .none := by
  have long : s.loopStep ≠ .shortExit := by
    unfold State.loopStep
    simp only [hs, Bool.false_eq_true, if_false]
    split_ifs <;> simp
  simp [State.branchAfter, counted_branch, hb, loopDecision_none started, State.shortOverhead, long]

/-- The step after a branch takes no interrupt. -/
theorem sequence_holdoff {s u : State} {f : Fetched} (running : u.pipe.mode = .running) (hb : u.tr.branch ≠ .none) :
    (s.sequence u f).pipe.holdoff = 1 := by
  have mode : (s.counted u).pipe.mode = .running := by rw [counted_frame]; exact running
  have off : s.heldOff (decide (s.branchAfter u ≠ .none)) = true := by simp [branchAfter_of_branch hb, hb, heldOff_branch]
  rw [sequence_moves (.inl off)]
  unfold State.movedOn
  dsimp only
  rw [if_neg (not_not_intro mode), branchAfter_of_branch hb]
  split
  · next none => exact absurd none hb
  · rfl
  · rfl

/-! ### The third-to-last pass of a loop of one instruction (R677) -/

theorem thirdToLast_counted {s : State} (hm : s.pipe.mode = .running) (hl : s.looping = true) (hp : s.pipe.killP = false)
    (hpc : s.pipe.pc = s.loopEnd) (h1 : s.loopType = 1) (h3 : s.curlcntr = 3) : s.thirdToLast = true := by
  simp [State.thirdToLast, State.endExecutes, State.shortLoop, hm, hl, hp, hpc, h1, h3]

theorem thirdToLast_tested {s : State} (hm : s.pipe.mode = .running) (hl : s.looping = true) (hp : s.pipe.killP = false)
    (hpc : s.pipe.pc = s.loopEnd) (h0 : s.loopType = 0) (top : s.pcTop = s.loopEnd) (hf : s.pipe.faddr = s.loopEnd)
    (lrf : s.pipe.lrf = false) (ht : s.term (s.laddr.extractLsb' 24 5) = true) : s.thirdToLast = true := by
  have exec : s.endExecutes = true := by simp [State.endExecutes, hp, hpc]
  have long : s.shortLoop = false := by simp [State.shortLoop, h0]
  have ends : s.loopStep = .exit := loopStep_exit_iff.mpr ⟨hm, hl, long, hf, lrf, fun _ => exec, ht⟩
  simp [State.thirdToLast, hm, exec, ends, State.loneLoop, hl, h0, top]

/-- A loop that is not short, and is not one of a single instruction at its end, has no such pass. -/
theorem not_thirdToLast {s : State} (hs : s.shortLoop = false)
    (lone : ¬((s.looping = true ∧ s.pcTop = s.loopEnd ∧ s.pipe.mode = .running ∧ s.pipe.killP = false
      ∧ s.pipe.pc = s.loopEnd) ∧ s.loopType = 0)) : s.thirdToLast = false := by
  rw [← Bool.not_eq_true]
  intro h
  simp only [State.thirdToLast, State.endExecutes, State.loneLoop, hs, Bool.false_and, Bool.false_or, Bool.and_eq_true,
    decide_eq_true_eq, Bool.not_eq_true'] at h
  obtain ⟨⟨hm, hp, hpc⟩, ⟨⟨hl, h0⟩, top⟩, -⟩ := h
  exact lone ⟨⟨hl, top, hm, hp, hpc⟩, h0⟩

end Sys2Proof.Machine

open Sys2Proof Sys2Proof.Machine

/-- Settles O51: bit by bit, the candidates are the interrupts that are ready. -/
theorem interruptSelection : Obligations.InterruptSelection := by
  intro s k hm hb
  dsimp only
  rw [selected_running hm hb]
  split
  · next he =>
    have cand {n : Nat} : n < 32 → ((s.sys.irptl &&& s.tmask &&& ~~~3#32).getLsbD n = true ↔
        2 ≤ n ∧ s.sys.irptl.getLsbD n = true ∧ s.tmask.getLsbD n = true) := fun hn => by
      rw [BitVec.getLsbD_and, BitVec.getLsbD_and, getLsbD_not_three n hn]
      simp only [Bool.and_eq_true, decide_eq_true_eq]
      tauto
    rw [lowestBit_some]
    refine ⟨fun ⟨hk, hc, low⟩ => ⟨he, ?_, fun n hn ready => ?_⟩, fun ⟨_, ready, low⟩ => ?_⟩
    · obtain ⟨two, latched, masked⟩ := (cand hk).mp hc
      exact ⟨two, hk, latched, (getLsbD_tmask s hk).mp masked⟩
    · obtain ⟨two, hn', latched, masked⟩ := ready
      have := (cand hn').mpr ⟨two, latched, (getLsbD_tmask s hn').mpr masked⟩
      exact Bool.noConfusion (this.symm.trans (low n hn))
    · obtain ⟨two, hk, latched, masked⟩ := ready
      refine ⟨hk, (cand hk).mpr ⟨two, latched, (getLsbD_tmask s hk).mpr masked⟩, fun n hn => ?_⟩
      rw [← Bool.not_eq_true]
      intro hc
      obtain ⟨two, latched, masked⟩ := (cand (by omega)).mp hc
      exact low n hn ⟨two, by omega, latched, (getLsbD_tmask s (by omega)).mp masked⟩
  · next he => exact ⟨(nomatch ·), fun ⟨h, _⟩ => absurd h he⟩

/-- Settles O52: an entry is its two pushes (`takeInterrupt_frame`), and what holds a step off leaves the status stack and
the system registers to the instruction (`sequence_moves`). -/
theorem interruptEntry : Obligations.InterruptEntry := by
  refine ⟨fun u k v hk => ?_, fun s u f => ⟨fun k hk hold hb started hs lone => ?_, fun held => ?_,
    fun running branch => ?_⟩⟩
  · obtain ⟨x, y, pushed, saved, irptl, imaskp, -, ht⟩ := takeInterrupt_frame u k v
    dsimp only
    rw [ht]
    refine ⟨⟨x, y, pushed, saved, rfl⟩, fun j hj => ?_⟩
    simp only [irptl, imaskp, BitVec.getLsbD_and, BitVec.getLsbD_or, BitVec.getLsbD_not, getLsbD_bitOf hj, hj, decide_true,
      Bool.true_and, decide_not, and_self]
  · have free : s.heldOff (decide (s.branchAfter u ≠ .none)) = false := by
      simp [State.heldOff, hold, branchAfter_long started hs hb, not_thirdToLast hs lone]
    have counted : s.counted u = u.loopCount s s.loopStep := by
      simp [State.counted, startsHere_none started, loopDecision_none started]
    exact (sequence_taken hk free).trans (by rw [counted]; rfl)
  · have off : s.heldOff (decide (s.branchAfter u ≠ .none)) = true := by
      rcases held with hold | hb | ⟨⟨hl, _, hm, hp, hpc⟩, _, h1, h3⟩ | ⟨⟨hl, top, hm, hp, hpc⟩, _, h0, hf, lrf, ht⟩
      · rw [State.heldOff, decide_eq_true hold]; rfl
      · simp [State.heldOff, branchAfter_of_branch hb, hb]
      · simp [State.heldOff, thirdToLast_counted hm hl hp hpc h1 h3]
      · simp [State.heldOff, thirdToLast_tested hm hl hp hpc h0 top hf lrf ht]
    rw [sequence_moves (.inl off), movedOn_frame]
    exact ⟨congrArg (·.sys) (counted_frame s u), counted_status s u⟩
  · exact sequence_holdoff running branch

end

section
/-! The timers (60_exceptions.md R694 to R698) and the state that reset leaves (70_reset_and_hazards.md R901). -/

namespace Sys2Proof.Machine

@[simp] theorem timer_setTimer_other (s : State) (x : Bool) (t : Timer) :
    (s.setTimer x t).iop.timer (!x) = s.iop.timer (!x) := by cases x <;> rfl

theorem setTimer_frame (s : State) (x : Bool) (t : Timer) : s.setTimer x t = { s with iop := (s.setTimer x t).iop } := by
  cases x <;> rfl

/-- The end of a period: the expired bit of STKY, and the request of the timer's interrupt. -/
theorem timerEvent_expired (s : State) (x : Bool) : s.timerEvent x true = { s with
    sys.stky := s.sys.stky ||| if x then 0x8000 else 0x2000
    tr.requests := s.tr.requests ||| if s.lat.mode2.getLsbD (if x then 13 else 8) then 0x10 else 0x800000 } := by
  have irq : (1#32 <<< timerIrq s.lat.mode2 x)
      = if s.lat.mode2.getLsbD (if x then 13 else 8) then 0x10 else 0x800000 := by
    rw [timerIrq, apply_ite (1#32 <<< ·)]; rfl
  rw [← irq]
  cases x <;> rfl

/-- A tick of a timer in PWMOUT mode that is enabled. -/
theorem tick_pwm {s : State} {x : Bool} (running : s.lat.mode2.getLsbD (if x then 11 else 5) = true)
    (mode : s.lat.mode2.getLsbD (if x then 12 else 7) = true) (enabled : (s.iop.timer x).enabled = true)
    (inPeriod : (s.iop.timer x).count ≤ (s.iop.timer x).period) : s.tick x = .ok
      (if (s.iop.timer x).count = (s.iop.timer x).period then
        (s.setTimer x { s.iop.timer x with pwm := false, count := 1 }).timerEvent x true
      else
        s.setTimer x { s.iop.timer x with
          pwm := (s.iop.timer x).pwm || decide ((s.iop.timer x).count = (s.iop.timer x).width)
          count := (s.iop.timer x).count + 1 }) := by
  rw [State.tick, if_pos running, if_pos mode]
  simp only [State.tickPwm, enabled, Bool.not_true, Bool.false_eq_true, if_false, BitVec.not_lt.mpr inPeriod]
  split <;> rfl

end Sys2Proof.Machine

open Sys2Proof Sys2Proof.Machine

/-- Settles O59. -/
theorem timerPulses : Obligations.TimerPulses := by
  intro s x
  refine ⟨fun stopped disabled => ?_, fun running mode enabled inPeriod => ?_⟩
  · simp only [State.tick, stopped, disabled, Bool.false_eq_true, if_false]
  · refine ⟨_, tick_pwm running mode enabled inPeriod, ?_⟩
    split
    · rw [timerEvent_expired]
      exact ⟨timer_setTimer_other .., by rw [setTimer_frame], timer_setTimer ..⟩
    · exact ⟨timer_setTimer_other .., setTimer_frame .., timer_setTimer ..⟩

/-- Settles O5: the strapping decides the start of the fetch, EP0I and the vector of VIRPTI. -/
theorem resetLeavesTheStatedValues : Obligations.ResetLeavesTheStatedValues := by
  refine ⟨rfl, fun m id => ?_⟩
  have uncached (a : BitVec 24) : ((State.resetWith m id).cacheSet a).find a = none := by
    have invalid : (State.resetWith m id).cacheSet a = State.resetCacheSet := Vector.getElem_replicate ..
    rw [invalid]
    rfl
  have empty : (State.resetWith m id).looping = false := rfl
  have stky : (State.resetWith m id).sregRead .stky = 0x05400000 := by
    rw [sregRead_stky (by simp [State.inShortLoop, State.shortLoop, empty])]
    simp [State.stkyView, State.resetWith, State.resetSys, State.resetStacks]
  have laddr : (State.resetWith m id).laddr = 0xFFFFFFFF := by simp [State.laddr, empty]
  have curlcntr : (State.resetWith m id).curlcntr = 0xFFFFFFFF := by simp [State.curlcntr, empty]
  have astat : (State.resetWith m id).sys.astat
      = ((State.resetWith m id).env.flags.extractLsb' 0 4).setWidth 32 <<< 19 := by
    change (0 : BitVec 32) = (BitVec.extractLsb' 0 4 0).setWidth 32 <<< 19
    decide
  refine ⟨rfl, rfl, rfl, rfl, astat, rfl, ?_, stky, rfl, rfl, laddr, curlcntr, uncached, ?_, fun h => ?_, rfl, rfl, ?_⟩
  · cases m <;> rfl
  · cases m <;> rfl
  · cases h; exact ⟨rfl, rfl, rfl⟩
  · cases m <;> rfl

/-- Settles O6: memory is empty, and so are all stacks and buffers. -/
theorem resetMeetsTheInvariants : Obligations.ResetMeetsTheInvariants := by
  intro m id
  have ports (x : Bool) : ((State.resetWith m id).iop.ep x).fifo = [] ∧ ((State.resetWith m id).iop.ep x).requests = [] := by
    cases m <;> cases x <;> exact ⟨rfl, rfl⟩
  have serial (x : Bool) : (State.resetWith m id).iop.sport x = State.resetSport := by cases x <;> rfl
  refine ⟨⟨rfl, nofun, Nat.zero_le _⟩, ⟨Nat.zero_le _, Nat.zero_le _, ?_, ?_, rfl⟩,
    ⟨fun x => ?_, fun x => ?_, Nat.zero_le _, fun x z => ?_, fun x z => ?_⟩⟩
  · cases m
    · exact (by decide : (0x00000003 : BitVec 32) &&& 3 = 3)
    all_goals exact (by decide : (0x00010003 : BitVec 32) &&& 3 = 3)
  · exact BitVec.zero_and
  · rw [(ports x).1]; exact Nat.zero_le _
  · rw [(ports x).2]; exact Nat.zero_le _
  · rw [serial]; cases z <;> exact Nat.zero_le _
  · rw [serial]; cases z <;> exact Nat.zero_le _

end

section
/-! DMA transfers of the serial ports (61_dma_extport.md R736, R737, R739). -/

namespace Sys2Proof.Machine

theorem chan_setChan_other (s : State) {c e : Fin 10} (d : DmaChannel) (h : e ≠ c) : (s.setChan c d).chan e = s.chan e :=
  Vector.getElem_set_ne c.isLt e.isLt fun he => h (Fin.ext he.symm)

@[simp] theorem rx_setRx (p : Sport) (z : Bool) (r : SportRx) : (p.setRx z r).rx z = r := by cases z <;> rfl

theorem setSport_frame (s : State) (x : Bool) (p : Sport) : s.setSport x p = { s with iop := (s.setSport x p).iop } := by
  cases x <;> rfl

theorem setChan_setChan (s : State) (c : Fin 10) (d e : DmaChannel) : (s.setChan c d).setChan c e = s.setChan c e := by
  simp [State.setChan]

/-- The end of a sequence: the channel does not run, and without chaining it requests its interrupt. -/
theorem endOfSequence_ends (s : State) (c : Fin 10) : ∃ chain r,
    s.endOfSequence c = { s.setChan c { s.chan c with run := false, chainReq := chain } with tr.requests := r }
      ∧ (s.chen c = false → r = s.tr.requests ||| 1#32 <<< chanIrq c) := by
  unfold State.endOfSequence
  dsimp only
  split
  · exact ⟨_, _, rfl, fun _ => rfl⟩
  · next quiet => exact ⟨_, _, rfl, fun h => by simp [h] at quiet⟩

/-- A transfer of a serial port advances the index and counts down; the last one of a sequence ends it. -/
theorem dmaAdvance_serial (s : State) {c : Fin 10} (hc : c.val < 8) :
    ∃ run chain r, s.dmaAdvance c = { s.setChan c { s.chan c with
          ii := s.nextIndex (s.chan c).ii (s.chan c).im, c := (s.chan c).c - 1, run := run, chainReq := chain } with
        tr.requests := r }
      ∧ ((s.chan c).c ≠ 1 → run = (s.chan c).run ∧ r = s.tr.requests)
      ∧ ((s.chan c).c = 1 → run = false ∧ (s.chen c = false → r = s.tr.requests ||| 1#32 <<< chanIrq c)) := by
  have serial : ¬8 ≤ c.val := by omega
  unfold State.dmaAdvance
  dsimp only
  split
  · next last =>
    rw [State.endOfCount, if_neg serial]
    obtain ⟨chain, r, ht, hr⟩ := endOfSequence_ends
      (s.setChan c { s.chan c with ii := s.nextIndex (s.chan c).ii (s.chan c).im, c := (s.chan c).c - 1 }) c
    rw [ht, chan_setChan, setChan_setChan]
    exact ⟨false, chain, r, rfl, fun h => absurd last h, fun _ => ⟨rfl, hr⟩⟩
  · next more => exact ⟨_, _, _, rfl, fun _ => ⟨rfl, rfl⟩, fun h => absurd h more⟩

theorem chanIrq_rx {c : Fin 10} (hc : c.val < 4) : 1#32 <<< chanIrq c = if c.val < 2 then 0x400 else 0x800 := by
  revert c
  decide

/-- A receive channel moves the oldest word of its buffer to a 32-bit word of memory. -/
theorem dmaXfer_rx {s : State} {c : Fin 10} (hc : c.val < 4) {b : Bool} {off : Nat}
    (hp : place 0 (s.dmaAddr (s.chan c).ii) = .normal b off) (narrow : s.imdw b = false) :
    let r := (s.iop.sport (chanPort c)).rx (chanB c)
    s.dmaXfer c = .ok (((s.setSport (chanPort c) ((s.iop.sport (chanPort c)).setRx (chanB c) { r with
      queue := r.queue.tail })).storeNormal false false b off (image32 (r.queue.headD (plainWord 0)).word)).dmaAdvance c) := by
  have serial : ¬8 ≤ c.val := by omega
  have hc' : c.val < 8 := by omega
  have imdw (x : Bool) (q : Sport) : (s.setSport x q).imdw b = false := by
    rw [← narrow]; cases x <;> rfl
  simp only [State.dmaXfer, State.dmaWidth, State.receives, State.popBuffer, State.ioWrite, State.storeNormal, hp, serial,
    hc, hc', narrow, imdw, decide_true, decide_false, Bool.false_and, Bool.false_eq_true, if_false, if_true, Bool.false_or]

/-- The control bits of a channel stay where its buffer changes. -/
theorem chen_setRx (s : State) (c : Fin 10) (x z : Bool) (q : List SportWord) :
    (s.setSport x ((s.iop.sport x).setRx z { (s.iop.sport x).rx z with queue := q })).chen c = s.chen c := by
  have kept (y w : Bool) (p : Sport)
      (hp : p = (s.setSport x ((s.iop.sport x).setRx z { (s.iop.sport x).rx z with queue := q })).iop.sport y) :
      p.rxChen w = (s.iop.sport y).rxChen w ∧ p.txChen w = (s.iop.sport y).txChen w := by
    subst hp
    cases x <;> cases y <;> cases z <;> exact ⟨rfl, rfl⟩
  have port (y : Bool) (p : Sport) : (s.setSport x p).iop.ep y = s.iop.ep y := by cases x <;> rfl
  obtain ⟨rx, tx⟩ := kept (chanPort c) (chanB c) _ rfl
  simp only [State.chen, rx, tx, port]

theorem nextIndex_eq (s : State) (ii : BitVec 17) (im : BitVec 16) : s.nextIndex ii im =
    if 0x8000 ≤ (s.dmaAddr ii).toNat ∧ (s.dmaAddr ii).toNat ≤ 0x9FFF ∧ 0x9FFF < ((s.dmaAddr ii).toNat : Int) + im.toInt then
      0x08000 - if s.env.dmaOffset then 0x8000 else 0
    else if 0xC000 ≤ (s.dmaAddr ii).toNat ∧ (s.dmaAddr ii).toNat ≤ 0xDFFF
        ∧ 0xDFFF < ((s.dmaAddr ii).toNat : Int) + im.toInt then
      0x0C000 - if s.env.dmaOffset then 0x8000 else 0
    else ii + im.signExtend 17 := by
  simp only [State.nextIndex, Bool.and_eq_true, decide_eq_true_eq, and_assoc]

end Sys2Proof.Machine

open Sys2Proof Sys2Proof.Machine

/-- Settles O60: the store is that of a 32-bit word (`storeNormal_at`), the rest is `dmaAdvance_serial`. -/
theorem serialReceiveDma : Obligations.SerialReceiveDma := by
  intro s c b off inv hc
  dsimp only
  intro hp narrow
  refine ⟨_, dmaXfer_rx hc hp narrow, ?_⟩
  generalize hq : ((s.iop.sport (chanPort c)).rx (chanB c)).queue = q
  generalize hx : s.setSport (chanPort c) ((s.iop.sport (chanPort c)).setRx (chanB c)
    { (s.iop.sport (chanPort c)).rx (chanB c) with queue := q.tail }) = x
  have xrest : x = { s with iop := x.iop } := by rw [← hx, ← setSport_frame]
  have xchan (e : Fin 10) : x.chan e = s.chan e := by rw [← hx, State.chan, setSport_iop_dma]; rfl
  have xchen : x.chen c = s.chen c := by rw [← hx]; exact chen_setRx ..
  have xqueue : ((x.iop.sport (chanPort c)).rx (chanB c)).queue = q.tail := by rw [← hx, sport_setSport, rx_setRx]
  have ximdw : x.imdw b = false := by rw [← narrow, ← hx]; unfold State.setSport; split <;> rfl
  have xinv : MemInv x := inv.of_eq (congrArg (·.mem) xrest) (congrArg (·.shadow) xrest)
  have stored := storeNormal_at xinv false false b off (image32 (q.headD (plainWord 0)).word)
  generalize x.storeNormal false false b off (image32 (q.headD (plainWord 0)).word) = y at stored
  have yrest : y = { x with mem := y.mem, shadow := y.shadow } := stored.rest
  have ychan (e : Fin 10) : y.chan e = s.chan e := by rw [← xchan, yrest]; rfl
  have ychen : y.chen c = s.chen c := by rw [← xchen, yrest]; rfl
  have yrequests : y.tr.requests = s.tr.requests := by rw [yrest, xrest]
  have yindex : y.nextIndex (s.chan c).ii (s.chan c).im = s.nextIndex (s.chan c).ii (s.chan c).im := by
    rw [yrest, xrest]; rfl
  obtain ⟨run, chain, r, ht, goesOn, ends⟩ := dmaAdvance_serial y (c := c) (by omega)
  rw [ychan] at ht goesOn ends
  rw [ychen, yrequests, chanIrq_rx hc] at ends
  rw [yrequests] at goesOn
  rw [yindex, nextIndex_eq] at ht
  rw [ht]
  refine ⟨?_, ?_, fun k hk => ?_, ?_, ?_⟩
  · rw [yrest, xrest]
    rfl
  · refine (stored.value ?_).trans ?_
    · simp [State.holds, State.wideAccess, ximdw]
    · simp only [State.storedForm, State.wideAccess, ximdw, Bool.false_or, Bool.false_eq_true, if_false]
      rw [image32, BitVec.extractLsb'_append_eq_left, ← hq]
      rfl
  · refine (stored.frame k ?_).trans (byteAt_congr (congrArg (·.mem) xrest) (congrArg (·.shadow) xrest) k)
    simpa only [State.storedKeys, State.wideAccess, ximdw, narrow] using hk
  · have kept (d : DmaChannel) : (y.setChan c d).iop.sport (chanPort c) = x.iop.sport (chanPort c) := by rw [yrest]; rfl
    exact (congrArg (fun p => (Sport.rx p (chanB c)).queue) (kept _)).trans (xqueue.trans (congrArg _ hq.symm))
  · have same (d : DmaChannel) (r : BitVec 32) : ({ y.setChan c d with tr.requests := r }).chan c = d := chan_setChan ..
    rw [same]
    refine ⟨rfl, rfl, rfl, rfl, fun e he => (chan_setChan_other _ _ he).trans (ychan e), goesOn, ends⟩

end

section
/-! What the invariants of memory, core and buffers speak of, and how the I/O processor and the surroundings change it
(61_dma_extport.md; 62_serial_ports.md). -/

namespace Sys2Proof.Machine

/-! ### The limits a state keeps to -/

/-- The words in an external port buffer, and its counted requests. -/
def ExtPort.depths (e : ExtPort) : Nat × Nat := (e.fifo.length, e.requests.length)

/-- The words in the buffers of a serial port. -/
def Sport.depths (p : Sport) : List Nat :=
  [p.txA.queue.length, p.txB.queue.length, p.rxA.queue.length, p.rxB.queue.length]

/-- The parts of a state that the three invariants speak of. -/
structure Limits where
  mem : List Host.Cell
  shadow : List ShadowEntry
  loops : Nat
  pairs : Nat
  imask : BitVec 32
  views : BitVec 32
  ep0 : Nat × Nat
  ep1 : Nat × Nat
  swf : Nat
  sport0 : List Nat
  sport1 : List Nat

def State.limits (s : State) : Limits where
  mem := s.mem
  shadow := s.shadow
  loops := s.stk.depth.toNat
  pairs := s.stk.status.length
  imask := s.sys.imask &&& 3
  views := s.sys.stky &&& 0x05600000
  ep0 := s.iop.ep0.depths
  ep1 := s.iop.ep1.depths
  swf := s.iop.hid.swf.length
  sport0 := s.iop.sport0.depths
  sport1 := s.iop.sport1.depths

/-- Memory in its canonical form. -/
def Limits.MemOk (a : Limits) : Prop :=
  Memory.wf a.mem = true ∧ (∀ e ∈ a.shadow, ∀ c ∈ e.cells, c.1 < 34816) ∧ a.shadow.length ≤ 2

/-- The registers of the core within their rules. -/
def Limits.CoreOk (a : Limits) : Prop := a.loops ≤ 6 ∧ a.pairs ≤ 5 ∧ a.imask = 3 ∧ a.views = 0

/-- The depths of an external port buffer. -/
def FitsPort (d : Nat × Nat) : Prop := d.1 ≤ 6 ∧ d.2 ≤ 6

/-- The depths of a serial port. -/
def FitsSerial (d : List Nat) : Prop := ∀ n ∈ d, n ≤ 2

/-- The buffers of the I/O processor within their depths. -/
def Limits.BufferOk (a : Limits) : Prop :=
  FitsPort a.ep0 ∧ FitsPort a.ep1 ∧ a.swf ≤ 4 ∧ FitsSerial a.sport0 ∧ FitsSerial a.sport1

theorem memInv_iff (s : State) : MemInv s ↔ s.limits.MemOk :=
  ⟨fun ⟨c, q, n⟩ => ⟨c, q, n⟩, fun ⟨c, q, n⟩ => ⟨c, q, n⟩⟩

theorem coreInv_iff (s : State) : CoreInv s ↔ s.limits.CoreOk ∧ s.tr = State.restTransient :=
  ⟨fun ⟨d, p, i, v, n⟩ => ⟨⟨d, p, i, v⟩, n⟩, fun ⟨⟨d, p, i, v⟩, n⟩ => ⟨d, p, i, v, n⟩⟩

theorem fitsSerial_iff (p : Sport) :
    FitsSerial p.depths ↔ ∀ z, (p.tx z).queue.length ≤ 2 ∧ (p.rx z).queue.length ≤ 2 := by
  simp only [FitsSerial, Sport.depths, List.mem_cons, List.not_mem_nil, or_false, forall_eq_or_imp, forall_eq,
    Bool.forall_bool, Sport.tx, Sport.rx, if_true, Bool.false_eq_true, if_false]
  tauto

theorem bufferInv_iff (s : State) : BufferInv s ↔ s.limits.BufferOk := by
  simp only [Limits.BufferOk, State.limits, fitsSerial_iff]
  constructor
  · intro ⟨fifo, requests, swf, tx, rx⟩
    exact ⟨⟨fifo false, requests false⟩, ⟨fifo true, requests true⟩, swf, fun z => ⟨tx false z, rx false z⟩,
      fun z => ⟨tx true z, rx true z⟩⟩
  · intro ⟨⟨f0, r0⟩, ⟨f1, r1⟩, swf, s0, s1⟩
    exact ⟨Bool.rec f0 f1, Bool.rec r0 r1, swf, Bool.rec (fun z => (s0 z).1) fun z => (s1 z).1,
      Bool.rec (fun z => (s0 z).2) fun z => (s1 z).2⟩

/-- Where the one is within the limits, so is the other. -/
def Limits.Keep (a b : Limits) : Prop :=
  (a.MemOk → b.MemOk) ∧ (a.CoreOk → b.CoreOk) ∧ (a.BufferOk → b.BufferOk)

@[simp] theorem Limits.Keep.refl (a : Limits) : a.Keep a := ⟨id, id, id⟩

theorem Limits.Keep.trans {a b c : Limits} (h : a.Keep b) (g : b.Keep c) : a.Keep c :=
  ⟨g.1 ∘ h.1, g.2.1 ∘ h.2.1, g.2.2 ∘ h.2.2⟩

/-- The operation keeps to the limits, if it completes. -/
abbrev Act.Keeps (s : State) (a : Act State) : Prop := a.Ends True fun t => s.limits.Keep t.limits

/-- The same for one that may not have happened. -/
abbrev Act.KeepsIf (s : State) (a : Act (Option State)) : Prop := a.Ends True fun o => ∀ t ∈ o, s.limits.Keep t.limits

theorem Act.Keeps.trans {s t : State} {a : Act State} (h : s.limits.Keep t.limits) (ha : a.Keeps t) : a.Keeps s :=
  Act.Ends.mono ha fun _ hu => h.trans hu

/-! ### Parts of the I/O processor -/

@[simp] theorem limits_setTimer (s : State) (x : Bool) (t : Timer) : (s.setTimer x t).limits = s.limits := by
  cases x <;> rfl
@[simp] theorem limits_setChan (s : State) (c : Fin 10) (d : DmaChannel) : (s.setChan c d).limits = s.limits := rfl
@[simp] theorem limits_request (s : State) (k : Nat) : (s.request k).limits = s.limits := rfl
@[simp] theorem limits_stopChan (s : State) (c : Fin 10) : (s.stopChan c).limits = s.limits := rfl
@[simp] theorem limits_extTouch (s : State) (px : Bool) : (s.extTouch px).limits = s.limits := rfl

/-- A buffer in which neither words nor requests change. -/
@[simp] theorem limits_setEp (s : State) (x : Bool) {e : ExtPort} (fifo : e.fifo = (s.iop.ep x).fifo)
    (requests : e.requests = (s.iop.ep x).requests) : (s.setEp x e).limits = s.limits := by
  have depths : e.depths = (s.iop.ep x).depths := by rw [ExtPort.depths, fifo, requests]; rfl
  cases x
  · show ({ s.limits with ep0 := e.depths } : Limits) = _
    rw [depths]; rfl
  · show ({ s.limits with ep1 := e.depths } : Limits) = _
    rw [depths]; rfl

theorem setEp_keep (s : State) (x : Bool) {e : ExtPort} (h : FitsPort (s.iop.ep x).depths → FitsPort e.depths) :
    s.limits.Keep (s.setEp x e).limits := by
  cases x
  · exact ⟨id, id, fun ⟨e0, rest⟩ => ⟨h e0, rest⟩⟩
  · exact ⟨id, id, fun ⟨e0, e1, rest⟩ => ⟨e0, h e1, rest⟩⟩

theorem setSport_keep (s : State) (x : Bool) {p : Sport} (h : FitsSerial (s.iop.sport x).depths → FitsSerial p.depths) :
    s.limits.Keep (s.setSport x p).limits := by
  cases x
  · exact ⟨id, id, fun ⟨e0, e1, swf, s0, s1⟩ => ⟨e0, e1, swf, h s0, s1⟩⟩
  · exact ⟨id, id, fun ⟨e0, e1, swf, s0, s1⟩ => ⟨e0, e1, swf, s0, h s1⟩⟩

/-- Bits of STKY other than the stack flags do not matter. -/
theorem views_of_masked {v w m : BitVec 32} (h : w &&& ~~~m = v &&& ~~~m) (hm : ~~~m &&& 0x05600000 = 0x05600000) :
    w &&& 0x05600000 = v &&& 0x05600000 := by
  rw [← hm, ← BitVec.and_assoc, ← BitVec.and_assoc, h]

theorem views_or (v : BitVec 32) {m : BitVec 32} (hm : m &&& 0x05600000 = 0#32) :
    (v ||| m) &&& 0x05600000 = v &&& 0x05600000 := by
  rw [BitVec.and_comm, BitVec.and_or_distrib_left, BitVec.and_comm _ m, hm, BitVec.or_zero, BitVec.and_comm]

/-- A timer event sets one of bits 15:12 of STKY. -/
@[simp] theorem limits_timerEvent (s : State) (x e : Bool) : (s.timerEvent x e).limits = s.limits := by
  have flag : ∀ x e : Bool, (1#32 <<< ((if x then 14 else 12) + if e then 1 else 0)) &&& 0x05600000 = 0#32 := by decide
  show ({ s.limits with views := (s.sys.stky ||| _) &&& 0x05600000 } : Limits) = _
  rw [views_or _ (flag x e)]
  rfl

/-! ### Memory -/

theorem queueWrite_keep (s : State) (wide : Bool) {cells : List (Nat × BitVec 16)} (h : ∀ c ∈ cells, c.1 < 34816) :
    s.limits.Keep (s.queueWrite wide cells).limits := by
  refine ⟨fun m => (memInv_iff _).mp (((memInv_iff s).mpr m).queueWrite wide cells h), ?_, ?_⟩ <;>
    rw [queueWrite_rest] <;> exact id

/-- Writes of bytes outside of the shadow write FIFO. -/
theorem writeMem_keep (s : State) {m : List Host.Cell} (h : Memory.wf s.mem = true → Memory.wf m = true) :
    s.limits.Keep ({ s with mem := m } : State).limits :=
  ⟨fun ⟨c, rest⟩ => ⟨h c, rest⟩, id, id⟩

theorem storeExt_keep (s : State) (a : Nat) (v : BitVec 32) : s.limits.Keep (s.storeExt a v).limits := by
  unfold State.storeExt
  split
  · exact writeMem_keep s fun h => wf_writeExt h a v
  · exact .refl _

end Sys2Proof.Machine
end

section
/-! The buffers of the I/O processor stay within their depths, whatever is written to them and read from them
(61_dma_extport.md R745, R757; 62_serial_ports.md R843 to R846). -/

namespace Sys2Proof.Machine

/-! ### External port buffers -/

/-- A FIFO with room takes a word, or what the packing makes of one. -/
theorem feed_fits {e : ExtPort} (k : Packing) (w : BitVec 32) (room : e.room = true) (h : FitsPort e.depths) :
    FitsPort (e.feed k w).depths := by
  obtain ⟨_, requests⟩ := h
  have word := feed_fifo_length e k w
  have room : e.fifo.length < 6 := of_decide_eq_true room
  exact ⟨by show (e.feed k w).fifo.length ≤ 6; omega, requests⟩

theorem next_fits {e e1 : ExtPort} {k : Packing} {w : BitVec 32} (h : e.next k = some (w, e1)) (fits : FitsPort e.depths) :
    FitsPort e1.depths ∧ e1.requests = e.requests := by
  obtain ⟨fifo, requests⟩ := fits
  unfold ExtPort.next at h
  cases hn : PackReg.next ⟨e.pack, e.ps⟩ k e.fifo with
  | none => simp [hn] at h
  | some r =>
    obtain ⟨v, p, f⟩ := r
    simp only [hn, Option.map_some] at h
    cases h
    exact ⟨⟨(packNext_length hn).trans fifo, requests⟩, rfl⟩

/-- The external side of a transfer takes a request, if it takes one at all. -/
theorem extAdvance_fits {e : ExtPort} (h : FitsPort e.depths) : FitsPort e.extAdvance.depths := by
  obtain ⟨fifo, requests⟩ := h
  refine ⟨fifo, ?_⟩
  show (if e.hshake then e.requests.tail else e.requests).length ≤ 6
  split
  · rw [List.length_tail]; exact (Nat.sub_le _ _).trans requests
  · exact requests

theorem requestsTail_fits {e f : ExtPort} (h : FitsPort f.depths) (he : FitsPort e.depths) :
    FitsPort ({ f with requests := e.requests.tail } : ExtPort).depths :=
  ⟨h.1, by show e.requests.tail.length ≤ 6; rw [List.length_tail]; exact (Nat.sub_le _ _).trans he.2⟩

theorem fitsPort_empty (n : ExtPort) : FitsPort n.flush.depths := ⟨Nat.zero_le _, Nat.zero_le _⟩

/-! ### Serial ports -/

section Serial

variable {p : Sport} {z : Bool} (h : FitsSerial p.depths)
include h

theorem tx_fits : (p.tx z).queue.length ≤ 2 := ((fitsSerial_iff p).mp h z).1

theorem rx_fits : (p.rx z).queue.length ≤ 2 := ((fitsSerial_iff p).mp h z).2

theorem setTx_fits {t : SportTx} (ht : t.queue.length ≤ 2) : FitsSerial (p.setTx z t).depths := by
  rw [fitsSerial_iff] at h ⊢
  cases z
  · exact Bool.rec ⟨ht, (h false).2⟩ (h true)
  · exact Bool.rec (h false) ⟨ht, (h true).2⟩

theorem setRx_fits {r : SportRx} (hr : r.queue.length ≤ 2) : FitsSerial (p.setRx z r).depths := by
  rw [fitsSerial_iff] at h ⊢
  cases z
  · exact Bool.rec ⟨(h false).1, hr⟩ (h true)
  · exact Bool.rec (h false) ⟨(h true).1, hr⟩

end Serial

theorem FitsSerial.ite {c : Prop} [Decidable c] {q r : Sport} (hq : FitsSerial q.depths) (hr : FitsSerial r.depths) :
    FitsSerial (if c then r else q).depths := by
  split
  · exact hr
  · exact hq

theorem queuePut_length {q : List SportWord} (h : q.length ≤ 2) (w : SportWord) : (queuePut q w).length ≤ 2 := by
  unfold queuePut
  split <;> simp <;> omega

section Serial

variable {p : Sport} (h : FitsSerial p.depths)
include h

theorem arrive_fits (z : Bool) (v : BitVec 32) : FitsSerial (p.arrive z v).depths := by
  have put (w : BitVec 32) := setRx_fits h (z := z) (r := { p.rx z with
    queue := queuePut (p.rx z).queue (plainWord w), half := none }) (queuePut_length (rx_fits h) _)
  unfold Sport.arrive
  dsimp only
  split
  · split
    · exact setRx_fits h (rx_fits h)
    · split <;> exact put _
  · split <;> exact put _

theorem depart_fits (z : Bool) : FitsSerial (p.depart z).2.depths := by
  have tail : (p.tx z).queue.tail.length ≤ 2 := by
    have := tx_fits h (z := z)
    rw [List.length_tail]; omega
  unfold Sport.depart
  dsimp only
  split
  · exact setTx_fits h (tx_fits h)
  · have sent (w v : BitVec 32) (half : Option (BitVec 16)) := setTx_fits h (z := z) (t := { p.tx z with
      queue := (p.tx z).queue.tail, last := w, sent := v, half := half }) tail
    exact .ite (sent _ _ _) (sent _ _ _)

theorem rxWord_fits (z : Bool) (v : BitVec 32) : FitsSerial (p.rxWord z v).depths := by
  unfold Sport.rxWord
  split
  · exact arrive_fits h z v
  · exact h

theorem sendOn_fits (z : Bool) : FitsSerial (p.sendOn z).depths := by
  unfold Sport.sendOn
  split
  · dsimp only
    split
    · exact arrive_fits (depart_fits h z) z _
    · exact depart_fits h z
  · exact h

theorem txFrame_fits : FitsSerial p.txFrame.depths := by
  unfold Sport.txFrame
  split
  · exact h
  · exact sendOn_fits (sendOn_fits h false) true

theorem frameStart_fits : FitsSerial p.frameStart.depths := by
  unfold Sport.frameStart
  split <;> exact h

theorem slot_fits (v : BitVec 32) : FitsSerial (p.slot v).depths := by
  unfold Sport.slot
  split
  · extract_lets k q r
    have sent : FitsSerial q.depths := .ite h (depart_fits h false)
    have received : FitsSerial r.depths := .ite sent (arrive_fits sent false v)
    exact received
  · exact h

end Serial

/-- Emptying the buffers of disabled channels. -/
theorem clearDisabled_fits {p : Sport} (old : Sport) (h : FitsSerial p.depths) : FitsSerial (p.clearDisabled old).depths := by
  have empty {q : Sport} (hq : FitsSerial q.depths) {a b c d : List SportWord} (ha : a = [] ∨ a = q.txA.queue)
      (hb : b = [] ∨ b = q.txB.queue) (hc : c = [] ∨ c = q.rxA.queue) (hd : d = [] ∨ d = q.rxB.queue) :
      FitsSerial [a.length, b.length, c.length, d.length] := by
    simp only [FitsSerial, Sport.depths, List.forall_mem_cons] at hq ⊢
    obtain ⟨ta, tb, ra, rb, -⟩ := hq
    have le {x y : List SportWord} (hy : y.length ≤ 2) (hx : x = [] ∨ x = y) : x.length ≤ 2 := by
      rcases hx with rfl | rfl
      · exact Nat.zero_le _
      · exact hy
    exact ⟨le ta ha, le tb hb, le ra hc, le rb hd, nofun⟩
  unfold Sport.clearDisabled
  extract_lets q0 x1 q1 x2 q2 x3 q3 x4
  have h1 : FitsSerial q1.depths := .ite h (empty h (.inl rfl) (.inr rfl) (.inr rfl) (.inr rfl))
  have h2 : FitsSerial q2.depths := .ite h1 (empty h1 (.inr rfl) (.inl rfl) (.inr rfl) (.inr rfl))
  have h3 : FitsSerial q3.depths := .ite h2 (empty h2 (.inr rfl) (.inr rfl) (.inl rfl) (.inr rfl))
  exact .ite h3 (empty h3 (.inr rfl) (.inr rfl) (.inr rfl) (.inl rfl))

theorem elapseSport_depths (p : Sport) : p.elapse.depths = p.depths := by
  simp [Sport.elapse, Sport.depths]

end Sys2Proof.Machine
end

section
/-! Accesses of the registers of the I/O processor, timers and DMA transfers keep to the limits (11_state_iop.md;
61_dma_extport.md R735 to R749; 60_exceptions.md R694 to R699). -/

namespace Sys2Proof.Machine

/-! ### Channels -/

@[simp] theorem limits_chanControl (s : State) (c : Fin 10) (den : Bool) : (s.chanControl c den).limits = s.limits := by
  simp only [State.chanControl]
  split_ifs <;> simp
@[simp] theorem limits_chainStart (s : State) (c : Fin 10) : (s.chainStart c).limits = s.limits := by
  simp only [State.chainStart]
  split_ifs <;> simp
@[simp] theorem limits_endOfSequence (s : State) (c : Fin 10) : (s.endOfSequence c).limits = s.limits := by
  simp only [State.endOfSequence]
  split_ifs <;> simp
@[simp] theorem limits_endOfCount (s : State) (c : Fin 10) : (s.endOfCount c).limits = s.limits := by
  simp only [State.endOfCount]
  split_ifs <;> simp
@[simp] theorem limits_setDmaParam (s : State) (c : Fin 10) (r : DmaParam) (v : BitVec 32) :
    (s.setDmaParam c r v).limits = s.limits := by
  cases r
  case im => simp only [State.setDmaParam]; split <;> simp
  all_goals simp [State.setDmaParam]
@[simp] theorem limits_chanControls (old : State) (cs : List (Fin 10)) (s : State) :
    (s.chanControls old cs).limits = s.limits := by
  induction cs generalizing s with
  | nil => rfl
  | cons c cs ih => rw [State.chanControls, ih, limits_chanControl]
@[simp] theorem limits_writeVirptOutside (s : State) (v : BitVec 32) : (s.writeVirptOutside v).limits = s.limits := by
  unfold State.writeVirptOutside; split <;> rfl

theorem flushChan_keep (s : State) (x : Bool) : s.limits.Keep (s.flushChan x).limits := by
  simp only [State.flushChan, limits_stopChan]
  split
  · exact setEp_keep s.flushHost x fun _ => fitsPort_empty _
  · exact setEp_keep s x fun _ => fitsPort_empty _

/-! ### Reads of registers -/

theorem readQueue_ends (s : State) (site : Nat) {q : List SportWord} (h : q.length ≤ 2) :
    (readQueue s site q).Ends True fun p => p.2.length ≤ 2 := by
  unfold readQueue
  cases q with
  | nil => dsimp only; split <;> simp
  | cons w q => exact (Nat.le_succ _).trans h

theorem readBuffer_keep (s : State) (x rx z : Bool) (site : Nat) :
    (s.readBuffer x rx z site).Ends True fun p => s.limits.Keep p.2.limits := by
  simp only [State.readBuffer]
  split <;> split
  · next e => exact setSport_keep s x fun h => setRx_fits h ((readQueue_ends s site (rx_fits h)).of_ok e)
  · next e h => cases e <;> trivial
  · next e => exact setSport_keep s x fun h => setTx_fits h ((readQueue_ends s site (tx_fits h)).of_ok e)
  · next e h => cases e <;> trivial

theorem readEpb_keep (s : State) (x px : Bool) (site : Nat) :
    (s.readEpb x px site).Ends True fun p => s.limits.Keep p.2.limits := by
  simp only [State.readEpb, Act.ends_ite, Act.ends_refuse, implies_true, true_and]
  intro _ _
  split
  · next w f hf =>
    refine setEp_keep s x fun ⟨fifo, requests⟩ => ⟨?_, requests⟩
    rw [ExtPort.depths, hf] at fifo
    exact (Nat.le_succ _).trans fifo
  · simp

theorem readReg_keep (s : State) (px : Bool) (r : BitVec 8) (site : Nat) :
    (s.readReg px r site).Ends True fun p => s.limits.Keep p.2.limits := by
  simp only [State.readReg]
  generalize iopRegAt r = g
  cases g
  case epb x => exact readEpb_keep s x px site
  case buffer x rx z =>
    dsimp only
    split
    · next v t h => exact (readBuffer_keep s x rx z site).of_ok h
    · next e h => exact (readBuffer_keep s x rx z site).error h
  all_goals exact .refl _

/-! ### Writes of registers -/

theorem writeQueue_ends (s : State) {q : List SportWord} (h : q.length ≤ 2) (w : SportWord) :
    (writeQueue s q w).Ends True fun p => p.length ≤ 2 := by
  simp [writeQueue, queuePut_length h w]

theorem writeBuffer_keep (s : State) (x rx z : Bool) (w : BitVec 32) : (s.writeBuffer x rx z w).Keeps s := by
  simp only [State.writeBuffer]
  split <;> split
  · next e => exact setSport_keep s x fun h => setRx_fits h ((writeQueue_ends s (rx_fits h) _).of_ok e)
  · next e h => cases e <;> trivial
  · next e => exact setSport_keep s x fun h => setTx_fits h ((writeQueue_ends s (tx_fits h) _).of_ok e)
  · next e h => cases e <;> trivial

/-- A buffer with room takes a word. -/
theorem append_keep (s : State) (x : Bool) (w : BitVec 48) (room : (s.iop.ep x).room = true) :
    s.limits.Keep (s.setEp x { s.iop.ep x with fifo := (s.iop.ep x).fifo ++ [w] }).limits := by
  refine setEp_keep s x fun ⟨_, requests⟩ => ⟨?_, requests⟩
  have : (s.iop.ep x).fifo.length < 6 := of_decide_eq_true room
  simpa [ExtPort.depths] using this

theorem writeEpb_keep (s : State) (x px : Bool) (w : BitVec 48) : (s.writeEpb x px w).Keeps s := by
  simp only [State.writeEpb, Act.ends_ite, Act.ends_refuse, Act.ends_ok, Act.ends_stall, implies_true, true_and, and_true]
  exact fun _ _ => ⟨append_keep s x _, fun _ _ => .refl _⟩

theorem writeSyscon_keep (s : State) (outside : Bool) (v : BitVec 32) : (s.writeSyscon outside v).Keeps s := by
  simp only [State.writeSyscon, Act.ends_ite, Act.ends_refuse, Act.ends_ok, implies_true, true_and]
  exact fun _ => .refl _

theorem writeDmac_keep (s : State) (x : Bool) (v : BitVec 16) : (s.writeDmac x v).Keeps s := by
  have control : ((s.setEp x ((s.iop.ep x).withDmac v)).chanControl (epChan x) (s.den (epChan x))).limits = s.limits := by
    simp [ExtPort.withDmac]
  simp only [State.writeDmac, Act.ends_ite, Act.ends_refuse, Act.ends_ok, implies_true, true_and]
  intro _ _ _
  split
  · exact control ▸ flushChan_keep _ x
  · rw [control]; exact .refl _

theorem writeTimer_keep (s : State) (x : Bool) (r : TimerReg) (v : BitVec 32) : (s.writeTimer x r v).Keeps s := by
  cases r <;> simp [State.writeTimer]

theorem sportControl_keep (s : State) (x : Bool) {p : Sport}
    (h : FitsSerial (s.iop.sport x).depths → FitsSerial p.depths) : (s.sportControl x p).Keeps s := by
  simp only [State.sportControl, Act.ends_ite, Act.ends_refuse, Act.ends_ok, implies_true, true_and, limits_chanControls]
  exact fun _ => setSport_keep s x fun hp => clearDisabled_fits _ (h hp)

theorem writeSport_keep (s : State) (x : Bool) (r : SportReg) (v : BitVec 32) : (s.writeSport x r v).Keeps s := by
  cases r
  case stctl => exact sportControl_keep s x id
  case srctl => exact sportControl_keep s x id
  all_goals exact setSport_keep s x id

theorem writeParam_keep (s : State) (c : Fin 10) (p : DmaParam) (v : BitVec 32) : (s.writeParam c p v).Keeps s := by
  cases p <;> simp [State.writeParam]

theorem writeReg_keep (s : State) (outside px : Bool) (r : BitVec 8) (w : BitVec 48) : (s.writeReg outside px r w).Keeps s := by
  simp only [State.writeReg]
  generalize iopRegAt r = g
  cases g
  case syscon => exact writeSyscon_keep ..
  case virpt =>
    cases outside
    · exact .refl _
    · simp
  case epb => exact writeEpb_keep ..
  case dmac => exact writeDmac_keep ..
  case timer => exact writeTimer_keep ..
  case dma => exact writeParam_keep ..
  case sport => exact writeSport_keep ..
  case buffer => exact writeBuffer_keep ..
  all_goals exact .refl _

/-! ### The timers -/

@[simp] theorem limits_tickWidth (s : State) (x : Bool) : (s.tickWidth x).limits = s.limits := by
  simp only [State.tickWidth]
  split_ifs <;> simp

theorem tick_keep (s : State) (x : Bool) : (s.tick x).Keeps s := by
  have pwm : (s.tickPwm x).Keeps s := by simp [State.tickPwm]
  simp [State.tick, pwm]

theorem ticks_keep (n : Nat) (s : State) : (s.ticks n).Keeps s := by
  induction n generalizing s with
  | zero => exact .refl _
  | succ n ih =>
    refine (tick_keep s false).bind fun t ht => (tick_keep t true).bind fun u hu => ?_
    exact (ih { u with free := u.free + 1 }).trans (ht.trans hu)

end Sys2Proof.Machine
end

section
/-! The actions of the I/O processor and the events from outside keep to the limits (61_dma_extport.md R735 to R749, sections
6 and 7). -/

namespace Sys2Proof.Machine

/-! ### Transfers on the internal bus (R736) -/

theorem narrowWrites_internal (b : Bool) {off : Nat} (h : off < 0x2000) (v : BitVec 32) :
    ∀ c ∈ narrowWrites b off v, c.1 < 34816 := by
  simp only [narrowWrites, List.mem_cons, List.not_mem_nil, or_false, forall_eq_or_imp, forall_eq]
  exact ⟨narrowCell_lt h (by decide), narrowCell_lt h (by decide)⟩

theorem wideWrites_internal (b : Bool) {off : Nat} (h : wideExists b off = true) (v : BitVec 48) :
    ∀ c ∈ wideWrites b off v, c.1 < 34816 := by
  simp only [wideWrites, List.mem_cons, List.not_mem_nil, or_false, forall_eq_or_imp, forall_eq]
  exact ⟨wideCell_lt h (by decide), wideCell_lt h (by decide), wideCell_lt h (by decide)⟩

theorem ioWrite_keep (s : State) {p : Place} (hp : p.bounded) (width : Nat) (w : BitVec 48) :
    s.limits.Keep (s.ioWrite p width w).limits := by
  unfold State.ioWrite
  split
  · next b off =>
    split
    · exact queueWrite_keep s false (narrowWrites_internal b hp _)
    split
    · exact .refl _
    · next missing =>
      have exist : wideExists b off = true := by simpa using missing
      split
      · exact queueWrite_keep s true (wideWrites_internal b exist _)
      · exact queueWrite_keep s true (wideWrites_internal b exist _)
  · exact .refl _

theorem popBuffer_keep (s : State) (c : Fin 10) : s.limits.Keep (s.popBuffer c).2.limits := by
  simp only [State.popBuffer]
  split
  · refine setSport_keep s _ fun h => setRx_fits h ?_
    have := rx_fits h (z := chanB c)
    rw [List.length_tail]; omega
  · refine setEp_keep s _ fun ⟨fifo, requests⟩ => ⟨?_, requests⟩
    show (s.iop.ep (chanB c)).fifo.tail.length ≤ 6
    rw [List.length_tail]
    exact (Nat.sub_le _ _).trans fifo

/-- A channel that asks for a word has room for it. -/
theorem pushBuffer_keep (s : State) {c : Fin 10} (sends : s.receives c = false) (ready : s.dmaReady c = true)
    (w : BitVec 48) : s.limits.Keep (s.pushBuffer c w).limits := by
  simp only [State.dmaReady, State.receives] at ready sends
  simp only [State.pushBuffer]
  by_cases hc : c.val < 8
  · rw [if_pos hc]
    have hc4 : ¬c.val < 4 := by simpa [hc] using sends
    simp only [hc4, hc, if_false, if_true] at ready
    have room : ((s.iop.sport (chanPort c)).tx (chanB c)).queue.length < 2 := by
      split at ready
      · cases ready
      · simpa using ready
    exact setSport_keep s _ fun h => setTx_fits h (by simpa using room)
  · rw [if_neg hc]
    have hc4 : ¬c.val < 4 := by omega
    have tran : (s.iop.ep (chanB c)).tran = true := by simpa [hc] using sends
    simp only [hc4, hc, if_false, tran, if_true] at ready
    refine append_keep s _ w ?_
    split at ready
    · cases ready
    · split at ready
      · cases ready
      · exact (Bool.and_eq_true_iff.mp ready).1

@[simp] theorem limits_dmaAdvance (s : State) (c : Fin 10) : (s.dmaAdvance c).limits = s.limits := by
  simp only [State.dmaAdvance]
  split_ifs <;> simp

theorem dmaXfer_keep (s : State) {c : Fin 10} (ready : s.dmaReady c = true) : (s.dmaXfer c).Keeps s := by
  simp only [State.dmaXfer, Act.ends_ite, Act.ends_refuse, Act.ends_ok, implies_true, true_and, limits_dmaAdvance,
    Bool.not_eq_true]
  exact fun _ => ⟨fun _ => (popBuffer_keep s c).trans (ioWrite_keep _ (place_bounded ..) _ _),
    fun sends => pushBuffer_keep s sends ready _⟩

@[simp] theorem limits_tcbLoad (s : State) (c : Fin 10) (k : Nat) : (s.tcbLoad c k).limits = s.limits := by
  simp only [State.tcbLoad]
  split
  · rfl
  · split
    · exact limits_setDmaParam ..
    · have armed (t : State) : (if c.val < 8 then t else t.setEp (chanB c)
          { t.iop.ep (chanB c) with extDone := false, intDone := false }).limits = t.limits := by
        split <;> simp
      exact (armed _).trans (limits_setDmaParam ..)

theorem firstReady_ready {s : State} {cs : List (Fin 10)} {c : Fin 10} (h : s.firstReady cs = some c) :
    s.dmaReady c = true := by
  induction cs with
  | nil => cases h
  | cons d ds ih =>
    rw [State.firstReady] at h
    split at h
    · next ready => cases h; exact ready
    · exact ih h

/-! ### The slave write FIFO (R757) -/

theorem feedEpb_keep {s t : State} {host x : Bool} {w : BitVec 48} (h : s.feedEpb host x w = some t) :
    s.limits.Keep t.limits := by
  simp only [State.feedEpb] at h
  split at h
  · next room =>
    split at h <;> cases h
    · exact append_keep s x w room
    · exact setEp_keep s x (feed_fits _ _ room)
  · split at h <;> cases h
    exact .refl _

theorem swfTail_keep {s : State} {e : Bool × BitVec 8 × BitVec 48} {rest : List (Bool × BitVec 8 × BitVec 48)}
    (h : s.iop.hid.swf = e :: rest) : s.limits.Keep ({ s with iop.hid.swf := rest } : State).limits := by
  refine ⟨id, id, fun ⟨e0, e1, swf, serial⟩ => ⟨e0, e1, ?_, serial⟩⟩
  rw [State.limits, h] at swf
  exact (Nat.le_succ _).trans swf

theorem swfDrain_keep (s : State) : s.swfDrain.KeepsIf s := by
  unfold State.swfDrain
  split
  · simp
  · next host r d rest hs =>
    dsimp only
    split
    · exact (outsideFlush_ends s _).mayWait.bind fun _ _ => fun t ht => (swfTail_keep hs).trans (feedEpb_keep ht)
    · have hw := writeReg_keep { s with iop.hid.swf := rest } true false r d
      split
      · next t ht => exact fun u hu => by cases hu; exact (swfTail_keep hs).trans (hw.of_ok ht)
      · simp
      · next hne _ => exact Act.ends_error hne

theorem swfPush_keep {s t : State} {host : Bool} {r : BitVec 8} {d : BitVec 48} (h : s.swfPush host r d = some t) :
    s.limits.Keep t.limits := by
  obtain ⟨room, rfl⟩ := swfPush_eq h
  refine ⟨id, id, fun ⟨e0, e1, _, serial⟩ => ⟨e0, e1, ?_, serial⟩⟩
  simpa [State.limits] using room

/-! ### Transfers on the external bus (R744, R747 to R749) -/

theorem extDmaWrite_keep (s : State) (boot : Bool) (a w : BitVec 32) :
    s.limits.Keep (s.extDmaWrite boot a w).limits := by
  unfold State.extDmaWrite
  split
  · exact writeMem_keep s fun h => wf_writeByte _ _ h
  split
  · exact storeExt_keep s _ _
  · exact .refl _

@[simp] theorem limits_extCounted (s : State) (x last : Bool) : (s.extCounted x last).limits = s.limits := by
  unfold State.extCounted; split_ifs <;> simp
@[simp] theorem limits_rotate (s : State) (c : Fin 10) : (s.rotate c).limits = s.limits := by
  unfold State.rotate; split_ifs <;> rfl

theorem iop_extDmaWrite (s : State) (boot : Bool) (a w : BitVec 32) : (s.extDmaWrite boot a w).iop = s.iop := by
  unfold State.extDmaWrite
  split_ifs <;> simp

theorem extDevice_keep (s : State) (x : Bool) : (s.extDevice x).Keeps s := by
  simp only [State.extDevice, Act.ends_ite, Act.ends_refuse, Act.ends_ok, implies_true, true_and, limits_extCounted]
  intro _
  split
  · exact setEp_keep { s with env.driven := s.extDmaRead (s.bootSpace x) (s.iop.ep x).ei } x extAdvance_fits
  · refine (extDmaWrite_keep s (s.bootSpace x) _ _).trans (setEp_keep _ x ?_)
    rw [iop_extDmaWrite]
    exact extAdvance_fits

/-- A buffer that receives words of the external bus, and asks for one, has room for it. -/
theorem extMaster_keep (s : State) (x : Bool) (room : (s.iop.ep x).tran = false → (s.iop.ep x).room = true) :
    (s.extMaster x).Keeps s := by
  simp only [State.extMaster, Act.ends_ite, Act.ends_refuse, Act.ends_ok, implies_true, true_and, Bool.not_eq_true]
  refine ⟨fun _ _ => ?_, fun receives => ?_⟩
  · split
    · exact .refl _
    · next w e1 hn =>
      rw [Act.ends_ok, limits_extCounted]
      refine (extDmaWrite_keep s (s.bootSpace x) _ _).trans (setEp_keep _ x fun h => extAdvance_fits ?_)
      rw [iop_extDmaWrite] at h
      exact (next_fits hn h).1
  · rw [limits_extCounted]
    exact setEp_keep s x fun h => extAdvance_fits (feed_fits _ _ (room receives) h)

theorem extGrant_keep (s : State) (x : Bool) (room : (s.iop.ep x).tran = false → (s.iop.ep x).room = true) :
    (s.extGrant x).Keeps s := by
  simp only [State.extGrant, Act.ends_ite, Act.ends_refuse, Act.ends_ok, implies_true, true_and, Bool.not_eq_true]
  refine ⟨fun _ _ => ?_, fun receives => ?_⟩
  · split
    · exact .refl _
    · next w e1 hn =>
      exact setEp_keep s x fun h => requestsTail_fits (next_fits hn h).1 h
  · exact setEp_keep s x fun h => requestsTail_fits (feed_fits _ _ (room receives) h) h

/-- Outside of the external handshake mode a buffer asks to receive a word only with room for it. -/
theorem room_of_extWants {s : State} {x : Bool} (h : s.extWants x = true) (ext : (s.iop.ep x).extern = false)
    (receives : (s.iop.ep x).tran = false) : (s.iop.ep x).room = true := by
  simp only [State.extWants, ext, receives, Bool.false_eq_true, if_false] at h
  split at h
  · simp only [Bool.and_eq_true] at h; exact h.2
  split at h
  · simp only [Bool.and_eq_true] at h; exact h.2
  · cases h

theorem extXfer_keep (s : State) {x : Bool} (wants : s.extWants x = true) : (s.extXfer x).Keeps s := by
  have counted {a : Act State} (h : a.Keeps s) : (a >>= fun t => .ok { t.extCount 1 with iop.hid.dmaHeld := false }).Keeps s :=
    h.bind fun t ht => ht
  unfold State.extXfer
  dsimp only
  split
  · exact counted (extDevice_keep s x)
  · next ext =>
    have room := room_of_extWants wants (Bool.not_eq_true _ ▸ ext)
    split
    · exact counted (extMaster_keep s x room)
    · exact counted (extGrant_keep s x room)

/-! ### One action (R735) -/

theorem busAction_keep (s : State) : s.busAction.KeepsIf s := by
  unfold State.busAction
  split
  · simp
  split
  · next ready => exact (dmaXfer_keep s (firstReady_ready ready)).bind fun t ht => by simpa using ht
  split
  · simp
  refine (swfDrain_keep s).bind fun o ho => ?_
  split
  · exact ho
  split
  · next ready => exact (dmaXfer_keep s (firstReady_ready ready)).bind fun t ht => by simpa using ht
  · simp

theorem extAction_keep (s : State) : s.extAction.KeepsIf s := by
  simp only [State.extAction, Act.ends_ite, Act.ends_ok]
  refine ⟨fun _ => by simp, fun wants => ⟨fun _ => ?_, fun _ => ⟨fun _ => ?_, fun _ => ?_⟩⟩⟩
  · exact fun t ht => by cases ht; exact .refl _
  · exact fun t ht => by cases ht; exact .refl _
  · exact (extXfer_keep s (by simpa using wants)).bind fun t ht => by simpa using ht

theorem getD_keep {s : State} {o : Option State} (h : ∀ t ∈ o, s.limits.Keep t.limits) :
    s.limits.Keep (o.getD s).limits := by
  cases o with
  | none => exact .refl _
  | some t => exact h t rfl

theorem actions_keep (n : Nat) (s : State) : (s.actions n).Keeps s := by
  induction n generalizing s with
  | zero => exact .refl _
  | succ n ih =>
    simp only [State.actions, Act.ends_ite, Act.ends_refuse, implies_true, true_and]
    intro _
    refine (busAction_keep s).bind fun o ho => (extAction_keep _).bind fun p hp => ?_
    exact (ih { p.getD (o.getD s) with free := _ }).trans ((getD_keep ho).trans (getD_keep hp))

end Sys2Proof.Machine
end

section
/-! Events from outside, and what goes on by itself, keep to the limits (61_dma_extport.md sections 6 and 7). -/

namespace Sys2Proof.Machine

/-! ### Accesses from outside -/

@[simp] theorem limits_hostPart (s : State) (r : BitVec 8) (w : Bool) (es : List (BitVec 32)) :
    (s.hostPart r w es).limits = s.limits := rfl
@[simp] theorem limits_hbwAfterRead (s : State) : s.hbwAfterRead.limits = s.limits := by
  unfold State.hbwAfterRead; split <;> rfl
@[simp] theorem limits_flushReadBack (s : State) (r : BitVec 8) : (s.flushReadBack r).limits = s.limits := by
  unfold State.flushReadBack; split <;> rfl
@[simp] theorem limits_busRequest (s : State) (core : Bool) : (s.busRequest core).limits = s.limits := by
  unfold State.busRequest; split <;> rfl
@[simp] theorem limits_busWithdraw (s : State) : s.busWithdraw.limits = s.limits := rfl
@[simp] theorem limits_busSync (s : State) (m : BitVec 2) : (s.busSync m).limits = s.limits := by
  simp only [State.busSync]; split_ifs <;> rfl
@[simp] theorem limits_arbitrate (s : State) : s.arbitrate.limits = s.limits := by
  unfold State.arbitrate; split_ifs <;> rfl

theorem deviceWord_keep (s : State) (a d : BitVec 32) : s.limits.Keep (s.deviceWord a d).limits := by
  unfold State.deviceWord
  split
  · exact writeMem_keep s fun h => wf_writeExt h _ _
  · exact .refl _

theorem procWrite_keep {s t : State} {r : BitVec 8} {d : BitVec 32} (h : s.procWrite r d = some t) :
    s.limits.Keep t.limits := by
  unfold State.procWrite at h
  split_ifs at h
  · cases h; exact .refl _
  · exact swfPush_keep h

theorem driveEpb_keep {s t : State} {x : Bool} {k : Packing} (h : s.driveEpb x k = some t) :
    s.limits.Keep t.limits := by
  unfold State.driveEpb at h
  split at h
  · next v e hn => cases h; exact setEp_keep s x fun fits => (next_fits hn fits).1
  · split at h <;> cases h
    exact .refl _

theorem driveReg_keep (s : State) (r : BitVec 8) : (s.driveReg r).KeepsIf s := by
  have hr := readReg_keep s false r 24
  unfold State.driveReg
  split
  · next w t h => exact fun u hu => by cases hu; exact hr.of_ok h
  · simp
  · next hne _ => exact Act.ends_error hne

theorem procRead_keep (s : State) (r : BitVec 8) : (s.procRead r).KeepsIf s := by
  unfold State.procRead
  split_ifs
  · simp
  · simp
  · split
    · exact (outsideFlush_ends s _).mayWait.bind fun _ _ => fun t ht => driveEpb_keep ht
    · exact driveReg_keep s r

theorem hostToEpb_keep {s t : State} {r : BitVec 8} {k : Packing} {d : BitVec 32} (h : s.hostToEpb r k d = some t) :
    s.limits.Keep t.limits := by
  simp only [State.hostToEpb] at h
  split at h
  · cases h; exact .refl _
  · simpa using swfPush_keep h

theorem hostFromEpb_keep {s t : State} {r : BitVec 8} {x : Bool} {k : Packing} (h : s.hostFromEpb r x k = some t) :
    s.limits.Keep t.limits := by
  simp only [State.hostFromEpb] at h
  split at h
  · cases h
  · next v p f hn =>
    cases h
    refine setEp_keep s x fun ⟨fifo, requests⟩ => ⟨?_, requests⟩
    have left := packNext_length hn
    show (if (s.iop.ep x).fifo.isEmpty then [] else f).length ≤ 6
    split
    · exact Nat.zero_le _
    · next wet =>
      rw [Bool.not_eq_true] at wet
      rw [wet, Bool.false_and, if_neg Bool.false_ne_true] at left
      exact left.trans fifo

theorem hostWrite_keep (s : State) (r : BitVec 8) (d : BitVec 32) : (s.hostWrite r d).KeepsIf s := by
  rw [State.hostWrite, Act.KeepsIf, ← limits_flushReadBack s r]
  generalize s.flushReadBack r = s
  have hg := (hostGate_ends s r true).mayWait (waits := True)
  dsimp only
  split
  · next e h => exact hg.error h
  · simp
  split
  · exact (outsideFlush_ends s _).mayWait.bind fun _ _ => (hostPacking_ends s _).mayWait.bind fun k _ =>
      fun t ht => hostToEpb_keep ht
  · split
    · simp
    · split
      · trivial
      · next g _ => exact fun t ht => swfPush_keep (s := { s with iop.hid.hbw := g }.hostPart r true []) ht

theorem hostRead_keep (s : State) (r : BitVec 8) : (s.hostRead r).KeepsIf s := by
  have hg := (hostGate_ends s r false).mayWait (waits := True)
  unfold State.hostRead
  split
  · next e h => exact hg.error h
  · simp
  split
  · simp
  split
  · exact (outsideFlush_ends s _).mayWait.bind fun _ _ => (hostPacking_ends s _).mayWait.bind fun k _ =>
      fun t ht => hostFromEpb_keep ht
  · dsimp only
    split
    · exact fun t ht => by cases ht; simp only [limits_hbwAfterRead]; exact .refl _
    · refine (driveReg_keep s r).bind fun o ho => ?_
      split
      · simp
      · next t => exact fun u hu => by cases hu; simp only [limits_hbwAfterRead]; exact ho t rfl

/-! ### The external bus and devices -/

theorem hostBus_keep (s : State) (on : Bool) : (s.hostBus on).KeepsIf s := by
  have granted (b : Bool) : ∀ t ∈ some ({ s with iop.sys.hstm := b } : State), s.limits.Keep t.limits := by
    rintro t ⟨⟩
    exact .refl _
  unfold State.hostBus
  dsimp only
  split
  · split
    · simp
    split
    · simp
    · exact granted true
  · split
    · simp
    · exact granted false

theorem busRelease_keep {s t : State} (h : s.busRelease = some t) : s.limits.Keep t.limits := by
  unfold State.busRelease at h
  split_ifs at h <;> cases h <;> exact .refl _

theorem dmaRequest_keep (s : State) (x : Bool) (d : BitVec 32) : (s.dmaRequest x d).Keeps s := by
  simp only [State.dmaRequest, Act.ends_ite, Act.ends_refuse, Act.ends_ok, implies_true, and_true]
  exact ⟨fun _ => .refl _, fun _ room => setEp_keep s x fun ⟨fifo, _⟩ => ⟨fifo, by simpa [ExtPort.depths] using room⟩⟩

theorem extStore_keep {s t : State} {a d : BitVec 32} (h : s.extStore a d = some t) : s.limits.Keep t.limits := by
  unfold State.extStore at h
  split_ifs at h <;> cases h
  · exact storeExt_keep s _ _
  · exact .refl _

theorem event_keep (s : State) (e : ExtEvent) : (s.event e).KeepsIf s := by
  have serial {x : Bool} {p : Sport} (h : FitsSerial (s.iop.sport x).depths → FitsSerial p.depths) :
      ∀ t ∈ some (s.setSport x p), s.limits.Keep t.limits := by
    rintro t ⟨⟩
    exact setSport_keep s x h
  have same {t : State} (h : t.limits = s.limits) : ∀ u ∈ some t, s.limits.Keep u.limits := by
    rintro u ⟨⟩
    rw [h]
    exact .refl _
  simp only [State.event, Act.ends_ite, Act.ends_refuse, implies_true, true_and]
  intro _
  cases e with
  | procWrite r d => exact fun t ht => procWrite_keep ht
  | procRead r => exact procRead_keep s r
  | hostWrite r d => exact hostWrite_keep s r d
  | hostRead r => exact hostRead_keep s r
  | hostBus on => exact hostBus_keep s on
  | busRelease => exact fun t ht => busRelease_keep ht
  | dmaRequest x d => exact (dmaRequest_keep s x d).bind fun t ht => fun u hu => by cases hu; exact ht
  | rxWord x z v => exact serial fun h => rxWord_fits h z v
  | txFrame x => exact serial txFrame_fits
  | frameStart x => exact serial frameStart_fits
  | slot x v =>
    simp only [Act.ends_ite, Act.ends_refuse, implies_true, true_and]
    exact fun _ => serial fun h => slot_fits h v
  | extStore a d => exact fun t ht => extStore_keep ht
  | deviceWord a d => exact fun t ht => by cases ht; exact deviceWord_keep s a d
  | busRequest core => exact same (limits_busRequest s core)
  | busWithdraw => exact same (limits_busWithdraw s)
  | busSync m => exact same (limits_busSync s m)
  | pins | reset | sbts | ack => exact same rfl
  | sdramOn => exact same (by split <;> rfl)

theorem eventsFrom_keep (es held : List ExtEvent) (s : State) : (s.eventsFrom held es).Keeps s := by
  induction es generalizing held s with
  | nil => exact .refl _
  | cons e es ih =>
    rw [State.eventsFrom]
    split
    · exact ih _ _
    · refine (event_keep s e).bind fun o ho => ?_
      split
      · exact ih _ _
      · next t => exact (ih held { t with free := t.free + 1 }).trans (ho t rfl)

/-! ### Beside a step -/

theorem others_keep (s : State) : s.others.Keeps s :=
  (actions_keep _ s).bind fun t ht => (eventsFrom_keep _ _ t).trans ht

theorem ahead_keep (s : State) : s.ahead.Keeps s := by
  unfold State.ahead
  split
  · exact others_keep s
  · exact .refl _

/-- The pins are sampled into ASTAT and IOSTAT, where no limits are. -/
theorem beside_keep (s : State) (longer : Bool) : (s.beside longer).Keeps s := by
  have sampled {t : State} (ht : s.limits.Keep t.limits) : Act.Keeps s
      (if t.pipe.mode = .idle16 && t.handsOver then refuse .idle16Activity
        else .ok { t with env.script := t.env.script.tail }.arbitrate.sample) := by
    have same : { t with env.script := t.env.script.tail }.arbitrate.sample.limits = t.limits :=
      limits_arbitrate { t with env.script := t.env.script.tail }
    simp only [Act.ends_ite, Act.ends_refuse, Act.ends_ok, implies_true, true_and, same]
    exact fun _ => ht
  refine (ticks_keep _ s).bind fun t ht => ?_
  dsimp only
  split
  · exact sampled ht
  · exact (others_keep t).bind fun u hu => sampled (ht.trans hu)

@[simp] theorem limits_elapse (s : State) : s.elapse.limits = s.limits := by
  have flushed (t : State) (ht : t.limits = s.limits) : ({ t with
      iop.ep0 := t.iop.ep0.elapse, iop.ep1 := t.iop.ep1.elapse, iop.sport0 := t.iop.sport0.elapse
      iop.sport1 := t.iop.sport1.elapse, iop.hid.hostFlush := s.iop.hid.hostFlush >>> 1
      iop.hid.hbw := s.iop.hid.hbw.elapse } : State).limits = s.limits := by
    rw [← ht]
    show ({ t.limits with sport0 := t.iop.sport0.elapse.depths, sport1 := t.iop.sport1.elapse.depths } : Limits) = _
    rw [elapseSport_depths, elapseSport_depths]
    rfl
  unfold State.elapse
  refine flushed _ ?_
  split <;> rfl

end Sys2Proof.Machine
end

section
/-! Every instruction keeps to the limits of memory, stacks and buffers (10_state.md sections 6 and 7; 20_memory.md). -/

namespace Sys2Proof.Machine

/-! ### The registers of the core -/

/-- Where waiting is allowed an operation that does not complete has nothing to show. -/
theorem ends_of_error {α : Type} {P : α → Prop} (e : Stop) : Act.Ends True P (.error e) := by
  cases e <;> trivial

@[simp] theorem limits_setRreg (s : State) (n : BitVec 4) (v : BitVec 40) : (s.setRreg n v).limits = s.limits := by
  simp [State.limits]
@[simp] theorem limits_setDagReg (s : State) (f : DagFile) (g : Bool) (k : BitVec 3) (v : BitVec 32) :
    (s.setDagReg f g k v).limits = s.limits := by
  simp [State.limits]
@[simp] theorem limits_setBtf (s : State) (b : Bool) : (s.setBtf b).limits = s.limits := rfl
@[simp] theorem limits_noteCond (s : State) (c : BitVec 5) : (s.noteCond c).limits = s.limits := by
  unfold State.noteCond; split <;> rfl
@[simp] theorem limits_branchTo (s : State) (d : Bool) (a : BitVec 24) : (s.branchTo d a).limits = s.limits := rfl
@[simp] theorem limits_setLrf (s : State) (a : BitVec 24) : (s.setLrf a).limits = s.limits := rfl
@[simp] theorem limits_flush (s : State) : s.flush.limits = s.limits := rfl
@[simp] theorem limits_pushPc (s : State) (a : BitVec 24) : (s.pushPc a).limits = s.limits := by
  simp [State.limits]
@[simp] theorem limits_seekBus (s : State) (a : BitVec 32) : (s.seekBus a).limits = s.limits := by
  unfold State.seekBus; split <;> rfl
@[simp] theorem limits_setCacheSet (s : State) (a : BitVec 24) (c : CacheSet) : (s.setCacheSet a c).limits = s.limits := rfl

/-- A computation changes no flag of STKY that is a view. -/
theorem limits_of_frame {s t : State} {rs : List (BitVec 4)} {as : List Bool} {am sm : BitVec 32}
    (h : ComputeFrame s t rs as am sm) (views : ~~~sm &&& 0x05600000 = 0x05600000) : t.limits = s.limits := by
  rw [h.rest]
  show ({ s.limits with views := t.sys.stky &&& 0x05600000 } : Limits) = _
  rw [views_of_masked h.stky views]
  rfl

theorem stkyMask_views (c : Compute) : ~~~c.stkyMask &&& 0x05600000 = 0x05600000 := by
  have alu : ∀ op : AluOp, ~~~op.stkyMask &&& 0x05600000 = 0x05600000 := by intro op; cases op <;> decide
  have flt : ∀ op : FltOp, ~~~op.stkyMask &&& 0x05600000 = 0x05600000 := by intro op; cases op <;> decide
  have mul : ∀ op : MulOp, ~~~op.stkyMask &&& 0x05600000 = 0x05600000 := by
    intro op
    unfold MulOp.stkyMask
    split <;> decide
  have both {a b : BitVec 32} (ha : ~~~a &&& 0x05600000#32 = 0x05600000#32) (hb : ~~~b &&& 0x05600000#32 = 0x05600000#32) :
      ~~~(a ||| b) &&& 0x05600000#32 = 0x05600000#32 := by
    rw [BitVec.not_or, BitVec.and_assoc, hb, ha]
  cases c with
  | alu op => exact alu op
  | flt op => exact flt op
  | mul op => exact mul op
  | mulAlu mop aop => exact both (mul _) (alu _)
  | mulFlt aop => exact both (by decide) (flt _)
  | none | shift | mrRead | mrWrite => exact (by decide : ~~~0#32 &&& 0x05600000 = 0x05600000)
  | dualAlu => exact (by decide : ~~~0x00000004#32 &&& 0x05600000 = 0x05600000)
  | dualFlt => exact (by decide : ~~~0x00000023#32 &&& 0x05600000 = 0x05600000)
  | mulDualAlu => exact (by decide : ~~~0x00000044#32 &&& 0x05600000 = 0x05600000)
  | mulDualFlt => exact (by decide : ~~~0x000003A3#32 &&& 0x05600000 = 0x05600000)

@[simp] theorem limits_compute (s : State) (c : Compute) : (s.compute c).limits = s.limits :=
  limits_of_frame (compute_frame s c) (stkyMask_views c)

@[simp] theorem limits_shiftImm (s : State) (op : ShiftImmOp) (dx : BitVec 4) (data : BitVec 8) (rn rx : BitVec 4) :
    (s.shiftImm op dx data rn rx).limits = s.limits :=
  limits_of_frame (applyShift_frame s rn _) (by decide)

@[simp] theorem limits_postmodify (s : State) (g : Bool) (k : BitVec 3) (m : BitVec 32) :
    (s.postmodify g k m).limits = s.limits := by
  have frame := (postmodify_updated s g k m).frame
  rw [frame.rest]
  show ({ s.limits with views := (s.postmodify g k m).sys.stky &&& 0x05600000 } : Limits) = _
  rw [views_of_masked frame.stky (by decide)]
  rfl

theorem or_and_self (v m : BitVec 32) : (v ||| m) &&& m = m := by
  ext i hi
  simp only [BitVec.getElem_and, BitVec.getElem_or]
  cases m[i] <;> simp

/-- What a merge takes from the other word. -/
theorem merge_and (v x m : BitVec 32) : ((v &&& ~~~m) ||| (x &&& m)) &&& m = x &&& m := by
  ext i hi
  simp only [BitVec.getElem_and, BitVec.getElem_or, BitVec.getElem_not]
  cases m[i] <;> simp

/-- A write of a system register keeps the stack flags of STKY and bits 0 and 1 of IMASK. -/
theorem sregWrite_keep (s : State) (r : Sreg) (v : BitVec 32) : (s.sregWrite r v).Ends True fun t => s.limits.Keep t.limits := by
  cases r with
  | irptl =>
    simp only [State.sregWrite, Act.ends_ite, Act.ends_ok]
    exact ⟨fun _ => ends_of_error _, fun _ => .refl _⟩
  | imask =>
    refine ⟨id, fun ⟨loops, pairs, _, views⟩ => ⟨loops, pairs, ?_, views⟩, id⟩
    exact or_and_self v 3
  | stky =>
    have views : ((v &&& ~~~0x07E00000#32) ||| (s.sys.stky &&& 0x07E00000#32)) &&& 0x05600000 = s.sys.stky &&& 0x05600000 := by
      rw [show (0x05600000 : BitVec 32) = 0x07E00000#32 &&& 0x05600000 by decide, ← BitVec.and_assoc, ← BitVec.and_assoc,
        merge_and]
    exact ⟨id, fun ⟨loops, pairs, imask, old⟩ => ⟨loops, pairs, imask, views.trans old⟩, id⟩
  | _ => exact .refl _

theorem uregWrite_keep (s : State) (fromMem : Bool) (u : Ureg) (d : BitVec 40) : (s.uregWrite fromMem u d).Keeps s := by
  have same {t : State} (h : t.limits = s.limits) : s.limits.Keep t.limits := h ▸ .refl _
  cases u with
  | r n => exact same (limits_setRreg ..)
  | i n | m n | l n => exact same (limits_setDagReg ..)
  | b n => exact same ((limits_setDagReg ..).trans (limits_setDagReg ..))
  | pcstk => refine same ?_; dsimp only; split <;> rfl
  | pcstkp => refine same ?_; dsimp only; split <;> rfl
  | laddr => refine same ?_; dsimp only; split <;> rfl
  | curlcntr =>
    simp only [State.uregWrite, State.writeCurlcntr, Act.ends_ite, Act.ends_refuse, Act.ends_ok, implies_true, true_and]
    exact ⟨fun _ => .refl _, fun _ _ => same rfl⟩
  | ustat1 | ustat2 | irptl | mode2 | mode1 | astat | imask | stky | imaskp =>
    simp only [State.uregWrite]
    exact sregWrite_keep ..
  | faddr | daddr | pc | lcntr | px | px1 | px2 => exact .refl _

/-! ### Accesses of memory -/

theorem storeExtWide_keep (s : State) (a : Nat) (w : BitVec 48) : s.limits.Keep (s.storeExtWide a w).limits := by
  unfold State.storeExtWide
  split
  · exact writeMem_keep s fun h => wf_writeExtWide h a w
  · exact .refl _

theorem storeNormal_keep (s : State) (g px b : Bool) {off : Nat} (ho : off < 0x2000) (w : BitVec 48) :
    s.limits.Keep (s.storeNormal g px b off w).limits := by
  unfold State.storeNormal
  split
  · split
    · next wide => exact queueWrite_keep s true (wideWrites_internal b wide _)
    · exact .refl _
  · exact queueWrite_keep s false (narrowWrites_internal b ho _)

theorem load_keep (s : State) (g : Bool) (u : Ureg) (a : BitVec 32) (site : Nat) :
    (s.load g u a site).Ends True fun p => s.limits.Keep p.2.limits := by
  unfold State.load
  cases place s.env.id a with
  | iop r =>
    dsimp only
    split
    · next h =>
      have read := (readReg_keep s _ r site).of_ok h
      exact read
    · next h => exact (readReg_keep s _ r site).error h
  | remote | ext n =>
    simp only [Act.ends_ite, Act.ends_ok]
    exact ⟨fun _ => .refl _, fun _ => ends_of_error _⟩
  | _ => exact .refl _

theorem store_keep (s : State) (g px : Bool) (a : BitVec 32) (w : BitVec 48) : (s.store g px a w).Keeps s := by
  unfold State.store
  cases hp : place s.env.id a with
  | iop r => exact writeReg_keep ..
  | remote =>
    simp only [Act.ends_ite, Act.ends_ok]
    exact ⟨fun _ => .refl _, fun _ => ends_of_error _⟩
  | reserved => exact .refl _
  | normal b off => exact storeNormal_keep s g px b (place_normal_lt hp) w
  | short c =>
    refine queueWrite_keep s false fun d hd => ?_
    obtain rfl := List.mem_singleton.mp hd
    exact place_short_lt hp
  | ext n =>
    dsimp only
    split
    · show s.limits.Keep (State.limits (State.extTouch _ _))
      rw [limits_extTouch]
      split
      · exact storeExtWide_keep s n w
      · exact storeExt_keep s n _
    · trivial

theorem access_keep (s : State) (g d : Bool) (u : Ureg) (a : BitVec 32) (site : Nat) :
    (s.access g d u a site).Ends True fun p => s.limits.Keep p.2.limits := by
  unfold State.access
  split
  · split
    · exact ends_of_error _
    · split
      · next h => exact (store_keep s g _ a _).of_ok h
      · next h => exact (store_keep s g _ a _).error h
  · split
    · next h => exact (load_keep s g u a site).of_ok h
    · next h => exact (load_keep s g u a site).error h

theorem settle_keep (s : State) (u : Ureg) (v : Option (BitVec 48)) : (s.settle u v).Keeps s := by
  cases v with
  | none => exact .refl _
  | some w =>
    simp only [State.settle, State.loadWrite, Act.ends_ite, Act.ends_ok]
    exact ⟨fun _ => .refl _, fun _ => uregWrite_keep ..⟩

theorem transfer_keep (s : State) (g d : Bool) (u : Ureg) (a : BitVec 32) {c upd : State → State}
    (hc : ∀ t, (c t).limits = t.limits) (hu : ∀ t, (upd t).limits = t.limits) : (s.transfer g d u a c upd).Keeps s := by
  unfold State.transfer
  split
  · next h => exact (access_keep s g d u a 1).error h
  · next v t h =>
    have accessed := (access_keep s g d u a 1).of_ok h
    split
    · next h => exact (settle_keep (c t) u v).error h
    · next w h =>
      have settled := (settle_keep (c t) u v).of_ok h
      rw [hc] at settled
      show s.limits.Keep (upd w).limits
      rw [hu]
      exact accessed.trans settled

theorem indexed_keep (s : State) (b g d : Bool) (u : Ureg) (i : BitVec 3) (mv : BitVec 32) {c : State → State}
    (hc : ∀ t, (c t).limits = t.limits) : (s.indexed b g d u i mv c).Keeps s :=
  transfer_keep s g d u _ hc fun t => by split <;> simp

theorem dualMove_keep (s : State) (dmd : Bool) (dmi dmm : BitVec 3) (pmd : Bool) (dmDreg : BitVec 4) (pmi pmm : BitVec 3)
    (pmDreg : BitVec 4) (c : Compute) : (s.dualMove dmd dmi dmm pmd dmDreg pmi pmm pmDreg c).Keeps s := by
  refine (access_keep ..).bind fun p hp => (access_keep ..).bind fun q hq =>
    (settle_keep ..).bind fun x hx => (settle_keep ..).bind fun y hy => ?_
  rw [limits_compute] at hx
  simp only [Act.ends_ok, limits_postmodify]
  exact hp.trans (hq.trans (hx.trans hy))

end Sys2Proof.Machine
end

section
/-! Every instruction keeps to the limits: the sequencer's stacks, then the dispatch (41_program_flow.md; 43_misc.md). -/

namespace Sys2Proof.Machine

/-! ### The stacks (10_state.md R40 to R45) -/

/-- The loop stacks change their depth. -/
theorem loops_keep {s t : State} (h : t.limits = { s.limits with loops := t.stk.depth.toNat })
    (depth : s.stk.depth.toNat ≤ 6 → t.stk.depth.toNat ≤ 6) : s.limits.Keep t.limits := by
  rw [h]
  exact ⟨id, fun ⟨loops, rest⟩ => ⟨depth loops, rest⟩, id⟩

theorem pushLoop_keep (s : State) (entry count : BitVec 32) (top : Option (BitVec 24)) :
    s.limits.Keep (s.pushLoop entry count top).limits := by
  unfold State.pushLoop
  dsimp only
  split
  · refine ⟨id, fun ⟨loops, pairs, imask, views⟩ => ⟨loops, pairs, imask, ?_⟩, id⟩
    exact (views_or s.sys.stky (m := 0x02000000) (by decide)).trans views
  · next room =>
    refine loops_keep rfl fun _ => ?_
    show (s.stk.depth + 1).toNat ≤ 6
    bv_omega

theorem popLoop_keep (s : State) : s.popLoop.Keeps s := by
  unfold State.popLoop
  split
  · next looping =>
    have deep : s.stk.depth ≠ 0 := by simpa [State.looping] using looping
    refine loops_keep rfl fun h => ?_
    show (s.stk.depth - 1).toNat ≤ 6
    bv_omega
  · trivial

theorem popPc_keep (s : State) : s.popPc.Keeps s := by
  unfold State.popPc
  split
  · trivial
  · exact .refl _

theorem pushStatus_keep (s : State) : s.limits.Keep s.pushStatus.limits := by
  unfold State.pushStatus
  split
  · refine ⟨id, fun ⟨loops, pairs, imask, views⟩ => ⟨loops, pairs, imask, ?_⟩, id⟩
    exact (views_or s.sys.stky (m := 0x00800000) (by decide)).trans views
  · next room => exact ⟨id, fun ⟨loops, _, rest⟩ => ⟨loops, by simpa [State.limits] using room, rest⟩, id⟩

theorem popStatus_keep (s : State) : s.popStatus.Keeps s := by
  unfold State.popStatus
  split
  · trivial
  · next a m rest hs =>
    refine ⟨id, fun ⟨loops, pairs, others⟩ => ⟨loops, ?_, others⟩, id⟩
    rw [State.limits, hs] at pairs
    exact (Nat.le_succ _).trans pairs

theorem clearInterrupt_keep (s : State) : s.clearInterrupt.Keeps s := by
  unfold State.clearInterrupt
  split
  · exact .refl _
  · dsimp only
    split
    · exact (popStatus_keep s).bind fun t ht => ht
    · exact .refl _

/-! ### Branches and loops -/

theorem jumpTo_keep (s : State) (a ci j : Bool) (t : BitVec 24) : (s.jumpTo a ci j t).Keeps s := by
  have ended (x : State) : (State.jumpTo x false ci j t).Keeps x := by
    cases ci
    · exact .refl _
    · exact (clearInterrupt_keep x).bind fun y hy => hy
  cases a
  · exact ended s
  · exact ((popLoop_keep s).bind fun x hx => (popPc_keep x).trans hx).bind fun y hy => (ended y).trans hy

theorem callTo_keep (s : State) (j : Bool) (t : BitVec 24) : (s.callTo j t).Keeps s := by
  simp [State.callTo, State.pushReturn]

theorem returnFromSub_keep (s : State) (delayed lr : Bool) : (s.returnFromSub delayed lr).Keeps s :=
  (popPc_keep s).bind fun x hx => by cases lr <;> simpa using hx

theorem returnFromInterrupt_keep (s : State) (delayed : Bool) : (s.returnFromInterrupt delayed).Keeps s :=
  (popPc_keep s).bind fun x hx => (clearInterrupt_keep x).bind fun y hy => by simpa using hx.trans hy

theorem given_keep (s : State) (cond : BitVec 5) {f : State → Act State} (h : ∀ t, (f t).Keeps t) :
    (s.given cond f).Keeps s := by
  have noted : s.limits.Keep (s.noteCond cond).limits := by simp
  unfold State.given
  split
  · exact (h _).trans noted
  · exact noted

theorem givenAccess_keep (s : State) (cond : BitVec 5) (a : BitVec 32) {f : State → Act State} (h : ∀ t, (f t).Keeps t) :
    (s.givenAccess cond a f).Keeps s := by
  have noted : s.limits.Keep (s.noteCond cond).limits := by simp
  unfold State.givenAccess
  split
  · exact (h _).trans noted
  · show s.limits.Keep (State.seekBus _ a).limits
    rwa [limits_seekBus]

theorem branchElse_keep (s : State) (cond : BitVec 5) (e : Bool) (c : Compute) {f : State → Act State}
    (h : ∀ t, (f t).Keeps t) : (s.branchElse cond e c f).Keeps s := by
  have noted : s.limits.Keep (s.noteCond cond).limits := by simp
  unfold State.branchElse
  dsimp only
  split
  · exact (h _).trans (by cases e <;> simp)
  · cases e <;> simp

theorem jumpElseMove_keep (s : State) (d : Bool) (dmi dmm : BitVec 3) (cond : BitVec 5) (target : BitVec 24)
    (dreg : BitVec 4) (c : Compute) : (s.jumpElseMove d dmi dmm cond target dreg c).Keeps s := by
  have noted : s.limits.Keep (s.noteCond cond).limits := by simp
  unfold State.jumpElseMove
  dsimp only
  split
  · simp
  · exact (indexed_keep _ _ _ _ _ _ _ fun t => limits_compute t c).trans noted

theorem startLoop_keep (s : State) (len : BitVec 24) (code : BitVec 5) (kind : BitVec 2) (count : BitVec 32) :
    (s.startLoop len code kind count).Keeps s := by
  have pushed (entry : BitVec 32) (top : BitVec 24) (a : BitVec 24) :
      s.limits.Keep ((s.pushLoop entry count (some top)).pushPc a).limits := by
    rw [limits_pushPc]
    exact pushLoop_keep ..
  unfold State.startLoop
  split
  · trivial
  split
  · trivial
  · dsimp only
    split
    · exact pushed ..
    · exact pushed ..

theorem loopOp_keep (s : State) (push pop : Bool) : (s.loopOp push pop).Keeps s := by
  have pushed : s.limits.Keep (State.limits (if push then s.pushLoop ((freeAt s 4).setWidth 32)
      (sixth s.stk.count s.stk.depth.toNat) none else s)) := by
    split
    · exact pushLoop_keep ..
    · exact .refl _
  cases pop
  · exact pushed
  · exact (popLoop_keep _).trans pushed

theorem statusOp_keep (s : State) (push pop : Bool) : (s.statusOp push pop).Keeps s := by
  have pushed : s.limits.Keep (State.limits (if push then s.pushStatus else s)) := by
    split
    · exact pushStatus_keep s
    · exact .refl _
  cases pop
  · exact pushed
  · exact (popStatus_keep _).trans pushed

theorem pcOp_keep (s : State) (a : BitVec 24) (push pop : Bool) : (s.pcOp a push pop).Keeps s := by
  have pushed : s.limits.Keep (State.limits (if push then s.pushPc a else s)) := by split <;> simp
  cases pop
  · exact pushed
  · exact (popPc_keep _).trans pushed

theorem stackOps_keep (s : State) (lpu lpo spu spo ppu ppo fc : Bool) : (s.stackOps lpu lpo spu spo ppu ppo fc).Keeps s := by
  by_cases both : ((lpu && lpo) || (spu && spo) || (ppu && ppo)) = true
  · rw [State.stackOps, if_pos both]
    trivial
  · rw [stackOps_eq s fc both]
    refine (loopOp_keep ..).bind fun x hx => (statusOp_keep ..).bind fun y hy => (pcOp_keep ..).bind fun z hz => ?_
    have flushed : (if fc then z.flush else z).limits = z.limits := by split <;> simp
    show s.limits.Keep (State.limits (if fc then z.flush else z))
    rw [flushed]
    exact hx.trans (hy.trans hz)

theorem storeImm_keep (s : State) (pm : Bool) (a data : BitVec 32) : (s.storeImm pm a data).Keeps s := by
  unfold State.storeImm
  split
  · exact .refl _
  · exact store_keep ..

theorem limits_cjump (s : State) (t : BitVec 24) : (s.cjump t).limits = s.limits := by simp [State.cjump]

theorem halt_keep (s : State) (m : CoreMode) : (s.halt m).Keeps s := by
  unfold State.halt
  split
  · trivial
  · exact .refl _

/-! ### The dispatch -/

/-- The outcome of an instruction that keeps to the limits. -/
structure Kept (s : State) (o : Host.Outcome State Fault Refusal) : Prop where
  next : ∀ t, o = .next t → s.limits.Keep t.limits

theorem kept_finish {s : State} {a : Act State} (h : a.Keeps s) : Kept s (finish s a) where
  next t ht := by
    match a with
    | .ok x => cases ht; exact h
    | .error (.stall w) => cases ht; exact .refl _
    | .error (.fault _) => cases ht
    | .error (.refuse _) => cases ht

theorem kept_ok {s t : State} (h : t.limits = s.limits) : Kept s (finish s (.ok t)) :=
  kept_finish (by simp [h])

theorem kept_computeRow (s : State) (c : Compute) : Kept s (computeRow s c) := kept_finish (by simp)

theorem kept_shiftImm (s : State) (op : ShiftImmOp) (cond : BitVec 5) (dx : BitVec 4) (data : BitVec 8) (rn rx : BitVec 4) :
    Kept s (s.shiftImmAlone op cond dx data rn rx) :=
  kept_finish (given_keep s cond fun t => by simp)

theorem kept_shiftImmMove (s : State) (op : ShiftImmOp) (i m : BitVec 3) (cond : BitVec 5) (g d : Bool)
    (dx dreg : BitVec 4) (data : BitVec 8) (rn rx : BitVec 4) : Kept s (s.shiftImmMove op i m cond g d dx dreg data rn rx) :=
  kept_finish (givenAccess_keep s cond _ fun _ => indexed_keep _ _ _ _ _ _ _ fun t => limits_shiftImm t op dx data rn rx)

theorem plainTransfer_keep (s : State) (g d : Bool) (u : Ureg) (a : BitVec 32) : (s.transfer g d u a id id).Keeps s :=
  transfer_keep s g d u a (c := id) (upd := id) (fun _ => rfl) fun _ => rfl

theorem kept_uregMemImm32 (g : Bool) (i : BitVec 3) (d : Bool) (u : Ureg) (data : BitVec 32) (s : State) :
    Kept s (execUregMemImm32 g i d u data s) := by
  unfold execUregMemImm32
  split
  · exact ⟨fun _ h => nomatch h⟩
  · exact kept_finish (plainTransfer_keep s g d u _)

theorem kept_memImm32Store (i m : BitVec 3) (g : Bool) (data : BitVec 32) (s : State) :
    Kept s (execMemImm32Store i m g data s) := by
  refine kept_finish ?_
  have stored := storeImm_keep s g (s.postAddr g i) data
  split
  · exact ends_of_error _
  · next t h =>
    show s.limits.Keep (State.limits (State.postmodify ..))
    rw [limits_postmodify]
    exact stored.of_ok h

/-- No instruction leads beyond the limits. -/
theorem exec_keep (i : Instr) (s : State) : Kept s (exec i s) := by
  cases i with
  | dmPmDualMove => exact kept_finish (dualMove_keep ..)
  | compute cond c => exact kept_finish (given_keep s cond fun t => by simp)
  | uregMemMoveM u i m cond g d ureg c =>
    refine kept_finish (givenAccess_keep s cond _ fun t => ?_)
    split
    · trivial
    · exact indexed_keep _ _ _ _ _ _ _ fun t => limits_compute t c
  | dregMemMoveImm6 i g d u cond data dreg c =>
    exact kept_finish (givenAccess_keep s cond _ fun _ => indexed_keep _ _ _ _ _ _ _ fun t => limits_compute t c)
  | uregUregMove src cond dst c =>
    refine kept_finish (given_keep s cond fun t => ?_)
    split
    · exact ends_of_error _
    · exact (uregWrite_keep ..).trans (by simp)
  | lshiftImm | orLshiftImm | ashiftImm | orAshiftImm | rotImm | bclrImm | bsetImm | btglImm | btstImm | fdepImm | orFdepImm
  | fdepSeImm | orFdepSeImm | fextImm | fextSeImm => exact kept_shiftImm ..
  | lshiftImmMove | orLshiftImmMove | ashiftImmMove | orAshiftImmMove | rotImmMove | bclrImmMove | bsetImmMove | btglImmMove
  | btstImmMove | fdepImmMove | orFdepImmMove | fdepSeImmMove | orFdepSeImmMove | fextImmMove | fextSeImmMove =>
    exact kept_shiftImmMove ..
  | modify g cond i m c => exact kept_finish (given_keep s cond fun t => by simp)
  | jumpDirect a cond j ci | jumpPcrel a cond j ci => exact kept_finish (given_keep s cond fun t => jumpTo_keep ..)
  | callDirect a cond j | callPcrel a cond j => exact kept_finish (given_keep s cond fun t => callTo_keep ..)
  | jumpIndirect | jumpPcrel6 => exact kept_finish (branchElse_keep _ _ _ _ fun t => jumpTo_keep ..)
  | callIndirect | callPcrel6 => exact kept_finish (branchElse_keep _ _ _ _ fun t => callTo_keep ..)
  | jumpIndirectElseMove | jumpPcrel6ElseMove => exact kept_finish (jumpElseMove_keep ..)
  | rts => exact kept_finish (branchElse_keep _ _ _ _ fun t => returnFromSub_keep ..)
  | rti => exact kept_finish (branchElse_keep _ _ _ _ fun t => returnFromInterrupt_keep ..)
  | lcntrImmDo | doUntil => exact kept_finish (startLoop_keep ..)
  | lcntrUregDo u =>
    refine kept_finish ?_
    split
    · exact ends_of_error _
    · exact startLoop_keep ..
  | uregMemDirect g d u a => exact kept_finish (plainTransfer_keep s g d u _)
  | uregMemImm32 => exact kept_uregMemImm32 ..
  | memImm32Store => exact kept_memImm32Store ..
  | uregImm32 => exact kept_finish (uregWrite_keep ..)
  | bitSet | bitClr | bitTgl => exact kept_finish (sregWrite_keep ..)
  | bitTst | bitXor => exact kept_ok (limits_setBtf ..)
  | modifyImm => exact kept_ok (limits_postmodify ..)
  | bitrevImm => exact kept_ok (limits_setDagReg ..)
  | pushLoop lpo spu spo ppu ppo fc => exact kept_finish (stackOps_keep s true lpo spu spo ppu ppo fc)
  | popLoop spu spo ppu ppo fc => exact kept_finish (stackOps_keep s false true spu spo ppu ppo fc)
  | pushSts spo ppu ppo fc => exact kept_finish (stackOps_keep s false false true spo ppu ppo fc)
  | popSts ppu ppo fc => exact kept_finish (stackOps_keep s false false false true ppu ppo fc)
  | pushPcstk ppo fc => exact kept_finish (stackOps_keep s false false false false true ppo fc)
  | popPcstk fc => exact kept_finish (stackOps_keep s false false false false false true fc)
  | flushCache fc => exact kept_finish (stackOps_keep s false false false false false false fc)
  | nop => exact kept_ok rfl
  | idle | idle16 => exact kept_finish (halt_keep ..)
  | cjumpDirect | cjumpPcrel => exact kept_ok (limits_cjump ..)
  | rframe => exact kept_finish (transfer_keep s _ _ _ _ (c := id) (fun _ => rfl) fun _ => limits_setDagReg ..)
  | _ => exact kept_computeRow ..

end Sys2Proof.Machine
end

section
/-! Every step keeps to the limits: fetch, instruction, sequencer, what acts beside them, and the end of the step
(60_exceptions.md section 3; 70_reset_and_hazards.md section 1). -/

namespace Sys2Proof.Machine

/-! ### The fetch -/

theorem fetchPlain_keep (s : State) (a : BitVec 24) (site : Nat) :
    (s.fetchPlain a site).Ends True fun p => p.2.limits = s.limits := by
  unfold State.fetchPlain
  split
  · split
    · exact limits_extTouch s true
    · trivial
  · rfl

theorem fill_keep (s : State) (kill : Bool) (ir : Option Fetched) (a : BitVec 24) (site : Nat) :
    (s.fill kill ir a site).Ends True fun p => p.2.limits = s.limits := by
  unfold State.fill
  split
  · rfl
  split
  · rfl
  split
  · exact ends_of_error _
  · next h => exact (fetchPlain_keep s a site).of_ok h

theorem fetch_keep (s : State) (a : BitVec 24) (pm : Bool) (site : Nat) :
    (s.fetch a pm site).Ends True fun p => p.2.limits = s.limits := by
  unfold State.fetch
  split
  · split
    · exact limits_setCacheSet ..
    split
    · exact ends_of_error _
    · next f t h =>
      have fetched : t.limits = s.limits := (fetchPlain_keep s a site).of_ok h
      show State.limits (if _ then t else t.setCacheSet a _) = _
      split
      · exact fetched
      · rwa [limits_setCacheSet]
  · exact fetchPlain_keep s a site

theorem issue_keep (s : State) : s.issue.Ends True fun j => j.state.limits = s.limits := by
  unfold State.issue
  split
  · rfl
  · refine (fill_keep ..).bind fun p hp => (fill_keep ..).bind fun q hq => ?_
    have decoded : Act.Ends True (fun _ => True) (q.2.decodeAtPc p.1) := by
      cases q.2.decodeAtPc p.1 with
      | ok => trivial
      | error e => exact ends_of_error e
    exact decoded.bind fun i _ => (fetch_keep ..).bind fun r hr => hr.trans (hq.trans hp)

/-! ### The sequencer -/

theorem dropLoop_keep (u s : State) : u.limits.Keep (u.dropLoop s).limits := by
  unfold State.dropLoop
  dsimp only
  split
  · next pushed =>
    refine loops_keep rfl fun h => ?_
    show (u.stk.depth - 1).toNat ≤ 6
    bv_omega
  split
  · exact .refl _
  · next deep =>
    refine loops_keep rfl fun h => ?_
    show (u.stk.depth - 1).toNat ≤ 6
    bv_omega

theorem limits_dropPc (u s : State) : (u.dropPc s).limits = u.limits := by
  unfold State.dropPc
  dsimp only
  split
  · rfl
  split <;> rfl

theorem loopCount_keep (u s : State) (l : LoopStep) : u.limits.Keep (u.loopCount s l).limits := by
  have left : u.limits.Keep ((u.dropLoop s).dropPc s).limits := by
    rw [limits_dropPc]
    exact dropLoop_keep u s
  have counted : u.limits.Keep (State.limits (if s.loopType = 0 then u
      else { u with stk.count := setSixth u.stk.count (s.stk.depth.toNat - 1) (s.countAfter u) })) := by
    split <;> exact .refl _
  cases l with
  | pass | reenter => exact .refl _
  | again | shortAgain => exact counted
  | exit | shortExit => exact left

theorem counted_keep (s u : State) : u.limits.Keep (s.counted u).limits := by
  unfold State.counted
  split
  · exact .refl _
  · exact loopCount_keep ..

theorem takeInterrupt_keep (s : State) (k : Nat) (v : BitVec 24) : s.limits.Keep (s.takeInterrupt k v).limits := by
  have pushed : s.limits.Keep (s.pushPc s.pipe.daddr).limits := by simp
  have saved : s.limits.Keep (State.limits (if pushesStatus k then (s.pushPc s.pipe.daddr).pushStatus
      else s.pushPc s.pipe.daddr)) := by
    split
    · exact pushed.trans (pushStatus_keep _)
    · exact pushed
  exact saved

theorem limits_movedOn (x s : State) (f : Fetched) (l : LoopStep) (b : Branch) : (x.movedOn s f l b).limits = x.limits := by
  rw [movedOn_frame]
  rfl

theorem sequence_keep (s u : State) (f : Fetched) : u.limits.Keep (s.sequence u f).limits := by
  rw [sequence_eq]
  split
  · exact (counted_keep s u).trans (takeInterrupt_keep ..)
  · rw [limits_movedOn]
    exact counted_keep s u

/-! ### The end of a step -/

/-- How a step ends that began within the limits `a` with the interrupts `m` in service. -/
structure Ended (a : Limits) (m : BitVec 32) (t : State) : Prop where
  limits : a.Keep t.limits
  rest : t.tr = State.restTransient
  latches : t.sys.irptl &&& m = 0

/-- A reset empties stacks and buffers; memory stays. -/
theorem limits_resetNow (s : State) : s.resetNow.limits
    = { (State.resetWith s.env.bootMode s.env.id).limits with mem := s.mem, shadow := s.shadow } := by
  unfold State.resetNow
  generalize State.resetWith s.env.bootMode s.env.id = r
  rfl

theorem resetNow_keep (s : State) : s.limits.Keep s.resetNow.limits := by
  obtain ⟨-, core, buffers⟩ := resetMeetsTheInvariants s.env.bootMode s.env.id
  obtain ⟨core, -⟩ := (coreInv_iff _).mp core
  rw [limits_resetNow]
  exact ⟨id, fun _ => core, fun _ => (bufferInv_iff _).mp buffers⟩

theorem close_ended {a : Limits} {m : BitVec 32} {s : State} (limits : a.Keep s.limits) (latches : s.sys.irptl &&& m = 0) :
    Ended a m s.close := by
  by_cases hr : s.tr.reset = true
  · have closed : s.close = (State.resetNow { s with free := s.free + 1 }).fresh := by
      unfold State.close
      dsimp only
      rw [if_pos hr]
    rw [closed]
    exact ⟨limits.trans (resetNow_keep { s with free := s.free + 1 }), rfl, BitVec.zero_and⟩
  · rw [close_plain hr]
    exact ⟨limits, rfl, latches⟩

theorem latched_clear (v m : BitVec 32) : (v &&& ~~~m) &&& m = 0 := by
  rw [BitVec.and_assoc, BitVec.and_comm (~~~m), BitVec.and_not_self]
  exact BitVec.and_zero

theorem elapse_ended {a : Limits} {m : BitVec 32} {s : State} (limits : a.Keep s.limits) (latches : s.sys.irptl &&& m = 0) :
    Ended a m s.elapse.close := by
  have irptl : s.elapse.sys.irptl = s.sys.irptl := congrArg (·.sys.irptl) (coreView_elapse s)
  exact close_ended (by rwa [limits_elapse]) (by rwa [irptl])

/-- What acts beside the instruction does not wait. -/
theorem beside_keep_ends (s : State) (longer : Bool) : (s.beside longer).Ends False fun t => s.limits.Keep t.limits := by
  have kept := beside_keep s longer
  have ends := beside_ends s longer
  cases hb : s.beside longer with
  | ok t => exact kept.of_ok hb
  | error e => exact ends.error hb

theorem waitStep_ended (s : State) (w : Wait) (m : Option Bool) :
    (s.waitStep w m).Ends False (Ended s.limits s.sys.imaskp) := by
  have paid : (if w = .count then s.payBudget else s).limits = s.limits := by split <;> rfl
  refine (beside_keep_ends _ true).bind fun t ht => ?_
  exact elapse_ended (s := State.latch _ s false) (paid ▸ ht) (latched_clear ..)

theorem fullStep_ended (s : State) (i : Option Instr) (u : State) (f : Fetched) :
    (s.fullStep i u f).Ends False (Ended u.limits s.sys.imaskp) :=
  (beside_keep_ends _ _).bind fun t ht =>
    elapse_ended (s := ((t.latch s true).settleLatency s).noteLoads s i) ((sequence_keep s u f).trans ht) (latched_clear ..)

theorem conclude_ended {s u t : State} {i : Option Instr} {f : Fetched} (hu : s.limits.Keep u.limits)
    (h : s.conclude i u f = .next t) : Ended s.limits s.sys.imaskp t := by
  unfold State.conclude at h
  split at h
  · exact (waitStep_ended ..).finish_next h
  split at h
  · cases h
  · obtain ⟨limits, rest, latches⟩ := (fullStep_ended ..).finish_next h
    exact ⟨hu.trans limits, rest, latches⟩

theorem coreStep_ended {s t : State} (h : s.coreStep = .next t) : Ended s.limits s.sys.imaskp t := by
  unfold State.coreStep at h
  split at h
  · exact (waitStep_ended ..).finish_next h
  · cases h
  · cases h
  · next j hj =>
    have issued : s.limits.Keep j.state.limits := (issue_keep s).of_ok hj ▸ .refl _
    split at h
    · exact conclude_ended issued h
    · next i _ =>
      split at h
      · next u hu => exact conclude_ended (issued.trans ((exec_keep i _).next u hu)) h
      · cases h
      · cases h

theorem step_ended {s t : State} (h : step s = .next t) : Ended s.limits s.sys.imaskp t := by
  unfold step State.cycle at h
  split at h
  · cases h
  split at h
  · next x hx =>
    have ahead : s.limits.Keep x.limits := (ahead_keep s.fresh).of_ok hx
    have service : x.sys.imaskp = s.sys.imaskp := congrArg (·.sys.imaskp) ((ahead_spares s.fresh).of_ok hx)
    obtain ⟨limits, rest, latches⟩ := coreStep_ended h
    exact ⟨ahead.trans limits, rest, service ▸ latches⟩
  · next hw => exact ((ahead_spares s.fresh).not_stall hw).elim
  · cases h
  · cases h

end Sys2Proof.Machine

open Sys2Proof Sys2Proof.Machine

/-- Settles O7: bytes reach memory through `writeExt` and the FIFO only, and each keeps the byte list canonical. -/
theorem everyStepKeepsMemoryCanonical : Obligations.EveryStepKeepsMemoryCanonical := by
  intro s t hs h
  rw [memInv_iff] at hs ⊢
  exact (step_ended h).limits.1 hs

/-- Settles O8: the stack operations keep to their stacks, and the latch at the end of the step clears the bits in service. -/
theorem everyStepKeepsTheCoreRegisters : Obligations.EveryStepKeepsTheCoreRegisters := by
  intro s t hs h
  obtain ⟨limits, rest, latches⟩ := step_ended h
  rw [coreInv_iff] at hs ⊢
  exact ⟨⟨limits.2.1 hs.1, rest⟩, latches⟩

/-- Settles O9: a buffer takes a word or a request only where it is not full. -/
theorem everyStepKeepsTheBufferDepths : Obligations.EveryStepKeepsTheBufferDepths := by
  intro s t hs h
  rw [bufferInv_iff] at hs ⊢
  exact (step_ended h).limits.2.2 hs
end
